-- ==== Sys2Proof/Word.lean ====
section
/-! DEFINITION. The word types of the GX4 and their plainest arithmetic. -/

namespace Sys2Proof

/-- A byte of memory or of a message. -/
abbrev Byte := BitVec 8

/-- A 64-bit register, CSR or bus word. -/
abbrev Word := BitVec 64

/-- The all-ones word (x15 without a pot, R84; the reset value of MTIMECMP, R64). -/
def Word.ones : Word := 0xFFFFFFFFFFFFFFFF

end Sys2Proof
end

