-- ==== Sys2Proof/Syntax.lean ====
section
/-! DEFINITION. The commands of the GX4 block (spec/opcode_table.json, one constructor per row) and their operands.
The block takes its commands from outside; a command names the unit it acts on (a tile, a context, a port, a die) and
carries what the sender supplies, among it every choice the spec leaves free (which item a dealer takes, which pending
access is performed next): the meaning checks the choice against the spec's rules. -/

namespace Sys2Proof

/-- A tile (R4): only valid tile IDs can be written down, as no device unit generates an invalid one (R7). -/
structure TileId where
  die : Fin 4
  field : Fin 3
  row : Fin 6
  col : Fin 8
  deriving DecidableEq, Repr

/-- A quad (R5). -/
structure QuadId where
  die : Fin 4
  field : Fin 3
  qrow : Fin 3
  qcol : Fin 4
  deriving DecidableEq, Repr

/-- A compute die C0 to C3; also the link die and the die block of the same number (R3). -/
abbrev DieId := Fin 4
/-- A DRAM stack (R6). -/
abbrev StackId := Fin 12
/-- An Espex port E0 to E15. -/
abbrev PortId := Fin 16
/-- A hardware context of a tile (R32). -/
abbrev CtxId := Fin 32
/-- A vector context of a tile (R34). -/
abbrev VctxId := Fin 4
/-- A job slot (R37). -/
abbrev JSlot := Fin 4
/-- An integer register x0 to x31, or the number in a 5-bit register field (R54). -/
abbrev XReg := Fin 32
/-- A traffic class: 0 spades, 1 hearts, 2 diamonds, 3 clubs. -/
abbrev Suit := Fin 4

/-- A hardware context of the device. -/
structure CtxRef where
  tile : TileId
  ctx : CtxId
  deriving DecidableEq, Repr

/-- The size of the instruction that a context executes: compressed (C extension) or 32 bits. -/
inductive ISize where
  | two | four
  deriving DecidableEq, Repr

/-- The size of an encoding of any kind: 2, 4 or 8 bytes. -/
inductive ILen where
  | two | four | eight
  deriving DecidableEq, Repr

/-- The width of a scalar access: 1, 2, 4 or 8 bytes. -/
inductive Width where
  | b | h | w | d
  deriving DecidableEq, Repr

/-- The AMO operations of the A extension. -/
inductive AmoOp where
  | swap | add | xor | and | or | min | max | minu | maxu
  deriving DecidableEq, Repr

/-- Conditional branches. -/
inductive BrOp where
  | beq | bne | blt | bge | bltu | bgeu
  deriving DecidableEq, Repr

/-- Register-register operations on 64 bits: I, M, Zba and Zbb. -/
inductive AluOp where
  | add | sub | sll | slt | sltu | xor | srl | sra | or | and
  | mul | mulh | mulhsu | mulhu | div | divu | rem | remu
  | sh1add | sh2add | sh3add | addUw | sh1addUw | sh2addUw | sh3addUw
  | andn | orn | xnor | max | maxu | min | minu | rol | ror
  deriving DecidableEq, Repr

/-- Register-register operations on 32 bits. -/
inductive AluWOp where
  | addw | subw | sllw | srlw | sraw | mulw | divw | divuw | remw | remuw | rolw | rorw
  deriving DecidableEq, Repr

/-- Operations with a 12-bit immediate. -/
inductive AluIOp where
  | addi | slti | sltiu | xori | ori | andi | addiw
  deriving DecidableEq, Repr

/-- Shifts and rotates by an immediate. -/
inductive ShiftOp where
  | slli | srli | srai | rori | slliUw | slliw | srliw | sraiw | roriw
  deriving DecidableEq, Repr

/-- One-operand operations of Zbb. -/
inductive UnOp where
  | clz | ctz | cpop | clzw | ctzw | cpopw | sextB | sextH | zextH | orcB | rev8
  deriving DecidableEq, Repr

/-- The CSR access forms: write, set bits, clear bits. -/
inductive CsrOp where
  | rw | rs | rc
  deriving DecidableEq, Repr

/-- The source of a CSR access: a register or a 5-bit immediate. -/
inductive CsrSrc where
  | reg (r : XReg)
  | imm (v : Fin 32)
  deriving DecidableEq, Repr

/-- The integer instructions of R27 that the row INTEGER_INSTRUCTION executes. A compressed instruction is the
instruction it expands to, with size `ISize.two`. -/
inductive IntOp where
  | lui (rd : XReg) (imm : BitVec 20)
  | auipc (rd : XReg) (imm : BitVec 20)
  | jal (rd : XReg) (off : BitVec 20)
  | jalr (rd rs1 : XReg) (imm : BitVec 12)
  | branch (op : BrOp) (rs1 rs2 : XReg) (off : BitVec 12)
  | alu (op : AluOp) (rd rs1 rs2 : XReg)
  | aluW (op : AluWOp) (rd rs1 rs2 : XReg)
  | aluI (op : AluIOp) (rd rs1 : XReg) (imm : BitVec 12)
  | shift (op : ShiftOp) (rd rs1 : XReg) (shamt : Fin 64)
  | unary (op : UnOp) (rd rs1 : XReg)
  | csr (op : CsrOp) (rd : XReg) (num : BitVec 12) (src : CsrSrc)
  | fenceI
  | ecall
  deriving DecidableEq, Repr

/-- The register fields of a 32-bit Bualva instruction (R54). A field that the instruction's definition fixes may hold
another value, which is then a reserved encoding (R12). -/
structure RFields where
  rs2 : XReg
  rs1 : XReg
  rd : XReg
  deriving DecidableEq, Repr

/-- The free fields of a vector instruction (R189) with two sources. -/
structure VFields where
  m : Bool
  sm : Fin 4
  rs2 : XReg
  rs1 : XReg
  rd : XReg
  deriving DecidableEq, Repr

/-- The free fields of a vector instruction whose rs2 field is its sub-operation code (R189). -/
structure UFields where
  m : Bool
  sm : Fin 4
  rs1 : XReg
  rd : XReg
  deriving DecidableEq, Repr

/-- The fields of a 64-bit long-form instruction (R56) that the row does not fix. -/
structure LFields where
  rd : XReg
  rs1 : XReg
  rs2 : XReg
  imm : BitVec 32
  deriving DecidableEq, Repr

/-- The internal name of a shard (R95): the home tile and slot name, and the shard's index. -/
structure ShardRef where
  tile : TileId
  slot : BitVec 20
  j : Fin 64
  deriving DecidableEq, Repr

/-- The name of a slot: a program's 20-bit name, or the internal name of a shard (R95). -/
inductive SlotName where
  | prog (n : BitVec 20)
  | shard (r : ShardRef)
  deriving DecidableEq, Repr

/-- A token (R70): its header fields and its payload bytes. `dtile` keeps all ten bits, so that a token for an
invalid tile ID can be written down (R79). `shard` is set only on the meld store's own tokens: the shard that an
arming SPAWN or a forwarded token goes to, or that a POT.MERGE comes from (R95, R98). -/
structure Token where
  ddev : BitVec 14
  dtile : BitVec 10
  slot : BitVec 20
  op : BitVec 6
  suit : Suit
  jslot : JSlot
  epoch : BitVec 8
  plen : BitVec 5
  rsv : Bool
  arg : BitVec 32
  xid : BitVec 16
  xseq : BitVec 12
  payload : List Byte
  shard : Option ShardRef
  deriving DecidableEq, Repr

/-- A link packet (R387): the fields of its routing header and the bytes after it, 16 bytes a unit. `rsv` says that a
reserved bit of the routing header is set. -/
structure Packet where
  ptype : BitVec 6
  vc : Fin 8
  pool : BitVec 2
  pin : Bool
  lgrp : BitVec 3
  ttl : BitVec 5
  fwd : Bool
  ddev : BitVec 14
  sdev : BitVec 14
  jslot : JSlot
  epoch : BitVec 8
  rsv : Bool
  body : List Byte
  deriving DecidableEq, Repr

/-- The units that journal records, exclusions and boot steps name (R472): their kind and index. -/
inductive UnitId where
  | none
  | stack (s : StackId)
  | port (p : PortId)
  | quad (q : QuadId)
  | tile (t : TileId)
  | bridge (b : Fin 4)
  | host
  | die (d : DieId)
  | job (j : JSlot)
  deriving DecidableEq, Repr

/-- Where XFER_TIMEOUT is measured (R330): at the sender, a transfer of a tile; at the receiver, an entry of a link die's
pending-signal table. -/
inductive XferAt where
  | sender (t : TileId) (slot : Nat)
  | receiver (d : DieId) (i : Nat)
  deriving DecidableEq, Repr

/-- The order in which a port finds its receive lanes (R381). -/
inductive LaneOrder where
  | same | reversed | other
  deriving DecidableEq, Repr

/-- A fault found on a physical receive lane (R381, R405): LANEDIAG's code 1 to 5, and the other lane of a short. -/
structure LaneFault where
  lane : Fin 4
  code : Fin 6
  other : Fin 4
  deriving DecidableEq, Repr

/-- What the training of a port finds (R381, R382): lane faults, inverted lanes, the lane order, the logical lanes that the
peer receives well (its RXOK), the logical lanes that fail qualification, the neighbour, and the antes of its pools by pool ID
(VC × 4 + pool), granted in full at T5 (R381, R392). A fast retrain finds `peerOk` and `poor` only. -/
structure Training where
  faults : List LaneFault
  inverted : BitVec 4
  order : LaneOrder
  peerOk : BitVec 4
  poor : BitVec 4
  nbrDev : BitVec 14
  nbrPort : Fin 16
  antes : List Nat
  deriving DecidableEq, Repr

/-- A time of a time-sync message: nanoseconds, and their fraction in units of 2^-16 ns (R401). -/
structure Stamp where
  ns : Word
  frac : BitVec 16
  deriving DecidableEq, Repr

/-- What a port's receiver has of a data flit (R379, R386): the symbols of its FEC block as each lane brought them, and which of the
block's five flits it is. -/
structure FecIn where
  lanes : List (List (BitVec 10))
  flit : Fin 5
  deriving DecidableEq, Repr

/-- What the check of a memory block finds (R347): no error, one corrected (in DRAM, its symbol), or an uncorrectable one. -/
inductive Ecc where
  | good
  | corrected (sym : Fin 32)
  | uncorrectable
  deriving DecidableEq, Repr

/-- Where range registers are written (R362): one stack's block or the broadcast alias. -/
inductive RangeAt where
  | stack (k : StackId)
  | all
  deriving DecidableEq, Repr

/-- A GXHT packet: the fields of its 32-byte header (R416); `rsv`: a reserved bit of the header is set; `payload` is what follows
the header. -/
structure HtPkt where
  ver : BitVec 4
  typ : BitVec 4
  suit : Suit
  last : Bool
  rsv : Bool
  conn : BitVec 16
  psn : BitVec 32
  msn : BitVec 32
  plen : BitVec 14
  ts : Word
  arg : Word
  payload : List Byte
  deriving DecidableEq, Repr

/-- The other end of a GXHT packet: IP version, station address, UDP port and IP address (R412, R430). -/
structure HtPeer where
  v6 : Bool
  mac : BitVec 48
  port : BitVec 16
  ip : BitVec 128
  deriving DecidableEq, Repr

/-- A UDP datagram as a frame brings it (R410, R412, R414): its bytes, from whom, the address, the port and the checksum that it
carries, whether the frame has a C-tag, whether the datagram is CE-marked, and the MACsec association that protected the frame. -/
structure HtIn where
  data : List Byte
  peer : HtPeer
  dst : BitVec 128
  port : BitVec 16
  sum : BitVec 16
  tagged : Bool
  ce : Bool
  sec : Option (Word × Fin 4)
  deriving DecidableEq, Repr

/-- What key agreement changes: a secure association, by its SCI and number, installed with its key or retired in the transmit or
a receive channel (R414). -/
inductive MacsecOp where
  | none
  | install (rx : Bool) (sci : Word) (an : Fin 4) (key : BitVec 256)
  | retire (rx : Bool) (sci : Word) (an : Fin 4)
  deriving DecidableEq, Repr

/-- The IEEE 1588 messages that a slave-only ordinary clock receives (R415), with the timestamps they carry. -/
inductive PtpMsg where
  | announce
  | sync (t1 : Option Word)
  | followUp (t1 : Word)
  | delayResp (t4 : Word)
  deriving DecidableEq, Repr

/-- An IEEE 1588 message, and the MACsec association that protected its frame (R414). -/
structure PtpIn where
  msg : PtpMsg
  sec : Option (Word × Fin 4)
  deriving DecidableEq, Repr

/-- Why the port drops a frame (R411, R414). -/
inductive FrameDrop where
  | fcs | macAddr | format | macsec | pause
  deriving DecidableEq, Repr

/-- What the host port's link does (R429): it drops, begins to train again, or ends training with the lanes that trained
and those received inverted. -/
inductive HostLink where
  | lost
  | training (negotiated : Option Bool)
  | trained (ok inverted : BitVec 8)
  deriving DecidableEq, Repr

/-- The choices that the steward makes at an admission (R439, R442), which the spec leaves to it: the granules granted, a cell
number for each SIGNALS entry, where the child lists stand, the base of each owned tile's kitty share and of each link die's
ledger, and for each LEND entry a spill window and its base. -/
structure AdmitPlan where
  granules : List Nat
  cells : List (Fin 65536)
  children : Nat
  kitty : List Nat
  ledgers : List Nat
  windows : List (Fin 16 × Nat)
  deriving DecidableEq, Repr

/-- What seating finds on a pin (R514): the resistance to ground in ohms, and whether the pin is driven toward a rail. -/
structure PinSense where
  ohms : BitVec 24
  driven : Bool
  deriving DecidableEq, Repr

/-- Common command codes of I3C Basic that a target acts on (R518): events enabled or disabled by mask, its dynamic address
given up, and what it returns; the others change nothing that the spec gives the target. -/
inductive I3cCcc where
  | enec (mask : BitVec 8)
  | disec (mask : BitVec 8)
  | rstdaa
  | getpid
  | getbcr
  | getdcr
  | getstatus
  | other (code : BitVec 8)
  deriving DecidableEq, Repr

/-! ### Messages of the embedding table unit (R388, R294; log 68) -/

/-- An entry of a request (R278): the row, the bag and the weight. -/
structure TblEntry where
  row : Nat
  bag : Nat
  w : BitVec 32
  deriving DecidableEq, Repr

/-- A gradient contribution (R287): its entry, and the n elements converted to integers of the gradient pot. `empty`: it is of a
MEAN bag whose count is 0. -/
structure TblGrad where
  ent : TblEntry
  s : List Int
  sat : Bool
  nan : Bool
  empty : Bool
  deriving DecidableEq, Repr

/-- A partial (R281): a bag's pot row, of fixed-128 where `wide`, with N, M and flags, and the entries dropped as absent. -/
structure TblPart where
  bag : Nat
  wide : Bool
  n : Nat
  m : Nat
  sat : Bool
  nan : Bool
  absent : Nat
  row : List Int
  deriving DecidableEq, Repr

/-- A row sent to a replica (R284), by its entry; or a row handed over (R293), by its local index, with its state record. -/
structure TblRow where
  idx : Nat
  present : Bool
  data : List Byte
  state : List Byte
  deriving DecidableEq, Repr

/-- What a table message carries (R281, R282, R284, R287, R292, R293). -/
inductive TblBody where
  | look (pool : Fin 4) (wide : Bool) (scale : BitVec 8) (l : List TblEntry)
  | grad (l : List TblGrad)
  | read (l : List (Nat × Nat))
  | part (p : TblPart)
  | ack (n absent : Nat)
  | rows (l : List TblRow)
  | put (row : Nat) (data : List Byte)
  | del (row : Nat)
  | copy (shard : Nat) (l : List (Nat × List Byte))
  | hand (shard va : Nat) (l : List TblRow)
  deriving DecidableEq, Repr

/-- A message between table units, or of one to itself: the fields of its routing and table headers (R387, R388), and
whether it has been forwarded (R294). -/
structure TblMsg where
  table : BitVec 8
  tepoch : BitVec 8
  rid : BitVec 32
  tile : BitVec 10
  src : BitVec 14
  dst : BitVec 14
  jslot : JSlot
  epoch : BitVec 8
  suit : Suit
  fwd : Bool
  body : TblBody
  deriving DecidableEq, Repr

/-! ### The commands -/

/-- The commands, one constructor per row of spec/opcode_table.json, in the table's order. -/
inductive Instr where
  /-- LOAD (R46). -/
  | load (c : CtxRef) (rd rs1 : XReg) (imm : BitVec 12) (w : Width) (uns : Bool) (sz : ISize)
  /-- STORE (R47). -/
  | store (c : CtxRef) (rs1 rs2 : XReg) (imm : BitVec 12) (w : Width) (sz : ISize)
  /-- AMO (R30). -/
  | amo (c : CtxRef) (op : AmoOp) (rd rs1 rs2 : XReg) (dbl aq rl : Bool)
  /-- LR (R30). -/
  | lr (c : CtxRef) (rd rs1 : XReg) (dbl aq rl : Bool)
  /-- SC (R30). -/
  | sc (c : CtxRef) (rd rs1 rs2 : XReg) (dbl aq rl : Bool)
  /-- FENCE (R47). -/
  | fence (c : CtxRef) (pred succ : BitVec 4)
  /-- FENCE_E (R49). -/
  | fenceE (c : CtxRef) (f : RFields)
  /-- FENCE_D (R49). -/
  | fenceD (c : CtxRef) (f : RFields)
  /-- WFI (R67). -/
  | wfi (c : CtxRef)
  /-- EBREAK (R65). -/
  | ebreak (c : CtxRef) (sz : ISize)
  /-- INTERRUPT (R67). -/
  | interrupt (c : CtxRef)
  /-- MRET (R132). -/
  | mret (c : CtxRef)
  /-- VERSION (R69). -/
  | version (c : CtxRef)
  /-- RANGE (R69). -/
  | range (c : CtxRef)
  /-- ECALL_TLB_FLUSH (R69). -/
  | ecallTlbFlush (c : CtxRef)
  /-- AFFWAIT (R69). -/
  | affwait (c : CtxRef)
  /-- VBIND (R34). -/
  | vbind (c : CtxRef) (f : RFields)
  /-- VBIND_T (R34). -/
  | vbindT (c : CtxRef) (f : RFields)
  /-- VUNBIND (R34). -/
  | vunbind (c : CtxRef) (f : RFields)
  /-- MJTLBINV (R63). -/
  | mjtlbinv (c : CtxRef) (op : CsrOp) (rd : XReg) (src : CsrSrc)
  /-- MTIMECMP (R64). -/
  | mtimecmp (c : CtxRef) (op : CsrOp) (rd : XReg) (src : CsrSrc)
  /-- TIMER_INTERRUPT (R64). -/
  | timerInterrupt (c : CtxRef)
  /-- TOKEN (R104). -/
  | token (c : CtxRef) (f : RFields) (far : List Byte)
  /-- TOKEN_I (R105). -/
  | tokenI (c : CtxRef) (f : LFields)
  /-- TOKEN_UNIT_SEND (R106). -/
  | tokenUnitSend (t : TileId) (i : Nat) (far : List Byte)
  /-- SPAWN (R82). -/
  | spawn (t : TileId) (k : Token)
  /-- SET (R83). -/
  | set (t : TileId) (k : Token) (hold : Bool)
  /-- ARRIVE (R82). -/
  | arrive (t : TileId) (k : Token) (hold : Bool)
  /-- POT_ADD (R87). -/
  | potAdd (t : TileId) (k : Token) (hold : Bool)
  /-- POT_ADDSQ (R87). -/
  | potAddsq (t : TileId) (k : Token) (hold : Bool)
  /-- POT_MAX (R87). -/
  | potMax (t : TileId) (k : Token) (hold : Bool)
  /-- POT_MIN (R87). -/
  | potMin (t : TileId) (k : Token) (hold : Bool)
  /-- POT_MERGE (R98). -/
  | potMerge (t : TileId) (k : Token)
  /-- MERGE_ROW_READ_COMPLETE (R98). -/
  | mergeRowReadComplete (r : ShardRef)
  /-- STAT (R92). -/
  | stat (t : TileId) (k : Token) (hold : Bool)
  /-- KITTY_DRAIN (R101). -/
  | kittyDrain (t : TileId) (n : SlotName) (victims : List Nat)
  /-- DEAL (R127). -/
  | deal (home : TileId) (idx : Nat) (ctx : CtxId) (far : List Byte)
  /-- AFFINITY_WAIT_EXPIRY (R124). -/
  | affinityWaitExpiry (home : TileId) (idx : Nat)
  /-- TEND (R129). -/
  | tend (c : CtxRef) (f : RFields)
  /-- DEAL_INTERRUPT (R131). -/
  | dealInterrupt (home : TileId) (idx : Nat) (ctx : CtxRef) (far : List Byte)
  /-- PREEMPT (R133). -/
  | preempt (home : TileId) (idx : Nat)
  /-- PREEMPT_SAVE (R134). -/
  | preemptSave (t : TileId) (far : List Byte)
  /-- RESTORE (R137). -/
  | restore (t : TileId) (i : Nat) (ctx : CtxId)
  /-- DLRCLR (R143). -/
  | dlrclr (q : QuadId) (w : Word)
  /-- GOPEN (R154). -/
  | gopen (c : CtxRef) (f : RFields) (far : List Byte)
  /-- GNEXT (R161). -/
  | gnext (c : CtxRef) (f : RFields)
  /-- GCLOSE (R162). -/
  | gclose (c : CtxRef) (f : RFields)
  /-- GCLOSE_W (R162). -/
  | gcloseW (c : CtxRef) (f : RFields)
  /-- GSTAT (R164). -/
  | gstat (c : CtxRef) (f : RFields)
  /-- GATHER_RETURN (R165). -/
  | gatherReturn (t : TileId) (n : Nat) (far : List Byte)
  /-- ISECT (R174). -/
  | isect (c : CtxRef) (f : RFields) (far : List Byte)
  /-- ISECT_COMPLETE (R174). -/
  | isectComplete (t : TileId) (far : List Byte)
  /-- VADD (R191). -/
  | vadd (c : CtxRef) (f : Fin 6) (v : VFields)
  /-- VSUB (R191). -/
  | vsub (c : CtxRef) (f : Fin 6) (v : VFields)
  /-- VMUL (R191). -/
  | vmul (c : CtxRef) (f : Fin 6) (v : VFields)
  /-- VFMA (R191). -/
  | vfma (c : CtxRef) (f : Fin 5) (v : VFields)
  /-- VMACC (R191). -/
  | vmacc (c : CtxRef) (v : VFields)
  /-- VMIN (R191). -/
  | vmin (c : CtxRef) (f : Fin 6) (v : VFields)
  /-- VMAX (R191). -/
  | vmax (c : CtxRef) (f : Fin 6) (v : VFields)
  /-- VDIV (R191). -/
  | vdiv (c : CtxRef) (f : Fin 6) (v : VFields)
  /-- VSGNJ (R191). -/
  | vsgnj (c : CtxRef) (f : Fin 5) (v : VFields)
  /-- VREM (R191). -/
  | vrem (c : CtxRef) (v : VFields)
  /-- VCMPEQ (R191). -/
  | vcmpeq (c : CtxRef) (f : Fin 6) (v : VFields)
  /-- VCMPLT (R191). -/
  | vcmplt (c : CtxRef) (f : Fin 6) (v : VFields)
  /-- VCMPLE (R191). -/
  | vcmple (c : CtxRef) (f : Fin 6) (v : VFields)
  /-- VCMPUN (R191). -/
  | vcmpun (c : CtxRef) (f : Fin 5) (v : VFields)
  /-- VSRA (R191). -/
  | vsra (c : CtxRef) (v : VFields)
  /-- VAND (R191). -/
  | vand (c : CtxRef) (v : VFields)
  /-- VOR (R191). -/
  | vor (c : CtxRef) (v : VFields)
  /-- VXOR (R191). -/
  | vxor (c : CtxRef) (v : VFields)
  /-- VSHL (R191). -/
  | vshl (c : CtxRef) (v : VFields)
  /-- VMINU (R191). -/
  | vminu (c : CtxRef) (v : VFields)
  /-- VMAXU (R191). -/
  | vmaxu (c : CtxRef) (v : VFields)
  /-- VDIVU (R191). -/
  | vdivu (c : CtxRef) (v : VFields)
  /-- VREMU (R191). -/
  | vremu (c : CtxRef) (v : VFields)
  /-- VANDN (R191). -/
  | vandn (c : CtxRef) (v : VFields)
  /-- VCMPLTU (R191). -/
  | vcmpltu (c : CtxRef) (v : VFields)
  /-- VCMPLEU (R191). -/
  | vcmpleu (c : CtxRef) (v : VFields)
  /-- VSRL (R191). -/
  | vsrl (c : CtxRef) (v : VFields)
  /-- MOV (R195). -/
  | mov (c : CtxRef) (f : Fin 7) (u : UFields)
  /-- NEG (R195). -/
  | neg (c : CtxRef) (f : Fin 7) (u : UFields)
  /-- ABS (R195). -/
  | abs (c : CtxRef) (f : Fin 7) (u : UFields)
  /-- SQRT (R196). -/
  | sqrt (c : CtxRef) (f : Fin 7) (u : UFields)
  /-- RSQRT (R196). -/
  | rsqrt (c : CtxRef) (f : Fin 7) (u : UFields)
  /-- RECIP (R196). -/
  | recip (c : CtxRef) (f : Fin 7) (u : UFields)
  /-- EXP (R196). -/
  | exp (c : CtxRef) (f : Fin 7) (u : UFields)
  /-- EXP2 (R196). -/
  | exp2 (c : CtxRef) (f : Fin 7) (u : UFields)
  /-- LOG (R196). -/
  | log (c : CtxRef) (f : Fin 7) (u : UFields)
  /-- LOG2 (R196). -/
  | log2 (c : CtxRef) (f : Fin 7) (u : UFields)
  /-- TANH (R196). -/
  | tanh (c : CtxRef) (f : Fin 7) (u : UFields)
  /-- SIGMOID (R196). -/
  | sigmoid (c : CtxRef) (f : Fin 7) (u : UFields)
  /-- GELU (R196). -/
  | gelu (c : CtxRef) (f : Fin 7) (u : UFields)
  /-- SILU (R196). -/
  | silu (c : CtxRef) (f : Fin 7) (u : UFields)
  /-- ERF (R196). -/
  | erf (c : CtxRef) (f : Fin 7) (u : UFields)
  /-- SIN (R196). -/
  | sin (c : CtxRef) (f : Fin 7) (u : UFields)
  /-- COS (R196). -/
  | cos (c : CtxRef) (f : Fin 7) (u : UFields)
  /-- FLOOR (R196). -/
  | floor (c : CtxRef) (f : Fin 7) (u : UFields)
  /-- CEIL (R196). -/
  | ceil (c : CtxRef) (f : Fin 7) (u : UFields)
  /-- RINT (R196). -/
  | rint (c : CtxRef) (f : Fin 7) (u : UFields)
  /-- TRUNC (R196). -/
  | trunc (c : CtxRef) (f : Fin 7) (u : UFields)
  /-- TRANSPOSE (R197). -/
  | transpose (c : CtxRef) (f : Fin 7) (u : UFields)
  /-- NOT (R195). -/
  | not (c : CtxRef) (f : Fin 7) (u : UFields)
  /-- POPCNT (R195). -/
  | popcnt (c : CtxRef) (f : Fin 7) (u : UFields)
  /-- CLZ (R195). -/
  | clz (c : CtxRef) (f : Fin 7) (u : UFields)
  /-- REDUCE_SUM (R202). -/
  | reduceSum (c : CtxRef) (f : Fin 7) (u : UFields)
  /-- REDUCE_MAX (R202). -/
  | reduceMax (c : CtxRef) (f : Fin 7) (u : UFields)
  /-- REDUCE_MIN (R202). -/
  | reduceMin (c : CtxRef) (f : Fin 7) (u : UFields)
  /-- REDUCE_SUMSQ (R202). -/
  | reduceSumsq (c : CtxRef) (f : Fin 7) (u : UFields)
  /-- SHUFFLE (R203). -/
  | shuffle (c : CtxRef) (f : Fin 7) (v : VFields)
  /-- POPC (R204). -/
  | popc (c : CtxRef) (f : Fin 7) (u : UFields)
  /-- ANY (R204). -/
  | any (c : CtxRef) (f : Fin 7) (u : UFields)
  /-- ALL (R204). -/
  | all (c : CtxRef) (f : Fin 7) (u : UFields)
  /-- FIRST (R204). -/
  | first (c : CtxRef) (f : Fin 7) (u : UFields)
  /-- FMAX (R204). -/
  | fmax (c : CtxRef) (f : Fin 7) (u : UFields)
  /-- FMIN (R204). -/
  | fmin (c : CtxRef) (f : Fin 7) (u : UFields)
  /-- SUM (R204). -/
  | sum (c : CtxRef) (f : Fin 7) (u : UFields)
  /-- VLD (R205). -/
  | vld (c : CtxRef) (f : LFields)
  /-- VST (R205). -/
  | vst (c : CtxRef) (f : LFields)
  /-- VCVT (R198). -/
  | vcvt (c : CtxRef) (f : LFields)
  /-- VMLOGIC (R207). -/
  | vmlogic (c : CtxRef) (f : LFields)
  /-- VCLRST (R208). -/
  | vclrst (c : CtxRef) (f : LFields)
  /-- MMA (R220). -/
  | mma (c : CtxRef) (z : Bool) (top : BitVec 6) (f : RFields)
  /-- MMA_D (R224). -/
  | mmaD (c : CtxRef) (f : LFields) (far : List Byte)
  /-- MATRIX_PASS_COMPLETE (R225). -/
  | matrixPassComplete (t : TileId) (v : VctxId) (nb : Nat) (far : List Byte)
  /-- EPRUN (R255). -/
  | eprun (c : CtxRef) (f : RFields) (far : List Byte)
  /-- VSMX (R262). -/
  | vsmx (c : CtxRef) (m : Bool) (zero fmt : Fin 8) (f : RFields)
  /-- EBAG (R278). -/
  | ebag (c : CtxRef) (f : LFields) (far : List Byte)
  /-- EGRAD (R287). -/
  | egrad (c : CtxRef) (f : LFields) (far : List Byte)
  /-- EAPPLY (R289). -/
  | eapply (c : CtxRef) (f : LFields) (far : List Byte)
  /-- ROWPUT (R283). -/
  | rowput (c : CtxRef) (f : LFields) (far : List Byte)
  /-- ROWDEL (R283). -/
  | rowdel (c : CtxRef) (f : LFields) (far : List Byte)
  /-- SHADOW (R293). -/
  | shadow (c : CtxRef) (f : LFields) (far : List Byte)
  /-- HAND (R293). -/
  | hand (c : CtxRef) (f : LFields) (far : List Byte)
  /-- FLIP (R292). -/
  | flip (c : CtxRef) (f : LFields) (far : List Byte)
  /-- MAPINV (R292). -/
  | mapinv (c : CtxRef) (f : LFields) (far : List Byte)
  /-- RSYNC (R284). -/
  | rsync (c : CtxRef) (f : LFields) (far : List Byte)
  /-- EMBREQ (R281). -/
  | embreq (p : PortId) (m : TblMsg) (far : List Byte)
  /-- EMBRSP (R282). -/
  | embrsp (p : PortId) (m : TblMsg) (far : List Byte)
  /-- EMBCMD (R294). -/
  | embcmd (p : PortId) (m : TblMsg) (far : List Byte)
  /-- SIGNAL (R311). -/
  | signal (c : CtxRef) (f : RFields)
  /-- SIGNAL_R (R310). -/
  | signalR (c : CtxRef) (f : RFields)
  /-- SIGREAD (R312). -/
  | sigread (c : CtxRef) (f : RFields)
  /-- WAIT (R313). -/
  | wait (c : CtxRef) (f : RFields)
  /-- WCANCEL (R314). -/
  | wcancel (c : CtxRef) (f : RFields)
  /-- BARRIVE (R318). -/
  | barrive (c : CtxRef) (f : RFields)
  /-- BWAIT (R319). -/
  | bwait (c : CtxRef) (f : RFields)
  /-- BARRV (R320). -/
  | barrv (p : PortId) (k : Packet)
  /-- BREL (R320). -/
  | brel (p : PortId) (k : Packet)
  /-- CHASSIS_LINE_HIGH (R322). -/
  | chassisLineHigh (l : Fin 2)
  /-- CHASSIS_REARM (R322). -/
  | chassisRearm (l : Fin 2)
  /-- BARRIER_TIMEOUT (R323). -/
  | barrierTimeout (d : DieId) (n : Fin 65536)
  /-- XFER_PUT (R324). -/
  | xferPut (c : CtxRef) (f : RFields) (far : List Byte)
  /-- XFER_GET (R324). -/
  | xferGet (c : CtxRef) (f : RFields) (far : List Byte)
  /-- XFER_PUTS (R327). -/
  | xferPuts (c : CtxRef) (f : RFields) (far : List Byte)
  /-- WRITE_NOTICE (R328). -/
  | writeNotice (i : Nat)
  /-- XFER_TIMEOUT (R330). -/
  | xferTimeout (at_ : XferAt)
  /-- SCRUB (R349). -/
  | scrub (k : StackId) (e : Ecc)
  /-- CLEAN (R358). -/
  | clean (at_ : RangeAt) (base len : Word)
  /-- INVAL (R358). -/
  | inval (at_ : RangeAt) (base len : Word) (force : Bool)
  /-- CLINV (R358). -/
  | clinv (at_ : RangeAt) (base len : Word) (force : Bool)
  /-- LOCKFILL (R361). -/
  | lockfill (at_ : RangeAt) (base len : Word) (ways : BitVec 16) (slot : JSlot)
  /-- RANGE_COMPLETE (R358). -/
  | rangeComplete (k : StackId)
  /-- FARRD (R363). -/
  | farrd (p : PortId) (k : Packet)
  /-- FARWR (R363). -/
  | farwr (p : PortId) (k : Packet)
  /-- FARAMO (R390). -/
  | faramo (p : PortId) (k : Packet)
  /-- FARRSP (R363). -/
  | farrsp (p : PortId) (k : Packet)
  /-- FAR_TIMEOUT (R366). -/
  | farTimeout (t : TileId) (ctx : Option CtxId)
  /-- LINK_TRAINING (R381). -/
  | linkTraining (p : PortId) (r : Training)
  /-- FAST_RETRAIN (R384). -/
  | fastRetrain (p : PortId) (r : Training)
  /-- LANE_ERROR_THRESHOLD (R384). -/
  | laneErrorThreshold (p : PortId) (lane : Fin 4)
  /-- DATA_FLIT (R385). -/
  | dataFlit (p : PortId) (b : FecIn)
  /-- RETRY_TIMEOUT (R395). -/
  | retryTimeout (p : PortId)
  /-- LINK_DOWN (R396). -/
  | linkDown (p : PortId)
  /-- TOKEN_PACKET (R388). -/
  | tokenPacket (p : PortId) (k : Packet)
  /-- PUT (R327). -/
  | put (p : PortId) (k : Packet)
  /-- PUTS (R328). -/
  | puts (p : PortId) (k : Packet)
  /-- XACK (R325). -/
  | xack (p : PortId) (k : Packet)
  /-- GETREQ (R388). -/
  | getreq (p : PortId) (k : Packet) (far : List Byte)
  /-- GETDATA (R325). -/
  | getdata (p : PortId) (k : Packet)
  /-- SIGR (R310). -/
  | sigr (p : PortId) (k : Packet)
  /-- FAULT (R408). -/
  | fault (p : PortId) (k : Packet)
  /-- TSREQ (R401). -/
  | tsreq (p : PortId) (t1 : Stamp)
  /-- TSRSP (R401). -/
  | tsrsp (p : PortId) (t1 : Word) (t2 t3 : Stamp)
  /-- LPIENTER (R402). -/
  | lpienter (p : PortId)
  /-- LPIEXIT (R402). -/
  | lpiexit (p : PortId)
  /-- TIMESYNC_PERIOD (R401). -/
  | timesyncPeriod (p : PortId)
  /-- GXHT_TOKEN (R421). -/
  | gxhtToken (i : HtIn)
  /-- GXHT_PUT (R422). -/
  | gxhtPut (i : HtIn)
  /-- GXHT_GETREQ (R417). -/
  | gxhtGetreq (i : HtIn) (room : Bool)
  /-- GXHT_GETRSP (R417). -/
  | gxhtGetrsp (i : HtIn)
  /-- GXHT_MGMT (R426). -/
  | gxhtMgmt (i : HtIn)
  /-- GXHT_ACK (R418). -/
  | gxhtAck (i : HtIn)
  /-- RETRANSMIT_TIMEOUT (R420). -/
  | retransmitTimeout (c : Fin 1024)
  /-- CONGESTION_UPDATE (R423). -/
  | congestionUpdate (c : Fin 1024)
  /-- HEARTBEAT_TIMEOUT (R425). -/
  | heartbeatTimeout (c : Fin 1024)
  /-- PFC_PAUSE (R413). -/
  | pfcPause (prio : Fin 8) (quanta : BitVec 16)
  /-- PFC_PAUSE_EXPIRY (R413). -/
  | pfcPauseExpiry (prio : Fin 8)
  /-- EAPOL (R414). -/
  | eapol (op : MacsecOp)
  /-- PTP_MESSAGE (R415). -/
  | ptpMessage (m : PtpIn)
  /-- IDENT (R427). -/
  | ident (i : Nat)
  /-- CONN_OPEN (R427). -/
  | connOpen (i : Nat)
  /-- CONN_CLOSE (R427). -/
  | connClose (i : Nat)
  /-- JOB_ADMIT (R440). -/
  | jobAdmit (i : Nat) (plan : AdmitPlan)
  /-- JOB_START (R438). -/
  | jobStart (i : Nat)
  /-- JOB_STOP (R445). -/
  | jobStop (i : Nat)
  /-- JOB_RESET_END (R438). -/
  | jobResetEnd (i : Nat)
  /-- JOB_RESET_RESTART (R438). -/
  | jobResetRestart (i : Nat)
  /-- TLB_FLUSH (R43). -/
  | tlbFlush (i : Nat)
  /-- EVENTS (R557). -/
  | events (i : Nat)
  /-- SNAPSHOT (R557). -/
  | snapshot (i : Nat)
  /-- JOBS (R557). -/
  | jobs (i : Nat)
  /-- JOURNAL_READ (R427). -/
  | journalRead (i : Nat)
  /-- RPL_READ (R427). -/
  | rplRead (i : Nat)
  /-- ATTEST (R544). -/
  | attest (i : Nat)
  /-- ATTEST_SIGNED (R542). -/
  | attestSigned
  /-- WRITE (R539). -/
  | write (i : Nat)
  /-- CHECK (R539). -/
  | check (i : Nat)
  /-- ACTIVATE (R539). -/
  | activate (i : Nat)
  /-- COMMIT (R535). -/
  | commit (i : Nat)
  /-- TAKE (R538). -/
  | take (i : Nat)
  /-- ENROL (R538). -/
  | enrol (i : Nat)
  /-- REVOKE (R538). -/
  | revoke (i : Nat)
  /-- FND_DISABLE (R538). -/
  | fndDisable (i : Nat)
  /-- FND_ENABLE (R538). -/
  | fndEnable (i : Nat)
  /-- RELEASE (R538). -/
  | release (i : Nat)
  /-- MEASURE (R538). -/
  | measure (i : Nat)
  /-- REG_READ (R569). -/
  | regRead (i : Nat)
  /-- REG_WRITE (R569). -/
  | regWrite (i : Nat)
  /-- REGISTER_WRITE (R13). -/
  | registerWrite (pa : BitVec 48) (w : Word) (bytes : BitVec 8)
  /-- MB_TLB_FLUSH (R568). -/
  | mbTlbFlush
  /-- MB_RPL_READ (R568). -/
  | mbRplRead
  /-- FOLD (R474). -/
  | fold
  /-- UNFOLD (R474). -/
  | unfold
  /-- SIT_OUT (R474). -/
  | sitOut
  /-- SIT_IN (R474). -/
  | sitIn
  /-- EXCL_CLEAR (R468). -/
  | exclClear
  /-- CONTEXT_HALT (R66). -/
  | contextHalt (j : JSlot)
  /-- CHASSIS_FAULT (R516). -/
  | chassisFault
  /-- FAULT_PULSE_END (R516). -/
  | faultPulseEnd
  /-- TILE_RESET (R460). -/
  | tileReset (t : TileId)
  /-- PATIENCE_SLICE_START (R548). -/
  | patienceSliceStart (t : TileId) (kind : Fin 4)
  /-- PATIENCE_SLICE_END (R549). -/
  | patienceSliceEnd (t : TileId) (good : Bool) (sig : BitVec 32) (off : BitVec 24) (e : Ecc)
  /-- PATIENCE_FAIL (R553). -/
  | patienceFail (t : TileId)
  /-- PATIENCE_STALE (R552). -/
  | patienceStale (t : TileId)
  /-- INPUT_POWER_GOOD (R460). -/
  | inputPowerGood
  /-- MRST (R460). -/
  | mrst
  /-- WARM_RESET (R461). -/
  | warmReset
  /-- BOOT_STEP (R463). -/
  | bootStep (u : Option UnitId) (pass : Bool) (dur detail : BitVec 32)
  /-- BOOT_WATCHDOG (R463). -/
  | bootWatchdog (u : Option UnitId) (dur detail : BitVec 32)
  /-- RSA_KEY_REGENERATE (R540). -/
  | rsaKeyRegenerate
  /-- INPUT_WARNING (R488). -/
  | inputWarning (v : BitVec 16)
  /-- POWER_FAIL (R489). -/
  | powerFail (v : BitVec 16)
  /-- POWER_RECOVERY (R489). -/
  | powerRecovery (v : BitVec 16)
  /-- UNDERVOLTAGE_LOCKOUT (R488). -/
  | undervoltageLockout (v : BitVec 16) (torn : Bool)
  /-- OVERVOLTAGE (R488). -/
  | overvoltage (v : BitVec 16)
  /-- OVERCURRENT (R504). -/
  | overcurrent
  /-- RAIL_WARNING (R490). -/
  | railWarning (r : Fin 12) (mv : BitVec 16)
  /-- RAIL_RESET (R490). -/
  | railReset (r : Fin 12) (mv : BitVec 16) (torn : Bool)
  /-- THROTTLE_RELEASE (R483). -/
  | throttleRelease (c : Fin 7) (reading : BitVec 16) (dur : BitVec 32)
  /-- POWER_CAP (R486). -/
  | powerCap (p : BitVec 16)
  /-- CHASSIS_THROTTLE (R485). -/
  | chassisThrottle
  /-- THROTTLE_FORCE (R483). -/
  | throttleForce (v : Fin 4)
  /-- THERMAL_THROTTLE (R492). -/
  | thermalThrottle (t : BitVec 12) (sensor : Fin 36)
  /-- THERMAL_SEVERE (R492). -/
  | thermalSevere (t : BitVec 12) (sensor : Fin 36)
  /-- THERMAL_CRIT (R492). -/
  | thermalCrit (t : BitVec 12) (sensor : Fin 36)
  /-- THERMAL_RECOVERY (R492). -/
  | thermalRecovery (t : BitVec 12) (sensor : Fin 36)
  /-- THERMAL_SHUTDOWN (R492). -/
  | thermalShutdown (t : BitVec 12) (sensor : Fin 36)
  /-- LOSS_OF_LOCK (R481). -/
  | lossOfLock (ref : Bool)
  /-- TIMESET (R497). -/
  | timeset (ns : Word)
  /-- SECOND_PULSE (R517). -/
  | secondPulse (width : BitVec 32)
  /-- TICK (R517). -/
  | tick (width : BitVec 32)
  /-- PPS_LOSS (R498). -/
  | ppsLoss
  /-- SEATING (R514). -/
  | seating (pins : List PinSense)
  /-- CALL_LINE_ENABLE (R512). -/
  | callLineEnable
  /-- CALL_LINE_STUCK (R519). -/
  | callLineStuck (pin fn : Fin 8) (high : Bool)
  /-- I3C_PRIVATE_WRITE (R518). -/
  | i3cPrivateWrite (b : List Byte)
  /-- I3C_PRIVATE_READ (R518). -/
  | i3cPrivateRead
  /-- ENTDAA (R518). -/
  | entdaa (a : BitVec 7)
  /-- INTEGER_INSTRUCTION (R27). -/
  | integerInstruction (c : CtxRef) (op : IntOp) (sz : ISize)
  /-- ILLEGAL_INSTRUCTION (R12). -/
  | illegalInstruction (c : CtxRef) (bits : Word) (len : ILen)
  /-- MEMORY_ACCESS_PERFORMED (R33). -/
  | memoryAccessPerformed (t : TileId) (seq : Nat) (hit : Bool) (ecc : Ecc)
  /-- VECTOR_INSTRUCTION_COMPLETE (R212). -/
  | vectorInstructionComplete (t : TileId) (v : VctxId) (far : List Byte)
  /-- RAIL_RECOVERY (R490). -/
  | railRecovery (r : Fin 12)
  /-- STACK_REFRESH_HALVED (R491). -/
  | stackRefreshHalved (k : StackId) (t : BitVec 12)
  /-- INPUT_POLARITY_REVERSED (R504). -/
  | inputPolarityReversed
  /-- MRST_RELEASE (R513). -/
  | mrstRelease
  /-- CP3_INVALID_PULSE (R517). -/
  | cp3InvalidPulse (width : BitVec 32)
  /-- ETHERNET_FRAME_DROP (R411). -/
  | ethernetFrameDrop (d : FrameDrop)
  /-- HOST_LINK_LOSS (R429). -/
  | hostLinkLoss (e : HostLink)
  /-- PTP_MASTER_LOST (R494). -/
  | ptpMasterLost
  /-- I3C_COMMON_COMMAND (R518). -/
  | i3cCommonCommand (c : I3cCcc)
  deriving DecidableEq, Repr

end Sys2Proof
end

