-- ==== Sys2Proof/Decode.lean ====
section
/-! DEFINITION. The commands that words spell. The block has no instruction words of its own: spec/opcode_table.json gives no row
any bits (every row's field list is empty), so no word spells a command. The encodings that the spec does give (the Bualva words of
a command's instruction, tokens, packets, frames, records) stand in the files of Machine/ that use them. -/

namespace Sys2Proof

/-- The command that a word of `nbits` bits spells by the table's bits: none, for the table gives no row any. -/
def decodeTableWord (_nbits _w : Nat) : Option Instr := none

end Sys2Proof
end

