-- ==== Sys2Proof/Machine/Cells.lean ====
section
/-! DEFINITION. Bytes by address as a list of cells in one canonical form: memory, and the register files of the vector
engine. -/

namespace Sys2Proof.Machine

/-- What an address that memory does not list reads as: 0 (DESIGN CHOICE, log 2; the spec gives no power-on content). -/
def Mem.blank : Byte := 0

/-- The byte at an address. -/
def Mem.get : List Host.Cell → Nat → Byte
  | [], _ => Mem.blank
  | (a', b) :: t, a => if a' = a then b else Mem.get t a

/-- The memory with one byte written. The list stays strictly rising and lists no byte equal to `Mem.blank`. -/
def Mem.set : List Host.Cell → Nat → Byte → List Host.Cell
  | [], a, b => if b = Mem.blank then [] else [(a, b)]
  | (a', b') :: t, a, b =>
    if a' < a then (a', b') :: Mem.set t a b
    else if a' = a then (if b = Mem.blank then t else (a, b) :: t)
    else if b = Mem.blank then (a', b') :: t else (a, b) :: (a', b') :: t

/-- Whether every listed address is above a bound, they rise strictly, and none holds the blank byte. -/
def Mem.wfFrom : Option Nat → List Host.Cell → Bool
  | _, [] => true
  | lo, (a, b) :: t => (match lo with | none => true | some l => decide (l < a)) && b != Mem.blank && Mem.wfFrom (some a) t

/-- The canonical form of memory. -/
def Memory.wf (m : List Host.Cell) : Bool := Mem.wfFrom none m

/-- The memory with consecutive bytes written. -/
def Mem.setBytes : List Host.Cell → Nat → List Byte → List Host.Cell
  | m, _, [] => m
  | m, a, b :: t => Mem.setBytes (Mem.set m a b) (a + 1) t

/-- The memory with every byte of `[lo, hi)` blank. -/
def Mem.clear (m : List Host.Cell) (lo hi : Nat) : List Host.Cell := m.filter (fun c => !(decide (lo ≤ c.1 ∧ c.1 < hi)))

end Sys2Proof.Machine
end

