-- ==== Sys2Proof/Config.lean ====
section
/-! DEFINITION. What the spec leaves to an implementation and the free values: opaque constants, of which nothing can be
proved but what every function of the type has. -/

namespace Sys2Proof

/-- The approximated functions (R196). -/
inductive Approx where
  | rsqrt | exp | exp2 | log | log2 | tanh | sigmoid | gelu | silu | erf | sin | cos
  deriving DecidableEq, Repr

/-- Which of the FP32 values within its bound an approximated function delivers for an FP32 input outside the special values of R196: a
fixed function of the input, reduced to their number where it is used (free value, log 40). -/
opaque Config.approx (f : Approx) (x : BitVec 32) : BitVec 32

/-- A free value: the n-th value that the spec leaves open, as the State's counter of free values counts them (log 4). -/
opaque Config.free (n : Nat) : Nat

/-- The bit errors that arise in memory within one cycle of time, by 64-byte block: the n-th such value (R347 says what a check
finds, not which errors arise; log 33). -/
opaque Config.upsets (n : Nat) : List (Nat × Ecc)

/-- The number of notices that the ledger of one link die holds (R328; the spec leaves its size open, log 45). -/
opaque Config.ledgerCap : Nat

/-- The hash that gives a stream its stride tracker (R354): tile, context and gather stream (log 15). -/
opaque Config.trackerHash (tile ctx stream : Nat) : Nat

/-- The far reservations that a stack-cache slice holds, where they are more than the 64 that R390 promises (log 31). -/
opaque Config.farResvCap : Nat

/-- SHA-384 (R529), as 48 bytes: a published standard whose digest the model keeps opaque (log 41). -/
opaque Config.sha384 (m : List Byte) : Nat

/-- Whether a signature of a message under a key identified by its digest verifies (R530; log 41). -/
opaque Config.verify (key : Nat) (m sig : List Byte) : Bool

/-- Bytes that a cryptographic operation of the security core gives: kind, then inputs (log 41). -/
opaque Config.crypto (kind : Nat) (m : List Byte) : List Byte

/-- What an image area of the module flash holds at delivery: area, offset (the spec gives no content; log 57). -/
opaque Config.flash (area off : Nat) : Byte

/-- The bytes of the host port's receive buffer that are a suit's share (R413 leaves the shares to the implementation; log 51). -/
opaque Config.hostShare (suit : Nat) : Nat

end Sys2Proof
end

