-- ==== Sys2Proof/Machine/Bits.lean ====
section
/-! DEFINITION. Bit fields, sign extension and byte order: little-endian for every format the device defines (R10). -/

namespace Sys2Proof.Machine

/-- The field of `n` bits from bit `lo` of a natural number. -/
def bitsOf (x lo n : Nat) : Nat := (x >>> lo) % 2 ^ n

/-- The field of `n` bits from bit `lo` of a word, as a number. -/
def Word.bits (w : Word) (lo n : Nat) : Nat := bitsOf w.toNat lo n

/-- One bit of a word. -/
def Word.bit (w : Word) (i : Nat) : Bool := w.getLsbD i

/-- `w` with the field of `n` bits from bit `lo` replaced by the low `n` bits of `v`. -/
def Word.setBits (w : Word) (lo n v : Nat) : Word :=
  BitVec.ofNat 64 (bitsOf w.toNat 0 lo + (v % 2 ^ n) * 2 ^ lo + (w.toNat >>> (lo + n)) * 2 ^ (lo + n))

/-- `w` with one bit set to `b`. -/
def Word.setBit (w : Word) (i : Nat) (b : Bool) : Word := Word.setBits w i 1 b.toNat

/-- `w` with the field of `n` bits from bit `lo` raised by `k`, wrapping within the field (a counter field). -/
def Word.addBits (w : Word) (lo n k : Nat) : Word := Word.setBits w lo n (Word.bits w lo n + k)

/-- `w` with the field of `n` bits from bit `lo` raised by `k`, stopping at its maximum. -/
def Word.addSat (w : Word) (lo n k : Nat) : Word :=
  Word.setBits w lo n (min (2 ^ n - 1) (Word.bits w lo n + k))

/-- The mask of `n` ones from bit `lo`. -/
def maskBits (lo n : Nat) : Nat := (2 ^ n - 1) * 2 ^ lo

/-- A field of `n` bits read as two's complement. -/
def signed (n x : Nat) : Int :=
  let y := x % 2 ^ n
  if n = 0 then 0 else if y < 2 ^ (n - 1) then (y : Int) else (y : Int) - (2 ^ n : Nat)

/-- The two's complement of an integer in `n` bits, as a number. -/
def unsigned (n : Nat) (i : Int) : Nat := (i % (2 ^ n : Nat)).toNat

/-- Sign extension of the low `n` bits of a number to a word. -/
def sext (n x : Nat) : Word := BitVec.ofInt 64 (signed n x)

/-- The little-endian value of a byte list (R10). -/
def leVal : List Byte → Nat
  | [] => 0
  | b :: t => b.toNat + 256 * leVal t

/-- `n` bytes of a number, least significant first (R10). -/
def leBytes : Nat → Nat → List Byte
  | 0, _ => []
  | n + 1, x => BitVec.ofNat 8 x :: leBytes n (x / 256)

/-- The bytes of a word, least significant first. -/
def Word.bytes (w : Word) : List Byte := leBytes 8 w.toNat

/-- The big-endian value of a byte list, for the fields of published standards (R10). -/
def beVal (l : List Byte) : Nat := l.foldl (fun a b => a * 256 + b.toNat) 0

/-- Bytes `[off, off + n)` of a list, short where the list is. -/
def slice (l : List Byte) (off n : Nat) : List Byte := (l.drop off).take n

/-- The little-endian number held in bytes `[off, off + n)` of a list. -/
def leAt (l : List Byte) (off n : Nat) : Nat := leVal (slice l off n)

/-- A list of exactly `n` bytes: the given ones, then zeros. -/
def padTo (n : Nat) (l : List Byte) : List Byte := (l ++ List.replicate (n - l.length) 0).take n

/-- A list with the bytes from `off` replaced by `new`. -/
def patch (l : List Byte) (off : Nat) (new : List Byte) : List Byte :=
  l.take off ++ new ++ l.drop (off + new.length)

/-- Quotient rounded up. -/
def ceilDiv (a b : Nat) : Nat := (a + b - 1) / b

/-- `x` rounded up to a multiple of `k`. -/
def roundUp (x k : Nat) : Nat := ceilDiv x k * k

/-- The number of ones among the low `n` bits of a number. -/
def popBits (n x : Nat) : Nat := ((List.range n).filter (fun i => x.testBit i)).length

/-- Leading zeros of an `n`-bit number. -/
def clzBits : Nat → Nat → Nat
  | 0, _ => 0
  | n + 1, x => if x.testBit n then 0 else 1 + clzBits n x

/-- Trailing zeros of an `n`-bit number. -/
def ctzBits (n x : Nat) : Nat := ((List.range n).takeWhile (fun i => !x.testBit i)).length

/-- The positions of the ones among the low `n` bits, ascending. -/
def onesOf (n x : Nat) : List Nat := (List.range n).filter (fun i => x.testBit i)

/-- Whether `a` is a multiple of `k`. -/
def aligned (a k : Nat) : Bool := a % k == 0

end Sys2Proof.Machine
end

