-- ==== Sys2Proof/Machine/Approx.lean ====
section
/-! DEFINITION. The approximated functions of R196 as numbers: each function's value in fixed point, exact to far less than the bounds,
and the FP32 values that lie within its bound. Which of those the device delivers is the free value of log 40. -/

namespace Sys2Proof.Machine

/-! ### Fixed point: an integer times 2^-512 -/

def fxP : Nat := 512
def fxOne : Int := 2 ^ fxP
def fxMul (a b : Int) : Int := a * b / 2 ^ fxP
def fxDiv (a b : Int) : Int := a * 2 ^ fxP / b

/-- The value m · 2^e, negated if asked. -/
def fxOf (neg : Bool) (m : Nat) (e : Int) : Int :=
  let k := e + fxP
  let a : Nat := if 0 ≤ k then m * 2 ^ k.toNat else m / 2 ^ (-k).toNat
  if neg then -(a : Int) else a

/-- Two to a power, times a value. -/
def fxScale (a k : Int) : Int := if 0 ≤ k then a * 2 ^ k.toNat else a / 2 ^ (-k).toNat

/-- The sum of `n` terms from term `i` on: `next i t` is the term after term `i`, and `part i t` what term `i` adds. -/
def fxSum (next part : Nat → Int → Int) : Nat → Nat → Int → Int
  | 0, _, _ => 0
  | n + 1, i, t => part i t + fxSum next part n (i + 1) (next i t)

/-- Σ z^(2i+1) / (2i+1), with the signs alternating if asked: artanh and arctan for |z| ≤ 1/3. -/
def fxOdd (alt : Bool) (z : Int) : Int :=
  let q := fxMul z z
  fxSum (fun _ t => fxMul t (if alt then -q else q)) (fun i t => t / (2 * i + 1 : Nat)) 180 0 z

def fxLn2 : Int := 2 * fxOdd false (fxOne / 3)
/-- π, by Machin's formula. -/
def fxPi : Int := 16 * fxOdd true (fxOne / 5) - 4 * fxOdd true (fxOne / 239)

/-! ### The functions -/

/-- e^x for |x| at most a few hundred. -/
def fxExp (x : Int) : Int :=
  let k := x / fxLn2
  let r := x - k * fxLn2
  fxScale (fxSum (fun i t => fxMul t r / (i + 1 : Nat)) (fun _ t => t) 120 0 fxOne) k

/-- The natural logarithm of m · 2^e, m not 0. -/
def fxLn (m : Nat) (e : Int) : Int :=
  let l := Nat.log2 m
  let y := fxOf false m (-l)
  2 * fxOdd false (fxDiv (y - fxOne) (y + fxOne)) + (e + l) * fxLn2

def fxSqrt (x : Int) : Int := Nat.sqrt (x.toNat * 2 ^ fxP)

/-- Sine and cosine. -/
def fxSin (x : Int) : Int :=
  let r := x - (x + fxPi) / (2 * fxPi) * (2 * fxPi)
  let q := fxMul r r
  fxSum (fun i t => -(fxMul t q / ((2 * i + 2) * (2 * i + 3) : Nat))) (fun _ t => t) 110 0 r
def fxCos (x : Int) : Int := fxSin (x + fxPi / 2)

/-- The error function: past 12 it differs from ±1 by less than 2^-200. -/
def fxErf (x : Int) : Int :=
  if 12 * fxOne ≤ x then fxOne
  else if x ≤ -12 * fxOne then -fxOne
  else
    let q := fxMul x x
    fxDiv (2 * fxSum (fun i t => -(fxMul t q / (i + 1 : Nat))) (fun i t => t / (2 * i + 1 : Nat)) 750 0 x) (fxSqrt fxPi)

/-- A value held between -1000 and 1000, past which e^x is 0 or beyond every format. -/
def fxHold (x : Int) : Int := max (-1000 * fxOne) (min (1000 * fxOne) x)

def fxSigmoid (x : Int) : Int := fxDiv fxOne (fxOne + fxExp (-(fxHold x)))

/-- A value whose exact one may be a short dyadic number, rounded to 310 bits: that number, where it is. -/
def fxSnap (v : Int) : Int :=
  let k := 2 ^ max 60 (Nat.log2 v.natAbs - 310)
  (v + k / 2) / k * k

/-- A value of a function that stays strictly between -1 and 1. -/
def fxInside (v : Int) : Int := max (1 - fxOne) (min (fxOne - 1) v)

/-- The value of a function at m · 2^e, negated if asked, where R196 gives no special value. -/
def fxValue (g : Approx) (neg : Bool) (m : Nat) (e : Int) : Int :=
  let x := fxOf neg m e
  match g with
  | .rsqrt => fxDiv fxOne (fxSqrt x)
  | .exp => fxExp (fxHold x)
  | .exp2 => fxSnap (fxExp (fxMul (fxHold x) fxLn2))
  | .log => fxLn m e
  | .log2 => fxSnap (fxDiv (fxLn m e) fxLn2)
  | .tanh => let y := fxExp (2 * fxHold x); fxInside (fxDiv (y - fxOne) (y + fxOne))
  | .sigmoid => fxInside (fxSigmoid x)
  | .gelu => fxMul x (fxOne + fxErf (fxDiv x (fxSqrt (2 * fxOne)))) / 2
  | .silu => fxMul x (fxSigmoid x)
  | .erf => fxInside (fxErf x)
  | .sin => fxSin x
  | .cos => fxSnap (fxCos x)

/-! ### The FP32 values within a bound -/

/-- The place of the greatest finite FP32 magnitude at most `a`, and of the least at least `a`: its bits without the sign. -/
def fpFloor (a : Nat) : Nat :=
  let l := Nat.log2 a
  min 0x7F7FFFFF (if a < 2 ^ (fxP - 126) then a / 2 ^ (fxP - 149) else (l + 126 - fxP) * 2 ^ 23 + a / 2 ^ (l - 23))
def fpCeil (a : Nat) : Nat :=
  let l := Nat.log2 a
  let exact := a % 2 ^ ((max l (fxP - 126)) - 23) = 0
  min 0x7F7FFFFF (fpFloor a + if exact then 0 else 1)

/-- The spacing of FP32 at a value. -/
def fpUlp (v : Int) : Int := 2 ^ (max (Nat.log2 v.natAbs) (fxP - 126) - 23)

/-- FP32 values in order, -1 for -0 and 0 for +0: the first at least `v`, the last at most `v`, and the bits of one. -/
def fpFirst (v : Int) : Int := if 0 < v then fpCeil v.toNat else -1 - (fpFloor v.natAbs : Int)
def fpLast (v : Int) : Int := if 0 ≤ v then fpFloor v.toNat else -1 - (fpCeil v.natAbs : Int)
def fpBits (n : Int) : Nat := if 0 ≤ n then n.toNat else 2 ^ 31 + (-1 - n).toNat

/-- The bound of a function around its value (R196): ulps, or 2^-22 for GELU and SILU below 1. -/
def fxBound (g : Approx) (x v : Int) : Int :=
  match g with
  | .rsqrt => fpUlp v
  | .gelu | .silu => if fxOne ≤ x.natAbs then 4 * fpUlp v else fxOne / 2 ^ 22
  | _ => 2 * fpUlp v

/-- The first of the FP32 values that a function may deliver, and how many they are: those within the bound; for SIN and COS past 2^16,
all in [-1, 1]. -/
def approxRange (g : Approx) (neg : Bool) (m : Nat) (e : Int) : Int × Nat :=
  let x := fxOf neg m e
  let (a, b) : Int × Int :=
    if (g = .sin ∨ g = .cos) ∧ 2 ^ 16 * fxOne < x.natAbs then (-fxOne, fxOne)
    else
      let v := fxValue g neg m e
      (v - fxBound g x v, v + fxBound g x v)
  (fpFirst a, (fpLast b - fpFirst a + 1).toNat)

/-- The FP32 value that a function delivers for an FP32 input m · 2^e of bits `x`: one of those it may, which one is the device's. -/
def approxBits (g : Approx) (x : Nat) (neg : Bool) (m : Nat) (e : Int) : Nat :=
  let r := approxRange g neg m e
  fpBits (r.1 + ((Config.approx g (BitVec.ofNat 32 x)).toNat % r.2 : Nat))

/-- EXP and EXP2 overflow where the exact result lies beyond every FP32 value (R196). -/
def approxOver (g : Approx) (neg : Bool) (m : Nat) (e : Int) : Bool :=
  match g with
  | .exp => decide (2 ^ 128 * fxOne ≤ fxValue .exp neg m e)
  | .exp2 => decide (128 * fxOne ≤ fxOf neg m e)
  | _ => false

end Sys2Proof.Machine
end

