-- ==== Sys2Proof/Machine/Flags.lean ====
section
/-! DEFINITION. Arithmetic and its status flags: binary floating point in every format of the device, with the special
values of R193, R199 and R232, exact sums, and integers with saturation (R194). A result is a pair of the bits and the
VSTAT bits it sets. -/

namespace Sys2Proof.Machine

/-! ### Status bits (R208) -/

/-- VSTAT bits: invalid, overflow, underflow, out-of-range lane, saturation. -/
def fNV : Nat := 1
def fOF : Nat := 2
def fUF : Nat := 4
def fLR : Nat := 8
def fSAT : Nat := 16

/-- A result: the bits and the VSTAT bits that it sets. -/
structure Res where
  bits : Nat
  flags : Nat
  deriving DecidableEq, Repr

/-- A result that sets nothing. -/
def Res.ok (b : Nat) : Res := { bits := b, flags := 0 }

/-! ### Formats -/

/-- How the codes at the top of a format are used: as IEEE 754 does; as E4M3 does, without infinities and with one NaN
code; or all finite, as the elements of MX formats narrower than 8 bits. -/
inductive FKind where
  | ieee | e4m3 | finite
  deriving DecidableEq, Repr

/-- A binary format: exponent bits, fraction bits, and the use of its top codes. The bias is 2^(eb-1) - 1. -/
structure FFmt where
  eb : Nat
  mb : Nat
  kind : FKind
  deriving DecidableEq, Repr

def fp32 : FFmt := { eb := 8, mb := 23, kind := .ieee }
def bf16 : FFmt := { eb := 8, mb := 7, kind := .ieee }
def fp16 : FFmt := { eb := 5, mb := 10, kind := .ieee }
def e4m3 : FFmt := { eb := 4, mb := 3, kind := .e4m3 }
def e5m2 : FFmt := { eb := 5, mb := 2, kind := .ieee }
def e3m2 : FFmt := { eb := 3, mb := 2, kind := .finite }
def e2m3 : FFmt := { eb := 2, mb := 3, kind := .finite }
def e2m1 : FFmt := { eb := 2, mb := 1, kind := .finite }
/-- The 22-bit narrow format of the array (R230). -/
def narrow : FFmt := { eb := 8, mb := 13, kind := .ieee }

/-- Exponent bias. -/
def FFmt.bias (f : FFmt) : Int := (2 ^ (f.eb - 1) : Nat) - 1
/-- Width in bits. -/
def FFmt.width (f : FFmt) : Nat := 1 + f.eb + f.mb
/-- The magnitude code of the largest finite value. -/
def FFmt.maxFin (f : FFmt) : Nat :=
  match f.kind with
  | .ieee => (2 ^ f.eb - 1) * 2 ^ f.mb - 1
  | .e4m3 => 0x7E
  | .finite => 2 ^ (f.eb + f.mb) - 1
/-- The canonical NaN (R193). -/
def FFmt.nan (f : FFmt) : Nat :=
  match f.kind with
  | .ieee => (2 ^ f.eb - 1) * 2 ^ f.mb + 2 ^ (f.mb - 1)
  | .e4m3 => 0x7F
  | .finite => 0
/-- The sign bit of a code. -/
def FFmt.signBit (f : FFmt) (neg : Bool) : Nat := if neg then 2 ^ (f.eb + f.mb) else 0

/-! ### Values -/

/-- A value: NaN, an infinity, or the exact dyadic number (-1)^neg × m × 2^e; m = 0 is a signed zero. -/
inductive FVal where
  | nan
  | inf (neg : Bool)
  | fin (neg : Bool) (m : Nat) (e : Int)
  deriving DecidableEq, Repr

/-- The value of a code. -/
def FFmt.decode (f : FFmt) (b : Nat) : FVal :=
  let neg := b.testBit (f.eb + f.mb)
  let ex := bitsOf b f.mb f.eb
  let fr := bitsOf b 0 f.mb
  let num : FVal :=
    if ex = 0 then .fin neg fr (1 - f.bias - f.mb)
    else .fin neg (2 ^ f.mb + fr) ((ex : Int) - f.bias - f.mb)
  match f.kind with
  | .ieee => if ex = 2 ^ f.eb - 1 then (if fr = 0 then .inf neg else .nan) else num
  | .e4m3 => if bitsOf b 0 7 = 0x7F then .nan else num
  | .finite => num

/-- Rounding modes (R199). -/
inductive RM where
  | even | zero | down | up
  deriving DecidableEq, Repr

/-- Whether a magnitude with a dropped remainder is rounded away from zero. `rem` out of `one`; `odd`: the kept part. -/
def RM.bump (r : RM) (neg odd : Bool) (rem one : Nat) : Bool :=
  match r with
  | .even => decide (one < 2 * rem) || (decide (2 * rem = one) && odd)
  | .zero => false
  | .down => neg && decide (0 < rem)
  | .up => !neg && decide (0 < rem)

/-- The position of the highest one of a number that is not 0. -/
def topBit (m : Nat) : Nat := Nat.log2 m

/-- A code with an infinity or, in E4M3, the largest finite value, which sets OF (R193). -/
def FFmt.infBits (f : FFmt) (neg : Bool) : Res :=
  match f.kind with
  | .ieee => Res.ok (f.signBit neg + (2 ^ f.eb - 1) * 2 ^ f.mb)
  | _ => { bits := f.signBit neg + f.maxFin, flags := fOF }

/-- (-1)^neg × m × 2^e rounded once to a format (R193, R199). Beyond the range: an infinity, OF. A subnormal or zero
result of a nonzero value that is inexact: UF. A finite-only format saturates and sets SAT (R200). -/
def FFmt.round (f : FFmt) (r : RM) (neg : Bool) (m : Nat) (e : Int) : Res :=
  if m = 0 then Res.ok (f.signBit neg)
  else
    let emin : Int := 1 - f.bias
    let E : Int := e + topBit m
    let q : Int := max E emin - f.mb
    let sh : Nat := (q - e).toNat
    let one := 2 ^ sh
    let kept := if e ≤ q then m / one else m * 2 ^ (e - q).toNat
    let rem := if e ≤ q then m % one else 0
    let kept := if r.bump neg (kept % 2 == 1) rem one then kept + 1 else kept
    let code := (max E emin - emin).toNat * 2 ^ f.mb + kept
    if f.maxFin < code then
      match f.kind with
      | .finite => { bits := f.signBit neg + f.maxFin, flags := fSAT }
      | _ => { bits := (f.infBits neg).bits, flags := fOF }
    else { bits := f.signBit neg + code, flags := if code < 2 ^ f.mb ∧ rem ≠ 0 then fUF else 0 }

/-- A value delivered in a format. -/
def FFmt.put (f : FFmt) (r : RM) : FVal → Res
  | .nan => Res.ok f.nan
  | .inf neg => f.infBits neg
  | .fin neg m e => f.round r neg m e

/-- A signed dyadic number as a value; exact zero is +0. -/
def dyadic (i : Int) (e : Int) : FVal := .fin (decide (i < 0)) i.natAbs e

/-- The signed mantissa of a finite number. -/
def signedMant (neg : Bool) (m : Nat) : Int := if neg then -(m : Int) else m

/-- A mantissa brought to a lower exponent. -/
def rescale (i : Int) (e e' : Int) : Int := i * (2 ^ (e - e').toNat : Nat)

/-- The exact sum of two dyadic numbers, as mantissa and exponent. -/
def addDy (a : Int × Int) (b : Int × Int) : Int × Int :=
  let e := min a.2 b.2
  (rescale a.1 a.2 e + rescale b.1 b.2 e, e)

/-- The sum of two values before rounding, and whether it is invalid. -/
def addVal : FVal → FVal → FVal × Bool
  | .nan, _ => (.nan, false)
  | _, .nan => (.nan, false)
  | .inf a, .inf b => if a = b then (.inf a, false) else (.nan, true)
  | .inf a, _ => (.inf a, false)
  | _, .inf b => (.inf b, false)
  | .fin n1 m1 e1, .fin n2 m2 e2 =>
    let (i, e) := addDy (signedMant n1 m1, e1) (signedMant n2 m2, e2)
    if i = 0 then (.fin (decide (m1 = 0) && decide (m2 = 0) && n1 && n2) 0 0, false) else (dyadic i e, false)

/-- The product of two values before rounding, and whether it is invalid. -/
def mulVal : FVal → FVal → FVal × Bool
  | .nan, _ => (.nan, false)
  | _, .nan => (.nan, false)
  | .inf a, .inf b => (.inf (a != b), false)
  | .inf a, .fin b m _ => if m = 0 then (.nan, true) else (.inf (a != b), false)
  | .fin a m _, .inf b => if m = 0 then (.nan, true) else (.inf (a != b), false)
  | .fin a m e, .fin b m' e' => (.fin (a != b) (m * m') (e + e'), false)

/-- The negation of a value. -/
def FVal.neg : FVal → FVal
  | .nan => .nan
  | .inf n => .inf (!n)
  | .fin n m e => .fin (!n) m e

/-- The quotient of two values, kept to `p` bits with a sticky bit below them, and whether it is invalid. -/
def divVal (p : Nat) : FVal → FVal → FVal × Bool
  | .nan, _ => (.nan, false)
  | _, .nan => (.nan, false)
  | .inf _, .inf _ => (.nan, true)
  | .inf a, .fin b _ _ => (.inf (a != b), false)
  | .fin a _ _, .inf b => (.fin (a != b) 0 0, false)
  | .fin a m e, .fin b m' e' =>
    if m' = 0 then (if m = 0 then (.nan, true) else (.inf (a != b), false))
    else
      let k := p + 3 + topBit m'
      let n := m * 2 ^ k
      (.fin (a != b) (2 * (n / m') + (if n % m' = 0 then 0 else 1)) (e - e' - k - 1), false)

/-- The integer square root by `n` bits from the top. -/
def isqrtBits : Nat → Nat → Nat → Nat
  | 0, _, r => r
  | n + 1, x, r => let c := r + 2 ^ n; isqrtBits n x (if c * c ≤ x then c else r)

/-- The integer square root. -/
def isqrt (x : Nat) : Nat := isqrtBits (topBit x / 2 + 1) x 0

/-- The square root of a value, kept to `p` bits with a sticky bit, and whether it is invalid (R196). -/
def sqrtVal (p : Nat) : FVal → FVal × Bool
  | .nan => (.nan, false)
  | .inf n => if n then (.nan, true) else (.inf false, false)
  | .fin n m e =>
    if m = 0 then (.fin n 0 0, false)
    else if n then (.nan, true)
    else
      let m1 := if e % 2 = 0 then m else 2 * m
      let e1 := if e % 2 = 0 then e else e - 1
      let x := m1 * 4 ^ (p + 3)
      let r := isqrt x
      (.fin false (2 * r + (if r * r = x then 0 else 1)) (e1 / 2 - (p + 3 : Nat) - 1), false)

/-- A result delivered in a format, with NV where it is invalid. -/
def FFmt.deliver (f : FFmt) (v : FVal × Bool) : Res :=
  let r := f.put .even v.1
  if v.2 then { r with flags := r.flags ||| fNV } else r

/-- Whether a code is NaN. -/
def FFmt.isNan (f : FFmt) (b : Nat) : Bool := f.decode b == .nan

/-- The order of two values that are not NaN: less than. -/
def ltVal : FVal → FVal → Bool
  | .nan, _ => false
  | _, .nan => false
  | .inf a, .inf b => a && !b
  | .inf a, _ => a
  | _, .inf b => !b
  | .fin n1 m1 e1, .fin n2 m2 e2 =>
    let e := min e1 e2
    decide (rescale (signedMant n1 m1) e1 e < rescale (signedMant n2 m2) e2 e)

/-- Equality of two values: +0 equals -0, and NaN equals nothing (R193). -/
def eqVal (a b : FVal) : Bool := a != .nan && b != .nan && !ltVal a b && !ltVal b a

/-- Whether a value is negative by its sign. -/
def FVal.isNeg : FVal → Bool
  | .nan => false
  | .inf n => n
  | .fin n _ _ => n

/-- Whether a value is neither NaN nor an infinity. -/
def FVal.isFin : FVal → Bool
  | .fin _ _ _ => true
  | _ => false

/-- Whether a value is a zero. -/
def FVal.isZero : FVal → Bool
  | .fin _ m _ => m == 0
  | _ => false

/-! ### Float operations (R193, R196) -/

def FFmt.add (f : FFmt) (a b : Nat) : Res := f.deliver (addVal (f.decode a) (f.decode b))
def FFmt.sub (f : FFmt) (a b : Nat) : Res := f.deliver (addVal (f.decode a) (f.decode b).neg)
def FFmt.mul (f : FFmt) (a b : Nat) : Res := f.deliver (mulVal (f.decode a) (f.decode b))
def FFmt.div (f : FFmt) (a b : Nat) : Res := f.deliver (divVal f.mb (f.decode a) (f.decode b))
def FFmt.sqrt (f : FFmt) (a : Nat) : Res := f.deliver (sqrtVal f.mb (f.decode a))
def FFmt.recip (f : FFmt) (a : Nat) : Res := f.deliver (divVal f.mb (.fin false 1 0) (f.decode a))

/-- VFMA: rounds once; a NaN operand gives NaN without NV (R193). -/
def FFmt.fma (f : FFmt) (a b c : Nat) : Res :=
  if f.isNan a || f.isNan b || f.isNan c then Res.ok f.nan
  else
    let p := mulVal (f.decode a) (f.decode b)
    if p.2 then f.deliver p else f.deliver (addVal p.1 (f.decode c))

/-- VMIN and VMAX (R193): one NaN gives the other operand, and -0 is below +0. -/
def FFmt.minMax (f : FFmt) (mx : Bool) (a b : Nat) : Nat :=
  let x := f.decode a
  let y := f.decode b
  if x = .nan then (if y = .nan then f.nan else b)
  else if y = .nan then a
  else
    let less := ltVal x y || (eqVal x y && x.isNeg && !y.isNeg)
    if less then (if mx then b else a) else (if mx then a else b)

/-- VSGNJ: the magnitude of `a` with the sign of `b` (R193). -/
def FFmt.sgnj (f : FFmt) (a b : Nat) : Nat :=
  if f.isNan a then f.nan else bitsOf a 0 (f.eb + f.mb) + f.signBit (b.testBit (f.eb + f.mb))

/-- The code with its sign bit replaced; a NaN becomes the canonical NaN (R195). -/
def FFmt.withSign (f : FFmt) (a : Nat) (neg : Bool) : Nat :=
  if f.isNan a then f.nan else bitsOf a 0 (f.eb + f.mb) + f.signBit neg

/-- A dyadic magnitude rounded to an integer. -/
def roundNat (r : RM) (neg : Bool) (m : Nat) (e : Int) : Nat :=
  if 0 ≤ e then m * 2 ^ e.toNat
  else
    let one := 2 ^ (-e).toNat
    let k := m / one
    if r.bump neg (k % 2 == 1) (m % one) one then k + 1 else k

/-- FLOOR, CEIL, RINT and TRUNC: exact; zeros and infinities keep themselves (R196). -/
def FFmt.toInt (f : FFmt) (r : RM) (a : Nat) : Res :=
  match f.decode a with
  | .fin n m e => f.put .even (.fin n (roundNat r n m e) 0)
  | v => f.put .even v

/-- The bits of the values 1 and -1 in a format. -/
def FFmt.one (f : FFmt) (neg : Bool) : Res := f.put .even (.fin neg 1 0)

/-- Whether an approximated function is exact at a value: then its result is not tiny by inexactness. -/
def approxExact (g : Approx) (v : FVal) : Bool :=
  match g with
  | .log | .log2 => eqVal v (.fin false 1 0)
  | .tanh | .erf | .gelu | .silu | .sin => v.isZero
  | _ => false

/-- An approximated function (R196): its special values, else an FP32 value within its bound, which one being the device's own
choice, rounded once to the format. EXP and EXP2 overflow where the exact result lies beyond FP32. -/
def FFmt.approx (f : FFmt) (g : Approx) (a : Nat) : Res :=
  let v := f.decode a
  let nv : Res := { bits := f.nan, flags := fNV }
  let free : Res :=
    match v with
    | .fin neg m e =>
      let r := f.put .even (fp32.decode (approxBits g (fp32.put .even v).bits neg m e))
      let tiny := decide (bitsOf r.bits 0 (f.eb + f.mb) < 2 ^ f.mb) && !approxExact g v
      { bits := r.bits, flags := r.flags ||| (if tiny then fUF else 0) }
    | _ => nv
  let ovf : Res := { bits := (f.infBits false).bits, flags := fOF }
  match v with
  | .nan => Res.ok f.nan
  | .inf neg =>
    match g with
    | .rsqrt | .log | .log2 => if neg then nv else if g = .rsqrt then Res.ok 0 else f.infBits false
    | .exp | .exp2 => if neg then Res.ok 0 else f.infBits false
    | .tanh | .erf => f.one neg
    | .sigmoid => if neg then Res.ok 0 else f.one false
    | .gelu | .silu => if neg then Res.ok (f.signBit true) else f.infBits false
    | .sin | .cos => nv
  | .fin neg m e =>
    match g with
    | .rsqrt => if m = 0 then f.infBits neg else if neg then nv else free
    | .log | .log2 =>
      if m = 0 then f.infBits true else if neg then nv
      else if eqVal v (.fin false 1 0) then Res.ok 0 else free
    | .exp | .exp2 => if approxOver g neg m e then ovf else free
    | _ => free

/-- EXP on FP32 bits (R196, R259). -/
def exp32 (a : Nat) : Res := fp32.approx .exp a

/-! ### Exact sums (R202, R204) -/

/-- An exact sum in progress: the dyadic sum, and which special values it has met. -/
structure ExSum where
  sum : Int × Int
  nan : Bool
  pinf : Nat
  ninf : Nat
  deriving DecidableEq, Repr

def ExSum.zero : ExSum := { sum := (0, 0), nan := false, pinf := 0, ninf := 0 }

/-- One more value in a sum. -/
def ExSum.add (s : ExSum) : FVal → ExSum
  | .nan => { s with nan := true }
  | .inf n => if n then { s with ninf := s.ninf + 1 } else { s with pinf := s.pinf + 1 }
  | .fin n m e => { s with sum := addDy s.sum (signedMant n m, e) }

/-- The value of an exact sum before rounding, and whether it is invalid; an exact 0 is +0. -/
def ExSum.val (s : ExSum) : FVal × Bool :=
  if s.nan then (.nan, false)
  else if s.pinf ≠ 0 ∧ s.ninf ≠ 0 then (.nan, true)
  else if s.pinf ≠ 0 then (.inf false, false)
  else if s.ninf ≠ 0 then (.inf true, false)
  else (dyadic s.sum.1 s.sum.2, false)

/-- The exact sum of values. -/
def sumVals (l : List FVal) : ExSum := l.foldl ExSum.add ExSum.zero

/-- The square of a value. -/
def sqVal (v : FVal) : FVal := (mulVal v v).1

/-! ### Conversions (R199) -/

/-- A float code converted to another float format; a NaN gives the canonical NaN. -/
def cvtFloat (src dst : FFmt) (r : RM) (a : Nat) : Res := dst.put r (src.decode a)

/-- An integer clamped to a range, with SAT where it is outside. -/
def clampInt (lo hi i : Int) : Int × Nat := if i < lo then (lo, fSAT) else if hi < i then (hi, fSAT) else (i, 0)

/-- The range of an integer format of `w` bits. -/
def intLo (w : Nat) (sgn : Bool) : Int := if sgn then -(2 ^ (w - 1) : Nat) else 0
def intHi (w : Nat) (sgn : Bool) : Int := if sgn then (2 ^ (w - 1) : Nat) - 1 else (2 ^ w : Nat) - 1

/-- An integer delivered in `w` bits, clamped. -/
def putInt (w : Nat) (sgn : Bool) (i : Int) : Res :=
  let (v, fl) := clampInt (intLo w sgn) (intHi w sgn) i
  { bits := unsigned w v, flags := fl }

/-- A value converted to an integer format (R199). -/
def valToInt (w : Nat) (sgn : Bool) (r : RM) : FVal → Res
  | .nan => { bits := 0, flags := fNV }
  | .inf n => { bits := unsigned w (if n then intLo w sgn else intHi w sgn), flags := fSAT }
  | .fin n m e => putInt w sgn (signedMant n (roundNat r n m e))

/-- The integer that `w` bits hold. -/
def getInt (w : Nat) (sgn : Bool) (b : Nat) : Int := if sgn then signed w b else (b % 2 ^ w : Nat)

/-! ### Integer operations (R194) -/

/-- An exact signed result in `w` bits: its low bits, or clamped under ISAT. -/
def putWrap (w : Nat) (isat : Bool) (i : Int) : Res :=
  if isat then putInt w true i else Res.ok (unsigned w i)

/-- Signed division and remainder, with the values at a divisor of 0 and at the most negative over -1. -/
def idiv (w : Nat) (a b : Nat) : Nat :=
  let x := signed w a
  let y := signed w b
  if y = 0 then 2 ^ w - 1 else unsigned w (x.tdiv y)
def irem (w : Nat) (a b : Nat) : Nat :=
  let x := signed w a
  let y := signed w b
  if y = 0 then a % 2 ^ w else unsigned w (x.tmod y)

end Sys2Proof.Machine
end

