-- ==== Sys2Proof/Machine/Names.lean ====
section
/-! DEFINITION. The names of the registers of every block (R562 to R565). A register's name is the spec's, in lower case.
Registers that are views of other state (DDEPTH, DCTX, CTXSTATE, GSTREAM, VSTAT and MXACC mirrors, JDATA, FOLDMAP, signal cells,
translation tables, routing entries, connection records, mailboxes) are no entries here. -/

namespace Sys2Proof.Machine

/-- Registers and counters of one tile (R563), the tile's dealer registers (R143) and its ARITH cycle counter (R31). -/
inductive TileReg where
  | meldcfg | cutcfg | tasktab | kittybase | kittysize | meldjob | meldocc | potocc | kittydepth | tokin
  | tokout | fires | prearm | cuts | kdiv | evict | potsat | potnan | kearly | drops | gthcfg | gedges
  | grows | gskip | gsquash | gedrop | gisect | gout | vinstr | vbusy | vlane | mxpass | mxbusy | mxskip
  | mxcpass | mxra | epirun | rowstat | xform | xqsat | kstage | sramecc | mjob | jptbase | sigout | waits
  | wakes | tgate | xfers | saudit | barr | elook | embdrop | emptybag | erephit | patcfg | patstat | patcnt
  | patfail | dlrsave | ddepthmax | dbusy | ddeals | dpre | daff | dspill | cycle
  deriving DecidableEq, Repr

/-- Registers of one dealer (R143); `hist s b` is bucket `b` of suit `s` (R141). -/
inductive QuadReg where
  | dlrcfg | dsuit0 | dsuit1 | dsuit2 | dsuit3 | dguard | ddefer
  | hist (s : Fin 4) (b : Fin 16)
  deriving DecidableEq, Repr

/-- Registers of one stack controller (R372 to R374). -/
inductive StackReg where
  | stkcfg | lockcfg | ecclog | scrubpos | schit | scmiss | scwb | scvb | pfstat | ecccnt | rngdisc | farsrv
  | rngbase | rnglen | rngcmd | rngstat
  deriving DecidableEq, Repr

/-- Registers of one Espex port (R404); `route i` is entry `i` of its quarter of the routing table. -/
inductive PortReg where
  | portcfg | portstat | lanediag | antecfg0 | antecfg1 | antecfg2 | antecfg3 | antecfg4 | antecfg5
  | antecfg6 | antecfg7 | lktx | lkrx | lkfec | lkretry | lktrain | lkstall | lkdrop | routecfg | timecfg
  | route (i : Fin 4096)
  deriving DecidableEq, Repr

/-- Registers of the host port and GXHT (R428). -/
inductive HostReg where
  | hpcfg | hpstat | htcfg | priomap | cccfg | macaddr | ipv4addr | ipv6addr0 | ipv6addr1 | httx | htrx
  | htfcs | htretx | htto | htdrop | htpfc | htce
  deriving DecidableEq, Repr

/-- Registers of one die block (R564): `grant j w` is word `w` of job slot `j`'s DRAM grant map (R38), `spill w i` is
word `i` of spill window `w` (R364), `vid j v` the translation of virtual signal `v` (R307). -/
inductive DieReg where
  | sigtimeo | sigstat | cellops | bclose | saudlast | tkdead | psocc | psledger | psbp | psapply | psstale
  | grant (j : Fin 4) (w : Fin 24)
  | spill (w : Fin 16) (i : Fin 4)
  | vid (j : Fin 4) (v : Fin 65536)
  deriving DecidableEq, Repr

/-- Registers of the embedding table unit (R298, R299); `epoch j t` is the epoch of table `t` of job slot `j`. -/
inductive EmbReg where
  | etabdir0 | etabdir1 | etabdir2 | etabdir3 | eserved | efwd | eapplied | egskip | erowput | epoolbusy
  | embcfg
  | epoch (j : Fin 4) (t : Fin 256)
  deriving DecidableEq, Repr

/-- Registers of the steward block (R565); the FOLDMAP words, the identity digest and the measurements are views; `mbcmd`, `mbstat` and `mbdata` are
those of steward mailbox `m` (R567). -/
inductive StewReg where
  | ident | bootstat | inv | invq0 | invq1 | invq2 | jhead | jsel | rstreq | clkstat | thrcfg | pwrcap
  | pwrstat | tempstat | thrtime | threng | timesteer | timeset | timestat | seat | cpstat | cpfault | cpcfg
  | cpsense0 | cpsense1 | cpsense2 | cpsense3 | cpsense4 | cpsense5 | cpsense6 | cpsense7 | cpcnt | secstat
  | svnstat | telstat | telcur
  | mbcmd (m : Fin 5)
  | mbstat (m : Fin 5)
  | mbdata (m : Fin 5) (i : Fin 8)
  deriving DecidableEq, Repr

/-- A register of the device: its block instance and its name. -/
inductive Reg where
  | tile (t : TileId) (r : TileReg)
  | quad (q : QuadId) (r : QuadReg)
  | stack (s : StackId) (r : StackReg)
  | port (p : PortId) (r : PortReg)
  | host (r : HostReg)
  | die (d : DieId) (r : DieReg)
  | emb (r : EmbReg)
  | stew (r : StewReg)
  deriving DecidableEq, Repr

end Sys2Proof.Machine
end

