-- ==== Sys2Proof/Machine/Tab.lean ====
section
/-! DEFINITION. Sparse tables as plain lists of key and value pairs: the shape of every repeated piece of state. -/

namespace Sys2Proof.Machine

/-- A table: the pairs that have been written; a key that is not listed has the table's default. -/
abbrev Tab (κ α : Type) := List (κ × α)

/-- The value at a key, if the table lists it. -/
def Tab.find? {κ α : Type} [DecidableEq κ] : Tab κ α → κ → Option α
  | [], _ => none
  | (k', v) :: t, k => if k' = k then some v else Tab.find? t k

/-- The value at a key, or the default. -/
def Tab.get {κ α : Type} [DecidableEq κ] (d : α) (t : Tab κ α) (k : κ) : α := (Tab.find? t k).getD d

/-- The table with a key set to a value. -/
def Tab.set {κ α : Type} [DecidableEq κ] : Tab κ α → κ → α → Tab κ α
  | [], k, v => [(k, v)]
  | (k', v') :: t, k, v => if k' = k then (k, v) :: t else (k', v') :: Tab.set t k v

/-- The table without a key. -/
def Tab.erase {κ α : Type} [DecidableEq κ] (t : Tab κ α) (k : κ) : Tab κ α := t.filter (fun p => p.1 ≠ k)

/-- The list with the element at an index replaced by a function of it. -/
def modAt {α : Type} : List α → Nat → (α → α) → List α
  | [], _, _ => []
  | a :: t, 0, f => f a :: t
  | a :: t, n + 1, f => a :: modAt t n f

/-- The list without its first element that satisfies a test. -/
def eraseFirst {α : Type} (p : α → Bool) : List α → List α
  | [] => []
  | a :: t => if p a then t else a :: eraseFirst p t

/-- The first index below `n` that satisfies a test. -/
def firstBelow (n : Nat) (p : Nat → Bool) : Option Nat := (List.range n).find? p

end Sys2Proof.Machine
end

