-- ==== Sys2Proof/Machine/State.lean ====
section
/-! DEFINITION. The state of the GX4 block: everything the spec gives the machine, as plain data, and its value at reset. -/

namespace Sys2Proof.Machine

/-- Faults of the model. No command of the GX4 stops the block: job faults, traps and refused requests are effects on
the state. The type is therefore empty: nothing raises a fault (safe: there is none). -/
inductive Fault where
  deriving DecidableEq, Repr

/-- Refusals of the model. -/
inductive Refusal where
  /-- Raised by an arm of `exec` whose command has no meaning yet; safe, nothing is claimed of it. -/
  | notModelled (mnemonic : String)
  deriving DecidableEq, Repr

/-! ### Hardware contexts (R27 to R36, R59) -/

/-- Privilege modes (R28). -/
inductive Priv where
  | u | m
  deriving DecidableEq, Repr

/-- Context states (R32). `saved` is SAVED in transit: being saved or restored (R143). -/
inductive CtxSt where
  | parked | ready | stalled | binding | waiting | saved
  deriving DecidableEq, Repr

/-- What a STALLED context waits for: nothing, the result of an access it issued, or progress after which its
instruction is issued again. -/
inductive Stall where
  | none | result | retry
  deriving DecidableEq, Repr

/-- What a registered wait waits for: a count (R313), the close of a barrier round (R319), or the round that its early
arrival counts in (R318). -/
inductive WaitKind where
  | signal | barrier | early
  deriving DecidableEq, Repr

/-- The wait state of a context (R313, R315). `armed`: an I = 1 wait that leaves the context running; `met`: it has
completed and its outcome is not yet withdrawn; `threshold` is the round number of a barrier wait; `rd` takes the round
number at the end of an early hold. -/
structure WaitRec where
  kind : WaitKind
  vid : BitVec 16
  die : DieId
  cell : Fin 65536
  consume : Bool
  intr : Bool
  hold : Bool
  threshold : Word
  armed : Bool
  met : Bool
  rd : XReg
  deriving DecidableEq, Repr

/-- A hardware context. `resv` is the reservation of LR: the device (none: this one) and the 64-byte granule (R30);
`resume` is the address at which execution goes on when a wait is interrupted. -/
structure Ctx where
  st : CtxSt
  stall : Stall
  halted : Bool
  priv : Priv
  pc : Word
  x : Tab XReg Word
  resv : Option (Option (BitVec 14) × Nat)
  mie1 : Bool
  mpie : Bool
  mpp : Priv
  mie : Word
  mip : Word
  mepc : Word
  mcause : Word
  mtval : Word
  mscratch : Word
  mtimecmp : Word
  instret : Word
  tasksrc : Word
  taskn : Word
  taskpot : Word
  tkarg : Word
  gctl : Word
  sigcfg : Word
  saud : Tab (Fin 8) Word
  mdirq : Word
  mdirqw : Tab (Fin 4) Word
  mdirqpc : Word
  suit : Suit
  dealTime : Nat
  vctx : Option VctxId
  tend : Bool
  wait : Option WaitRec
  deriving DecidableEq, Repr

/-- A context at reset: PARKED, holding nothing (R32). Its registers hold 0 (DESIGN CHOICE, log 3), MTIMECMP all ones (R64). -/
def Ctx.reset : Ctx :=
  { st := .parked, stall := .none, halted := false, priv := .m, pc := 0, x := [], resv := none, mie1 := false,
    mpie := false, mpp := .u, mie := 0, mip := 0, mepc := 0, mcause := 0, mtval := 0, mscratch := 0,
    mtimecmp := Word.ones, instret := 0, tasksrc := 0, taskn := 0, taskpot := 0, tkarg := 0, gctl := 0, sigcfg := 0,
    saud := [], mdirq := 0, mdirqw := [], mdirqpc := 0, suit := 0, dealTime := 0, vctx := none, tend := false,
    wait := none }

/-! ### Translation and scalar accesses (R38 to R47) -/

/-- A TLB entry (R42): tagged by job slot and page size; `pte` is the leaf as cached, its D bit included (R41). -/
structure TlbEntry where
  slot : JSlot
  giant : Bool
  vpn : Nat
  pte : Word
  deriving DecidableEq, Repr

/-- The place a scalar access is performed at (R30, R47): DRAM, an SRAM window, register space, or a peer device. -/
inductive Place where
  | dram | sram | reg | far (dev : BitVec 14)
  deriving DecidableEq, Repr

/-- The kinds of scalar access. -/
inductive MemKind where
  | load (rd : XReg) (uns : Bool)
  | store
  | amo (op : AmoOp) (rd : XReg)
  | lr (rd : XReg)
  | sc (rd : XReg)
  deriving DecidableEq, Repr

/-- A scalar access that has been issued, in a privilege mode, and is not yet performed (R46). `sent`: a far request is on its
way; `leaf`: where a page-table leaf stands whose D bit an SC sets when it stores (R41). -/
structure MemOp where
  seq : Nat
  ctx : CtxId
  kind : MemKind
  place : Place
  pa : Nat
  width : Width
  data : Word
  aq : Bool
  rl : Bool
  priv : Priv
  sent : Bool
  leaf : Option Nat := none
  deriving DecidableEq, Repr

/-! ### Tokens and the meld store (R70 to R116) -/

/-- States of a slot (R81). An entry that is FREE is not listed. -/
inductive SlotSt where
  | armed | preArmed | fired | running | retired
  deriving DecidableEq, Repr

/-- A slot entry (R81), with what the meld store keeps beside the record: its name, the tokens received and not yet
absorbed (R94), the STAT partials by index (R92), the counts that a cut home has still to send to each shard and the
next shard in rotation (R96), the merges whose row read is under way (R98), the cycle in which it fired (R124), and whether it
has been reloaded from the kitty (R101). -/
structure Slot where
  name : SlotName
  st : SlotSt
  suit : Suit
  last : TileId
  entry : Nat
  setmask : Nat
  cut : Bool
  sat : Bool
  nan : Bool
  km1 : Nat
  expected : Nat
  received : Nat
  n : Nat
  desc : Nat
  ptr : Option Nat
  satcnt : Nat
  opw : Tab (Fin 4) Word
  m : Nat
  m2 : Nat
  backlog : List Token
  stats : List (Nat × List Byte)
  remain : List Nat
  rot : Nat
  merging : List ShardRef
  firedAt : Nat
  waited : Bool
  reloaded : Bool
  deriving DecidableEq, Repr

/-- What a tile's kitty share holds (R100, R101): a diverted token, a token held for a FIRED or RUNNING slot, or an
evicted entry with its pot row. -/
inductive KItem where
  | token (name : SlotName) (t : Token) (early : Bool)
  | slot (s : Slot) (row : List Byte)
  deriving DecidableEq, Repr

/-- A ready item of a tile: a fired slot, by its entry number, and its suit (R118). -/
structure HandItem where
  idx : Nat
  suit : Suit
  deriving DecidableEq, Repr

/-! ### The dealer (R117 to R146) -/

/-- A saved context (R119, R135): its integer record and, if it held a binding, its vector record; the wait that stays
registered at its cell (R315) and, for one saved in BINDING, the register of its VBIND. -/
structure Saved where
  irec : Nat
  vrec : Option Nat
  suit : Suit
  dealTime : Nat
  st : CtxSt
  priv : Priv
  wait : Option WaitRec
  bindRd : XReg
  oldCtx : CtxId
  deriving DecidableEq, Repr

/-- A pre-emption under way (R134): the victim and the spades item it makes room for. -/
structure Preempt where
  victim : CtxId
  home : TileId
  item : HandItem
  deriving DecidableEq, Repr

/-! ### The vector and matrix engines (R183 to R270) -/

/-- The fields of a 32-bit vector instruction (R189), as numbers. -/
structure VWord where
  m : Bool
  sm : Nat
  op : Nat
  rs2 : Nat
  rs1 : Nat
  f : Nat
  rd : Nat
  deriving DecidableEq, Repr

/-- A piece of a row that VLD or VST moves: physical address, length, and the peer device of a far page; rows are
translated at issue (R206). -/
structure RowPiece where
  pa : Nat
  len : Nat
  far : Option (BitVec 14)
  deriving DecidableEq, Repr

/-- An MMA.D in progress (R223 to R229): the descriptor, program descriptors and configuration captured at issue, the
routing tags once read, the passes done of each output block, and the blocks finished. -/
structure MmaD where
  va : Nat
  desc : List Byte
  pro : List Byte
  epi : List Byte
  z : Bool
  cfg : Word
  pred : Word
  tags : Option (List Byte)
  started : Bool
  done : Tab Nat Nat
  blocks : Nat
  deriving DecidableEq, Repr

/-- The work in a vector context's engine queue (R213, R221). -/
inductive VOp where
  | word (w : VWord) (scalar : Word)
  | cvt (rd rs1 dfmt sfmt rm : Nat) (m : Bool)
  | mlogic (rd rs1 rs2 lop : Nat)
  | clrst
  | load (rd : Nat) (w : Fin 4) (rows : List (List RowPiece))
  | store (rd : Nat) (w : Fin 4) (rows : List (List RowPiece))
  | mma (rd rs1 rs2 : Nat) (z : Bool) (cfg rmask : Word)
  | mmad (d : MmaD)
  | eprun (va rd : Nat) (prog : List Byte) (rmask : Word)
  | vsmx (m : Bool) (f rd rs1 rs2 : Nat)
  deriving DecidableEq, Repr

/-- A queued instruction: its place in program order, the issuing mode, and the configuration captured at its issue
(R188, R257). A mask is read when the instruction executes: a context's instructions execute in order, so the register
then holds what it held at the issue in program order. -/
structure VQ where
  seq : Nat
  priv : Priv
  op : VOp
  vcfg : Word
  vlr : Word
  vlc : Word
  epicfg : Word
  deriving DecidableEq, Repr

/-- The register file of a vector context: T, A, compensation words and Q as bytes, laid out as the vector record lays
them out (R136), VSTAT, and the status words of A0 to A3 (R236). -/
structure VFile where
  image : List Host.Cell
  stat : Word
  acc : Tab (Fin 4) Word
  deriving DecidableEq, Repr

/-- A vector context (R34, R183): its registers and CSRs, the context bound to it, its engine queue, and the expert whose
first B image is staged (BVA, EXPSTRIDE, expert; R228). -/
structure VCtx where
  owner : Option CtxId
  file : VFile
  vcfg : Word
  vlr : Word
  vlc : Word
  mxcfg : Word
  mxrmask : Word
  mxpred : Word
  epicfg : Word
  queue : List VQ
  staged : Option (Nat × Nat × Nat)
  deriving DecidableEq, Repr

/-- A register file at reset and after a bind (R35); its content at reset is a DESIGN CHOICE (log 3). -/
def VFile.reset : VFile := { image := [], stat := 0, acc := [] }

/-- A vector context at reset, and after a bind but for its owner (R35, R209, R243, R257). -/
def VCtx.reset : VCtx :=
  { owner := none, file := VFile.reset, vcfg := 1, vlr := 32, vlc := 32, mxcfg := BitVec.ofNat 64 (3 + 3 * 32),
    mxrmask := 0xFFFFFFFF, mxpred := 0, epicfg := 0, queue := [], staged := none }

/-- A context in BINDING, in the order they entered it (R34), and the register that the index goes to. -/
structure Binder where
  ctx : CtxId
  rd : XReg
  deriving DecidableEq, Repr

/-! ### The token unit's queue and transfers (R104 to R106, R310, R324) -/

/-- The source of a queued token's payload: an image in memory translated at issue, with the destination that replaces
its own (R104); memory or tile rows (R105); bytes that an engine supplies. -/
inductive PaySrc where
  | image (ps : List RowPiece) (dest : Option Nat)
  | mem (ps : List RowPiece)
  | rows (v : VctxId) (t row : Nat)
  | bytes (l : List Byte)
  deriving DecidableEq, Repr

/-- The work in a tile's token unit queue (R106, R310): a token, a signal operation, or a transfer by its slot. -/
inductive SendKind where
  | token (hdr : Token) (src : PaySrc)
  | signal (vid : BitVec 16) (inc : Word)
  | sigr (dev : BitVec 14) (vid : BitVec 16) (inc : Word) (suit : Suit)
  | barrive (vid : BitVec 16) (sense : Bool) (rd : XReg)
  | xfer (slot : Nat)
  deriving DecidableEq, Repr

/-- A queued send: the context it came from (none: an engine of the tile) and its place in program order (R50). -/
structure Send where
  seq : Nat
  ctx : Option CtxId
  kind : SendKind
  own : Bool := false
  deriving DecidableEq, Repr

/-- A transfer in progress (R324, R325): its slot, the issuing context and mode, the descriptor's fields, the packets sent,
and those acknowledged or, for a GET, written. -/
structure Xfer where
  slot : Nat
  ctx : CtxId
  seq : Nat
  priv : Priv
  op : Nat
  suit : Suit
  lsen : Bool
  peer : BitVec 14
  lva : Nat
  rva : Nat
  len : Nat
  rvid : BitVec 16
  rinc : Word
  lvid : BitVec 16
  sent : Nat
  got : List Nat
  deriving DecidableEq, Repr

/-! ### The gather engine (R147 to R182) -/

/-- An open gather stream (R153 to R166): the descriptor and edge-transform descriptor as read at GOPEN, the context that
runs its task (none: suspended), whether a deal-interrupt handler opened it, the issuing mode, and the walk: the list
vertex, whether its list is open, the next ordinal or frame, the end ordinal or the neighbours left, the place within the
frame, whether the list's first edge is still to come, and the end of the range. `drain`: in GCLOSE.W. Then the records
delivered, returned and released, and the requests of each record not yet returned. `aborted`: it ends as its requests in
flight return (R162). -/
structure Stream where
  desc : List Byte
  xf : List Byte
  owner : Option CtxId
  handler : Bool
  seq : Nat
  priv : Priv
  vertex : Nat
  inList : Bool
  cur : Nat
  stop : Nat
  idx : Nat
  first : Bool
  fin : Bool
  drain : Bool
  delivered : Nat
  returned : Nat
  released : Nat
  reqs : List Nat
  aborted : Bool := false
  deriving DecidableEq, Repr

/-- An ISECT queued or running (R175): its context, destination register, mode, place in program order and descriptor. -/
structure Isect where
  ctx : CtxId
  rd : XReg
  priv : Priv
  seq : Nat
  desc : List Byte
  deriving DecidableEq, Repr


/-! ### The tile -/

/-- A tile (R19). `icache` lists the lines in the instruction cache, by peer device (none: this one) and line (the bytes come with
the commands); `mtvec` locks at the end of boot step B08 (R59); `slice` is the kind of the patience slice in progress, and
`aborted` counts the slices given up (R549, R551). -/
structure Tile where
  ctxs : Tab CtxId Ctx
  mtvec : Word
  mtvecLock : Bool
  seq : Nat
  tlb : List TlbEntry
  dcache : Tab Nat (List Byte)
  icache : List (Option (BitVec 14) × Nat)
  memq : List MemOp
  tokq : List Send
  xfers : List Xfer
  slots : Tab Nat Slot
  kitty : List KItem
  hand : List HandItem
  spilled : List HandItem
  saved : List Saved
  pre : Option Preempt
  vctxs : Tab VctxId VCtx
  bindq : List Binder
  streams : Tab Nat Stream
  isects : List Isect
  folded : Bool
  retained : Bool
  slice : Option Nat
  aborted : Nat
  deriving DecidableEq, Repr

/-- A tile at reset. -/
def Tile.reset : Tile :=
  { ctxs := [], mtvec := 0, mtvecLock := false, seq := 0, tlb := [], dcache := [], icache := [], memq := [], tokq := [], xfers := [], slots := [],
    kitty := [], hand := [], spilled := [], saved := [], pre := none, vctxs := [], bindq := [], streams := [], isects := [], folded := false, retained := false,
    slice := none, aborted := 0 }


/-! ### The memory system (R340 to R377) -/

/-- A line of a stack-cache slice (R351): its way, whether it is dirty, whether a prefetch brought it and nothing has
hit it since, and, while it is dirty, the bytes that DRAM still holds and which of its blocks are poisoned there (INVAL brings
them back, R348, R358). The bytes of every line are those of `State.mem`, the coherent view (R352). -/
structure ScLine where
  way : Nat
  dirty : Bool
  pref : Bool
  back : List Byte
  backUe : List Nat := []
  deriving DecidableEq, Repr

/-- A line in a slice's victim buffer (R357); a dirty one has its write-back issued. -/
structure Victim where
  line : Nat
  dirty : Bool
  deriving DecidableEq, Repr

/-- A stride tracker (R354): its key (tile, context, gather stream or 64), the last line address and stride, and how
often the stride has repeated. -/
structure Tracker where
  tile : TileId
  ctx : CtxId
  stream : Nat
  last : Nat
  stride : Int
  count : Nat
  deriving DecidableEq, Repr

/-- A range command in progress (R358): its operation, base and length, the lines not yet handled by this stack, and
what RNGCMD named. -/
structure RangeCmd where
  op : Fin 4
  base : Nat
  len : Nat
  force : Bool
  ways : Nat
  slot : JSlot
  deriving DecidableEq, Repr

/-- An entry of the retired-page list (R350). -/
structure Retired where
  frame : Nat
  stack : StackId
  reason : Fin 3
  deriving DecidableEq, Repr

/-- A far access of an engine that has left and has no reply yet (R363, R366): the tile, the context it works for, its place
in program order, the device asked, whether it writes, and the suit it travels in. The replies of one context from one
device come in order (R400). Then its address at the peer, the gather stream that it is for (64: none), and its 64-byte requests. -/
structure FarWait where
  tile : TileId
  ctx : Option CtxId
  seq : Nat
  dev : BitVec 14
  write : Bool
  suit : Suit
  pa : Nat := 0
  stream : Nat := 64
  reqs : Nat := 1
  deriving DecidableEq, Repr

/-! ### Jobs (R434 to R459) -/

/-- States of a job slot (R436). -/
inductive JobSt where
  | free | admitted | running | stopped
  deriving DecidableEq, Repr

/-- A job slot (R436): its state, epoch and last admission status, the partition, the manifest as admitted and the steward's
choices for it, whether the RW-L fields are locked (R438), the reason code of the stop in progress (R448), the cause of the
warm reset that follows it on this device (R449), and whether a FAULT has been flooded in this epoch (R408). -/
structure Job where
  st : JobSt
  epoch : BitVec 8
  status : Nat
  dies : Nat
  manifest : List Byte
  plan : AdmitPlan
  locked : Bool
  stop : Option Nat
  warm : Option Nat
  flooded : Bool
  deriving DecidableEq, Repr

/-- No choices. -/
def noPlan : AdmitPlan := { granules := [], cells := [], children := 0, kitty := [], ledgers := [], windows := [] }

/-- A free job slot (R436). -/
def Job.reset : Job :=
  { st := .free, epoch := 0, status := 0, dies := 0, manifest := [], plan := noPlan, locked := false, stop := none, warm := none,
    flooded := false }

/-! ### The journal and the event ring (R471, R554) -/

/-- Why a translation fails (R44): a page fault or an access fault. -/
inductive XFault where
  | page | access
  deriving DecidableEq, Repr

/-- The engines whose failed accesses a job fault names (R45). -/
inductive Engine where
  | vector | matrix | gather | isect | token | transfer | table | dealer | walker
  deriving DecidableEq, Repr

/-- What a fault report names besides its reason: the unit, the tile and context, the physical address, slot name or virtual
ID, and the further word the raising rule states (R473, R555). Then what a raising rule has the journal and the telemetry
record give and the formats of R472 and R554 have no field for (log 80): the engine and the kind of a failed translation
(R45), a token's OP (R115), a stream, list vertex and ordinal (R181), a vector context and a descriptor's address (R246), a
transfer (R339), the devices of a packet and a port's LANEDIAG (R408), what found a memory error (R376), and of a double
exception mepc, mcause and mtval with the pc and cause of the second one (R68). -/
structure FaultInfo where
  unit : UnitId := .none
  tile : Option TileId := none
  ctx : Option CtxId := none
  addr : Nat := 0
  extra : Nat := 0
  engine : Option Engine := none
  kind : Option XFault := none
  op : Option Nat := none
  stream : Option Nat := none
  vertex : Option Nat := none
  ordinal : Option Nat := none
  vctx : Option VctxId := none
  desc : Option Nat := none
  xid : Option Nat := none
  src : Option (BitVec 14) := none
  dst : Option (BitVec 14) := none
  lanes : Option Word := none
  found : Option (Fin 4) := none
  double : List Word := []
  deriving DecidableEq, Repr

/-- A journal record (R472); its CRC is a function of the other fields. `info`: what a FAULT record gives beyond its bytes. -/
structure JRecord where
  time : Nat
  seq : Nat
  typ : Nat
  code : Nat
  outcome : Nat
  attempt : Nat
  unit : Nat
  detail : List Byte
  info : Option FaultInfo := none
  deriving DecidableEq, Repr

/-- An event record (R554). `info`: what the record of a job fault gives beyond its bytes. -/
structure Event where
  time : Nat
  seq : Nat
  typ : Nat
  code : Nat
  sev : Nat
  unit : Nat
  detail : List Byte
  extra : Nat
  info : Option FaultInfo := none
  deriving DecidableEq, Repr


/-! ### Espex ports (R378 to R409) -/

/-- The link layer of a port: the next data FSEQ to send and to accept, the replay buffer (sequence number and slots),
the state of retry, units in use at the neighbour by pool ID (VC × 4 + pool) and the cumulative returns last seen,
units freed here by pool ID, bytes of a packet that runs on into the next flit, the arbiter's guard (R393), the
logical lanes judged bad, whether equalisation values are saved (R381), the departure time of an open time-sync request (the
timebase, in units of 2^-16 ns), and the control messages sent (R401, R402). Then: what the last full training found (R381);
`lost`, its one fast retrain has failed (R396); the antes of the neighbour's pools (R392); the counts of `freed` last reported
(R385); the logical lanes that each direction runs on (R382); the RXOK and RTREQ that the block headers sent carry, and those last
received (R380, R384); whether a data flit has been accepted since initialisation (ACKV); the flits sent, each with the header of
its FEC block; and the delay last measured, in units of 2^-16 ns (R401). -/
structure LinkSt where
  txSeq : Nat
  rxSeq : Nat
  replay : List (Nat × List Byte)
  retrying : Bool
  fails : Nat
  gap : Bool
  used : Tab Nat Nat
  seen : Tab Nat Nat
  freed : Tab Nat Nat
  partials : List Byte
  guard : Nat
  badLanes : Nat
  eqSaved : Bool
  tsOpen : Option Nat
  ctlOut : List (List Byte)
  saved : Training
  lost : Bool
  grant : Tab Nat Nat
  told : Tab Nat Nat
  rxLanes : Nat
  txLanes : Nat
  rxok : Nat
  rtreq : Bool
  peerRxok : Nat
  peerRtreq : Bool
  anyRx : Bool
  wire : List (Nat × List Byte)
  delay : Int
  deriving DecidableEq, Repr

/-- No training yet. -/
def noTraining : Training :=
  { faults := [], inverted := 0, order := .same, peerOk := 0, poor := 0, nbrDev := 0, nbrPort := 0, antes := [] }

/-- A link after initialisation (R381, T5). -/
def LinkSt.reset : LinkSt :=
  { txSeq := 0, rxSeq := 0, replay := [], retrying := false, fails := 0, gap := false, used := [], seen := [],
    freed := [], partials := [], guard := 0, badLanes := 0, eqSaved := false, tsOpen := none, ctlOut := [], saved := noTraining,
    lost := false, grant := [], told := [], rxLanes := 0, txLanes := 0, rxok := 0, rtreq := false, peerRxok := 0,
    peerRtreq := false, anyRx := false, wire := [], delay := 0 }

/-- Where the units of a packet that leaves by a port are held until then (R392): nowhere but with its unit; the receive buffer of
the port that it came by; or the transit buffer of the link die that it leaves by. -/
inductive Hold where
  | unit
  | port (p : PortId)
  | transit (d : DieId)
  deriving DecidableEq, Repr

/-- A packet in a port's queue: whether it holds its antes already, the link die that routed it, where its units are held, and in
which pool. -/
structure EgPkt where
  k : Packet
  antes : Bool
  die : DieId
  hold : Hold
  pool : Nat
  deriving DecidableEq, Repr


/-! ### Signals (R304 to R339) -/

/-- A signal cell as its record's four words (R305). -/
structure Cell where
  value : Word
  cfg : Word
  parent : Word
  child : Word
  deriving DecidableEq, Repr

/-- A cell no job owns. -/
def Cell.reset : Cell := { value := 0, cfg := 0, parent := 0, child := 0 }

/-- An entry of a link die's pending-signal table (R328). -/
structure PsEntry where
  src : BitVec 14
  xid : BitVec 16
  die : DieId
  cell : Fin 65536
  inc : Word
  n : Nat
  tally : Nat
  slot : JSlot
  suit : Suit
  deriving DecidableEq, Repr

/-- A write notice, on its way to its home link die or held in its ledger (R327, R328). -/
structure Notice where
  home : DieId
  src : BitVec 14
  xid : BitVec 16
  slot : JSlot
  deriving DecidableEq, Repr

/-- A chassis barrier line of this module (R322): held low; released, waiting to read high; high and not yet rearmed. -/
inductive ChasLine where
  | held | released | high
  deriving DecidableEq, Repr


/-! ### Starts, power and clocks (R460 to R498, R504, R510) -/

/-- The start in progress and the module's power (R460 to R468): `kind` as START records it, `base` the kind of the start
that an automatic restart replaces, the step, its units without an outcome, whether one has failed in this attempt, the
restarts so far, the failure that the root die latched (R465; 0xFF none), the durations of B00 to B02, the slots to
re-admit at B15 (R462); training values saved in flash by step and unit, and the exclusion list in flash (R468); whether the
recovery image runs (R532), the journal records torn so far, and the SUPPLY records that the next B03 owes (R488). -/
structure Boot where
  powered : Bool
  pgood : Bool
  ready : Bool
  mrst : Bool
  active : Bool
  kind : Nat
  base : Nat
  step : Nat
  left : List UnitId
  failed : Bool
  restarts : Nat
  latch : Nat
  early : List (Nat × Nat)
  readmit : List JSlot
  trained : List (Nat × UnitId)
  exclFlash : List UnitId
  recovery : Bool
  torn : Nat
  owed : List (Nat × List Byte)
  deriving DecidableEq, Repr

/-- The module without input power. -/
def Boot.reset : Boot :=
  { powered := false, pgood := false, ready := false, mrst := false, active := false, kind := 0, base := 0, step := 0,
    left := [], failed := false, restarts := 0, latch := 0xFF, early := [], readmit := [], trained := [], exclFlash := [],
    recovery := false, torn := 0, owed := [] }

/-- Supplies, temperatures and the throttle (R483 to R492, R504): the causes active, the forced level's place being
THRCFG; the power-fail hold, the cause that its warm reset will record and what it waits for (the input, a rail, the sensors); DRAM in self-refresh; the stacks whose refresh
interval is halved; whether the device sits out (R474); the latches of the root die; the sources of time; when each supply record was last written, and those
held back since (R495). -/
structure Power where
  causes : Nat
  hold : Bool
  holdCause : Nat
  inputLow : Bool
  railDown : List (Fin 12)
  critical : Bool
  selfRefresh : Bool
  halved : List StackId
  reversed : Bool
  overVolt : Bool
  underVolt : Bool
  overCurrent : Bool
  thermalOff : Bool
  ptpOk : Bool
  ppsOk : Bool
  supply : Tab Nat (Nat × Nat)
  chassisLow : Bool
  sitting : Bool
  deriving DecidableEq, Repr

/-- Nothing active. -/
def Power.reset : Power :=
  { causes := 0, hold := false, holdCause := 0, inputLow := false, railDown := [], critical := false, selfRefresh := false, halved := [], reversed := false,
    overVolt := false, underVolt := false, overCurrent := false, thermalOff := false, ptpOk := false, ppsOk := false,
    supply := [], chassisLow := false, sitting := false }


/-! ### The host port (R410 to R433) and management messages (R426, R518, R537) -/

/-- States of a connection (R430). -/
inductive ConnSt where
  | free | opened | held | failed
  deriving DecidableEq, Repr

/-- What a received packet waits for before it is acknowledged (R419): nothing; its tokens' acceptance; the acknowledgement
of a GETRSP; the rest of its MGMT message; or for ever (R348). -/
inductive HtWait where
  | done
  | tokens (l : List Token)
  | get (psn : Nat)
  | mgmt
  | never
  deriving DecidableEq, Repr

/-- A packet received in the window (R419): what is kept of it, and the STATUS it was given. -/
structure HtSeen where
  pkt : HtPkt
  wait : HtWait
  status : Nat
  deriving DecidableEq, Repr

/-- A packet not yet acknowledged: whether it has been sent, and when it was last resent (R420). -/
structure HtSent where
  pkt : HtPkt
  sent : Bool
  resent : Option Nat
  deriving DecidableEq, Repr

/-- A connection: its record (R430); the receiver's cumulative point, the packets received from there on, and what the one
before it was (R419, R575), the refused packets behind that point with their STATUS, and the messages refused as malformed, by MSN
(R417, R418, R575); packets and CE marks since the last ACK; the sender's next PSN and MSN and its unacknowledged
packets, the RTO in µs and the timeouts in a row (R420); the rate in units of 2⁻²⁰ of the line, the last round trip, and the
CE marks reported in it (R423). -/
structure Conn where
  st : ConnSt
  jb : Bool
  jslot : JSlot
  mg : Bool
  sp : Bool
  hb : Bool
  peerConn : BitVec 16
  peer : HtPeer
  rxNext : Nat
  seen : List HtSeen
  prev : Option HtPkt
  refused : List (Nat × Nat)
  badMsg : List (BitVec 32)
  since : Nat
  ce : Nat
  txPsn : Nat
  txMsn : Nat
  unacked : List HtSent
  rto : Nat
  timeouts : Nat
  rate : Nat
  rtt : Option Nat
  ceRtt : Nat
  deriving DecidableEq, Repr

/-- A free connection. -/
def Conn.reset : Conn :=
  { st := .free, jb := false, jslot := 0, mg := false, sp := false, hb := false, peerConn := 0,
    peer := { v6 := false, mac := 0, port := 0, ip := 0 }, rxNext := 0, seen := [], prev := none, refused := [], badMsg := [],
    since := 0, ce := 0, txPsn := 0,
    txMsn := 0, unacked := [], rto := 0, timeouts := 0, rate := 0, rtt := none, ceRtt := 0 }

/-- A frame that carries GXHT (R412, R414, R416): its tag, the transmit association that protects it, the stations and the
addresses, the UDP ports and checksum, and the datagram; `peer.port` is the destination port. -/
structure HtFrame where
  vid : BitVec 12
  pcp : BitVec 3
  sec : Option (Word × Fin 4)
  mac : BitVec 48
  peer : HtPeer
  src : BitVec 128
  dscp : BitVec 6
  ecn : BitVec 2
  port : BitVec 16
  sum : BitVec 16
  data : List Byte
  deriving DecidableEq, Repr

/-- A frame that the port sends: a GXHT packet, the Delay_Req of an IEEE 1588 exchange (R415), or a PFC frame that pauses a
priority or ends its pause (R413). -/
inductive HostFrame where
  | gxht (f : HtFrame)
  | delayReq (vid : BitVec 12) (pcp : BitVec 3) (sec : Option (Word × Fin 4))
  | pfc (prio : Fin 8) (pause : Bool)
  deriving DecidableEq, Repr

/-- A MACsec secure association: the SCI of its channel, its number, and its key (R414). -/
structure Sa where
  sci : Word
  an : Fin 4
  key : BitVec 256
  deriving DecidableEq, Repr

/-- A request to a management endpoint (R426), with the connection it came over (none: I3C). -/
structure MgmtReq where
  via : Option (Fin 1024)
  suit : Suit
  endpoint : Nat
  tag : Nat
  body : List Byte
  deriving DecidableEq, Repr

/-- An answer that waits for a private read over I3C. -/
structure MgmtAns where
  endpoint : Nat
  tag : Nat
  body : List Byte
  deriving DecidableEq, Repr

/-- The host port: connections; answers and packets on their way out that a PFC pause holds, and those sent, newest last; the
priorities paused, and the suits whose buffer the port has paused the sender for (R413); the MACsec associations live; the timestamps
of an IEEE 1588 exchange, and whether its Delay_Req waits (R415); requests that wait for the steward,
a body that comes in parts over I3C, and the answers for I3C; the
I3C target's dynamic address, the events it may raise, and the bytes last read from it (R518). -/
structure HostSt where
  conns : Tab (Fin 1024) Conn
  acks : List (HtPeer × HtPkt)
  out : List HostFrame
  paused : List (Fin 8)
  rxHot : List Suit
  macTx : List Sa
  macRx : List Sa
  ptp1 : Option Nat
  ptp2 : Option Nat
  ptp3 : Option Nat
  ptpWait : Bool
  reqs : List MgmtReq
  part : Option MgmtReq
  i3cOut : List MgmtAns
  i3cAddr : Option (BitVec 7)
  i3cEvents : BitVec 8
  i3cRead : List Byte
  deriving DecidableEq, Repr

/-- Nothing open. -/
def HostSt.reset : HostSt :=
  { conns := [], acks := [], out := [], paused := [], rxHot := [], macTx := [], macRx := [], ptp1 := none, ptp2 := none, ptp3 := none,
    ptpWait := false, reqs := [], part := none, i3cOut := [], i3cAddr := none, i3cEvents := 0xFF, i3cRead := [] }


/-! ### The security core (R525 to R547) -/

/-- The security core and the module flash behind it: MR0 to MR7 (R526); what has been written to the image areas, newest
first, over what they held at delivery (R527); the replay-protected block (R534): OWNED, FNDDIS, the slot enable bits, the
active bank, OWNCTR, the counters, and the RSA and SLH-DSA digests of owner slots 1 to 4; the area and header of the running
image; the measured sections that MR3 to MR5 already hold in this cold or module start, by step; the owner's certificates; the
report being signed, and the ATTEST requests queued (R544). -/
structure SecSt where
  mr : Tab (Fin 8) (List Byte)
  written : List (Fin 3 × Nat × List Byte)
  owned : Bool
  fnddis : Bool
  slotEn : Nat
  bank : Fin 2
  ownctr : Nat
  svnMain : Nat
  svnRec : Nat
  keys : Tab Nat (List Byte × List Byte)
  running : Option (Fin 3)
  header : List Byte
  extended : List Nat
  certs : List (List Byte)
  signing : Option (MgmtReq × List Byte)
  queue : List MgmtReq
  deriving DecidableEq, Repr

/-- An unowned module as delivered (log 57). -/
def SecSt.reset : SecSt :=
  { mr := [], written := [], owned := false, fnddis := false, slotEn := 0, bank := 0, ownctr := 0, svnMain := 0, svnRec := 0,
    keys := [], running := none, header := [], extended := [], certs := [], signing := none, queue := [] }

/-! ### The embedding table unit (R271 to R303) -/

/-- What a table operation in flight is: an EBAG, an EGRAD, an ECMD, or the HAND of a shard. -/
inductive TblForm where
  | bag | grad | cmd
  | hand (shard : Nat)
  deriving DecidableEq, Repr

/-- A table operation in flight (R278, R287, R292, R295): its request ID, the issuing tile and context, its place in program
order, the job slot, its form, class, table, descriptor and the table's, how many entries or answers are outstanding, and the save
record of its context while that is saved (R138). -/
structure TblOp where
  id : Nat
  tile : TileId
  ctx : CtxId
  seq : Nat
  slot : JSlot
  form : TblForm
  suit : Suit
  table : Nat
  desc : List Byte
  tab : List Byte
  left : Nat
  held : Option Nat := none
  deriving DecidableEq, Repr

/-- The table unit: the next request ID, the operations in flight, the messages that it has sent to itself, and the map
entries cached by job slot, table and shard (R275). -/
structure TblSt where
  next : Nat
  ops : List TblOp
  queue : List TblMsg
  cache : List ((JSlot × Nat × Nat) × List Byte)
  deriving DecidableEq, Repr

/-- Nothing in flight. -/
def TblSt.reset : TblSt := { next := 0, ops := [], queue := [], cache := [] }

/-- The table unit without anything of a job slot. -/
def TblSt.drop (x : TblSt) (j : JSlot) : TblSt :=
  { x with ops := x.ops.filter (fun o => o.slot != j), queue := x.queue.filter (fun m => m.jslot != j),
           cache := x.cache.filter (fun c => c.1.1 != j) }


/-- The key, in `FarWait.stream`, of the far accesses of table operations that a context issued, or of a context saved in a
record. -/
def tableKey (c : Nat) : Nat := 65 + c
def savedTableKey (irec : Nat) : Nat := 97 + irec

/-- The operations in flight of a context marked with the save record that it goes to, and given to the context that takes the
record up (R138). -/
def TblSt.hold (x : TblSt) (t : TileId) (c : CtxId) (irec : Nat) : TblSt :=
  { x with ops := x.ops.map (fun o => if o.tile = t ∧ o.ctx = c ∧ o.held = none then { o with held := some irec } else o) }
def TblSt.unhold (x : TblSt) (t : TileId) (c : CtxId) (irec : Nat) : TblSt :=
  { x with ops := x.ops.map (fun o => if o.tile = t ∧ o.held = some irec then { o with ctx := c, held := none } else o) }

/-! ### The device -/

/-- The state of the device. `pending` is the queue of commands, first in, first out; `computeOn` says that the compute dies
are out of reset and their clocks run; `poison` lists the poisoned 64-byte blocks (R348), `latent` the bit errors that stand in memory and no
check has met, by block (log 33); `corrected` lists the blocks of DRAM
found with a corrected error, and whether in the scrub pass under way (R350); `scrubBlk` is the block within the granule of
SCRUBPOS; `mailbox` holds the steward mailbox commands that wait, with the data
they captured (R567); `entries` is each dealer's task-entry cache, by job slot and address of the entry (R127); `free` counts
the free values taken (the model's own field). -/
structure State where
  pending : List Instr
  devId : BitVec 14
  timebase : Nat
  rootRem : Nat
  regs : Tab Reg Word
  mem : List Host.Cell
  tiles : Tab TileId Tile
  mesh : List Token
  poison : List Nat
  latent : List (Nat × Ecc)
  scLines : Tab Nat ScLine
  plru : Tab (StackId × Nat × Nat) Nat
  victims : Tab (StackId × Nat) (List Victim)
  trackers : Tab (StackId × Nat × Nat) Tracker
  ranges : Tab StackId RangeCmd
  excl : List UnitId
  retired : List Retired
  corrected : List (Nat × Bool)
  scrubBlk : Tab StackId Nat
  farResv : Tab StackId (List (BitVec 14 × TileId × CtxId × Nat))
  farWaits : List FarWait
  jobs : Tab JSlot Job
  journal : List JRecord
  events : List Event
  links : Tab PortId LinkSt
  egress : Tab PortId (List EgPkt)
  transit : Tab (DieId × Nat) Nat
  flashRegs : Tab Reg Word
  inbox : List (PortId × Packet)
  localPkts : List Packet
  cpOn : Bool
  cpPulse : Bool
  b14Passed : Bool
  startNs : Nat
  jnext : Nat
  enext : Nat
  merged : Tab (Nat × Nat × Nat) (Nat × Nat)
  cells : Tab (DieId × Fin 65536) Cell
  psTab : Tab DieId (List PsEntry)
  notices : List Notice
  ledger : List Notice
  psWaiting : List Packet
  chasLines : Tab (Fin 2) ChasLine
  computeOn : Bool
  host : HostSt
  boot : Boot
  power : Power
  sec : SecSt
  mailbox : List (Fin 5 × Nat × List Word)
  tbl : TblSt
  entries : Tab QuadId (List ((JSlot × Nat) × Nat))
  free : Nat
  deriving DecidableEq, Repr

/-- The device right after a cold reset, before input power. -/
def State.reset : State :=
  { pending := [], devId := 0, timebase := 0, rootRem := 0, regs := [], mem := [], tiles := [], mesh := [],
    poison := [], latent := [], scLines := [], plru := [], victims := [], trackers := [], ranges := [], excl := [], retired := [],
    corrected := [], scrubBlk := [], farResv := [], farWaits := [], jobs := [], journal := [], events := [], links := [], egress := [], transit := [], flashRegs := [], inbox := [], localPkts := [], cpOn := false, cpPulse := false, b14Passed := false, startNs := 0, jnext := 0,
    enext := 0, merged := [], cells := [], psTab := [], notices := [], ledger := [], psWaiting := [], chasLines := [], computeOn := false, host := HostSt.reset, boot := Boot.reset, power := Power.reset, sec := SecSt.reset, mailbox := [], tbl := TblSt.reset, entries := [], free := 0 }

end Sys2Proof.Machine
end

