-- ==== Sys2Proof/Machine/Operands.lean ====
section
/-! DEFINITION. Operand forms of the Bualva instructions: the instruction words (R54, R56, R189), tile operands (R55), element
formats (R184, R198), and the grids, packed rows and masks that the registers of a vector context hold. -/

namespace Sys2Proof.Machine

/-! ### Instruction words, for mtval (R36) -/

/-- A 32-bit R-type word (R54). -/
def rWord (opc f3 f7 : Nat) (f : RFields) : Nat :=
  opc + f.rd.val * 2 ^ 7 + f3 * 2 ^ 12 + f.rs1.val * 2 ^ 15 + f.rs2.val * 2 ^ 20 + f7 * 2 ^ 25

/-- A 64-bit long-form word (R56). -/
def lWord (group f7 : Nat) (f : LFields) : Nat :=
  0x3F + f.rd.val * 2 ^ 7 + group * 2 ^ 12 + f.rs1.val * 2 ^ 15 + f.rs2.val * 2 ^ 20 + f7 * 2 ^ 25
    + f.imm.toNat * 2 ^ 32

/-- A 32-bit vector instruction (R189). -/
def vWordBits (w : VWord) : Nat :=
  0x0B + w.rd * 2 ^ 7 + w.f * 2 ^ 12 + w.rs1 * 2 ^ 15 + w.rs2 * 2 ^ 20 + w.op * 2 ^ 25 + w.sm * 2 ^ 29
    + w.m.toNat * 2 ^ 31

/-- The fields of a 32-bit vector word (R189). -/
def vWordOf (b : Nat) : VWord :=
  { m := b.testBit 31, sm := bitsOf b 29 2, op := bitsOf b 25 4, rs2 := bitsOf b 20 5, rs1 := bitsOf b 15 5,
    f := bitsOf b 12 3, rd := bitsOf b 7 5 }

/-! ### Formats and register operands -/

/-- The float format of F = 0 to 4 (R189). -/
def fmtOf (f : Nat) : FFmt :=
  match f with
  | 0 => fp32 | 1 => bf16 | 2 => fp16 | 3 => e4m3 | _ => e5m2

/-- The element width of format F (R184, R189). -/
def fmtWidth (f : Nat) (vcfg : Word) : Nat := if f < 5 then (fmtOf f).width else 8 * 2 ^ Word.bits vcfg 0 2

/-- Tile operands (R55). -/
def isT (r : Nat) : Bool := decide (r < 16)
def isA (r : Nat) : Bool := decide (16 ≤ r ∧ r < 20)
def isQ (r : Nat) : Bool := decide (20 ≤ r ∧ r < 28)

/-- Whether a register may hold a grid of a width (R184). -/
def gridOk (r w : Nat) : Bool :=
  if w ≤ 16 then isT r else if w = 32 then (isT r && r % 2 == 0) || isA r else isT r && r % 4 == 0

/-! ### Register files -/

/-- A number of `n` bytes at an offset of a register file. -/
def VFile.num (v : VFile) (off n : Nat) : Nat := leVal ((List.range n).map (fun i => Mem.get v.image (off + i)))

/-- `n` bytes at an offset of a register file. -/
def VFile.bytes (v : VFile) (off n : Nat) : List Byte := (List.range n).map (fun i => Mem.get v.image (off + i))

/-- A register file with bytes written at an offset. -/
def VFile.put (v : VFile) (off : Nat) (l : List Byte) : VFile := { v with image := Mem.setBytes v.image off l }

/-- The offset of an element of a grid (R184). -/
def gridOff (reg w r c : Nat) : Nat :=
  if reg < 16 then
    if w ≤ 16 then reg * 2048 + r * 64 + c * (w / 8)
    else if w = 32 then (reg + c / 16) * 2048 + r * 64 + 4 * (c % 16)
    else (reg + c / 8) * 2048 + r * 64 + 8 * (c % 8)
  else 0x8000 + (reg - 16) * 4096 + r * 128 + 4 * c

/-- The offset of the compensation word of an accumulator element (R136). -/
def loOff (reg r c : Nat) : Nat := 0xC000 + (reg - 16) * 4096 + r * 128 + 4 * c

/-- The read value of an accumulator element: rn32(hi + lo); where lo is +0, the bits of hi (R240). -/
def accRead (hi lo : Nat) : Nat := if lo = 0 then hi else (fp32.add hi lo).bits

/-- An element of a grid register as an instruction reads it (R184, R240). -/
def VFile.elem (v : VFile) (reg w r c : Nat) : Nat :=
  let x := v.num (gridOff reg w r c) (w / 8)
  if isA reg then accRead x (v.num (loOff reg r c) 4) else x

/-- The 1,024 bits of a Q register (R186). -/
def VFile.mask (v : VFile) (q : Nat) : Nat := v.num (0x10000 + (q - 20) * 128) 128

/-- A register file with a Q register written. -/
def VFile.putMask (v : VFile) (q bits : Nat) : VFile := v.put (0x10000 + (q - 20) * 128) (leBytes 128 bits)

/-- The positions of a 32 × 32 grid, row-major. -/
def allPositions : List (Nat × Nat) := (List.range 1024).map (fun k => (k / 32, k % 32))

/-- A register file whose accumulator has every element not in a list of positions folded into hi (R241). -/
def VFile.fold (v : VFile) (reg : Nat) (except : List (Nat × Nat)) : VFile :=
  if v.image.any (fun c => decide (loOff reg 0 0 ≤ c.1 ∧ c.1 < loOff reg 0 0 + 4096)) then
    allPositions.foldl (fun v p =>
      if except.contains p || v.num (loOff reg p.1 p.2) 4 == 0 then v
      else (v.put (gridOff reg 32 p.1 p.2) (leBytes 4 (v.elem reg 32 p.1 p.2))).put (loOff reg p.1 p.2) (leBytes 4 0)) v
  else v

/-- An accumulator register's index. -/
def accIdx (reg : Nat) : Fin 4 := Fin.ofNat 4 reg

/-- A register file with elements of a grid written. Each row of an 8-bit grid gets 0 in bytes 32 to 63 (R184). A write of an
accumulator folds the other positions, sets lo to +0 and clears the status word (R241). -/
def VFile.putGrid (v : VFile) (reg w : Nat) (l : List ((Nat × Nat) × Nat)) : VFile :=
  let v := if isA reg then
      let v := v.fold reg (l.map (·.1))
      { v with acc := Tab.set v.acc (accIdx reg) 0 }
    else v
  let v := l.foldl (fun v e =>
    let v := v.put (gridOff reg w e.1.1 e.1.2) (leBytes (w / 8) e.2)
    if isA reg then v.put (loOff reg e.1.1 e.1.2) (leBytes 4 0) else v) v
  if isT reg && w == 8 then
    (List.range 32).foldl (fun v r => v.put (reg * 2048 + r * 64 + 32) (List.replicate 32 0)) v
  else v

/-- VSTAT with bits set and the count of out-of-range lanes raised (R208). -/
def VFile.flag (v : VFile) (flags lanes : Nat) : VFile :=
  { v with stat := Word.addSat (v.stat ||| BitVec.ofNat 64 flags) 32 16 lanes }

end Sys2Proof.Machine
end

