-- ==== Sys2Proof/Machine/Fec.lean ====
section
/-! DEFINITION. The FEC block of an Espex port (R378 to R380): the RS(544,514) code, the scrambler and the order of the symbols on the
lanes; and the CRC of a flit (R385). The code's field and generator, and the order of bits in a symbol, are those of IEEE 802.3
(log 91). -/

namespace Sys2Proof.Machine

/-! ### CRC-32C (R385) -/

/-- One step of CRC-32C (RFC 3720), bit by bit. -/
def crcBits : Nat → Nat → Nat
  | 0, c => c
  | n + 1, c => crcBits n (if c % 2 = 1 then c / 2 ^^^ 0x82F63B78 else c / 2)

/-- CRC-32C of a message. -/
def crc32c (m : List Byte) : Nat := (m.foldl (fun c b => crcBits 8 (c ^^^ b.toNat)) 0xFFFFFFFF) ^^^ 0xFFFFFFFF

/-! ### The field of 1,024 elements: x^10 + x^3 + 1 -/

/-- A product. -/
def gfMul (a b : Nat) : Nat :=
  (List.range 10).foldl (fun r i =>
    let d := if r.testBit 9 then (2 * r) ^^^ 0x409 else 2 * r
    if b.testBit (9 - i) then d ^^^ a else d) 0

/-- A power, of an exponent below 1,024, and the inverse. -/
def gfPow (a n : Nat) : Nat := (List.range 10).foldl (fun r i => let q := gfMul r r; if n.testBit (9 - i) then gfMul q a else q) 1
def gfInv (a : Nat) : Nat := gfPow a 1022

/-- A polynomial, lowest coefficient first, at a point. -/
def gfEval (p : List Nat) (x : Nat) : Nat := p.foldr (fun c a => gfMul a x ^^^ c) 0

/-- A sum of polynomials. -/
def gfAdd (p q : List Nat) : List Nat := (List.range (max p.length q.length)).map (fun i => p.getD i 0 ^^^ q.getD i 0)

/-! ### RS(544,514) (R379) -/

/-- The generator's coefficients below the leading 1, each times 2^b, packed: that of x^j in bits [10j + 9 : 10j]. -/
def rsTab : List Nat :=
  [0x8fe282ece68a0011b235468f99448417ad07bd81eb9f7dcd69c5262305881fcb927880d0a0b,
   0x1dc595d9cc16402360638d1f22ad082f1a9f7b02d57eebbed2884cd60b103f9724f100a341f,
   0x3b8b2bb3982c8046c0c6187e455a105e352ed60da8fd575dad12d9ac12297f2e49e20044c3e,
   0x771647473959008d818c30bc1ab029bc2add8c1353fa3ebb5a25b348045bfe1c13e4098987c,
   0xee2c8e8a7bb2010b27186138b544527a553b3c26a7b4fd56bd4b26102cb6fe7827c812114f8,
   0xde599d34ff6642066e39c231fa88a4f4aa665c4c4d697a8d73960cb0596cfef0df9024229f0,
   0xbef32a4dfecc840cd87b8663753548eb545cb8989a92753ee62e5960b2d8ffe13f0448453e0,
   0x7fe6d4bffc9b480994f60ec67a6a90d4e8a955303764ea79c55cb2c161b9fdc2fe2c908a3c9,
   0xff8d397bf134d0030dec1d8ce4f529abd1d28e606e8954d78ab92512c372f9c5ec7d201679b,
   0xfd5a62d7eb69a0061bd83b19c9ea5255e3a518c9dd12a9ab1d704ab582edf1cbc8de402cb3f]

/-- One more symbol of a message in the division by the generator; the remainder is packed as `rsTab` is. -/
def rsStep (r sym : Nat) : Nat :=
  let f := r / 2 ^ 290 ^^^ sym
  (List.range 10).foldl (fun a b => if f.testBit b then a ^^^ rsTab.getD b 0 else a) (r % 2 ^ 290 * 2 ^ 10)

/-- The 30 check symbols of a message of 514, in the order sent. -/
def rsCheck (m : List Nat) : List Nat :=
  let r := m.foldl rsStep 0
  (List.range 30).map (fun i => r / 2 ^ (10 * (29 - i)) % 2 ^ 10)

/-- One step of the search for the shortest recurrence of the syndromes: locator, last locator, their lengths, the shift and the last
discrepancy. -/
structure RsSearch where
  c : List Nat
  b : List Nat
  len : Nat
  shift : Nat
  disc : Nat

def RsSearch.step (syn : List Nat) (x : RsSearch) (n : Nat) : RsSearch :=
  let d := (List.range (x.len + 1)).foldl (fun a i => a ^^^ gfMul (x.c.getD i 0) (if i ≤ n then syn.getD (n - i) 0 else 0)) 0
  if d = 0 then { x with shift := x.shift + 1 }
  else
    let k := gfMul d (gfInv x.disc)
    let c := gfAdd x.c (List.replicate x.shift 0 ++ x.b.map (gfMul k))
    if 2 * x.len ≤ n then { c := c, b := x.c, len := n + 1 - x.len, shift := 1, disc := d }
    else { x with c := c, shift := x.shift + 1 }

/-- A received codeword decoded: its symbols corrected, and where; none where more than 15 are wrong. -/
def rsDecode (w : List Nat) : Option (List Nat × List Nat) :=
  if rsCheck (w.take 514) = w.drop 514 then some (w, [])
  else
    let rem := (List.range 30).map (fun i => (rsCheck (w.take 514)).getD (29 - i) 0 ^^^ w.getD (543 - i) 0)
    let syn := (List.range 30).map (fun j => gfEval rem (gfPow 2 j))
    let x := (List.range 30).foldl (RsSearch.step syn) { c := [1], b := [1], len := 0, shift := 1, disc := 1 }
    let omega := (List.range 30).map (fun i => (List.range (i + 1)).foldl (fun a j => a ^^^ gfMul (x.c.getD j 0) (syn.getD (i - j) 0)) 0)
    let deriv := (List.range 15).flatMap (fun i => [x.c.getD (2 * i + 1) 0, 0])
    let at_ := (List.range 544).filter (fun i => gfEval x.c (gfPow 2 (480 + i)) == 0)
    if x.len ≤ 15 ∧ at_.length = x.len then
      let w' := (List.range 544).map (fun i =>
        if at_.contains i then
          let y := gfPow 2 (480 + i)
          w.getD i 0 ^^^ gfMul (gfInv y) (gfMul (gfEval omega y) (gfInv (gfEval deriv y)))
        else w.getD i 0)
      if rsCheck (w'.take 514) = w'.drop 514 then some (w', at_) else none
    else none

/-! ### The scrambler x^58 + x^39 + 1 (R378): each block's payload begins from state 0 (log 91) -/

/-- The payload bits of a block, the first in bit 0, scrambled, and back. -/
def fecScramble (x : Nat) : Nat :=
  (List.range 9).foldl (fun a k => (a ^^^ (a <<< (39 * 2 ^ k)) ^^^ (a <<< (58 * 2 ^ k))) % 2 ^ 10280) x
def fecDescramble (x : Nat) : Nat := (x ^^^ (x <<< 39) ^^^ (x <<< 58)) % 2 ^ 10280

/-! ### Blocks (R379, R380) -/

/-- `n` symbols of 10 bits of a number, the lowest first, and the number of symbols. -/
def symsOf : Nat → Nat → List Nat
  | 0, _ => []
  | n + 1, x => x % 2 ^ 10 :: symsOf n (x / 2 ^ 10)
def ofSyms : List Nat → Nat
  | [] => 0
  | a :: t => a + 2 ^ 10 * ofSyms t

/-- The elements of a list at even places, and two lists put together again. -/
def evens {α : Type} : List α → List α
  | a :: _ :: t => a :: evens t
  | l => l
def weave {α : Type} : List α → List α → List α
  | a :: s, b :: t => a :: b :: weave s t
  | _, _ => []

/-- The 1,088 symbols of a block: the 40-bit header and five flits, scrambled, with the check symbols of both codewords; even symbols are
codeword A's. -/
def fecSymbols (hdr : Nat) (flits : List (List Byte)) : List Nat :=
  let m := symsOf 1028 (fecScramble (hdr % 2 ^ 40 + 2 ^ 40 * leVal (padTo 1280 flits.flatten)))
  m ++ weave (rsCheck (evens m)) (rsCheck (evens (m.drop 1)))

/-- The pairs of a list at every w-th place, and as many lists put together by pairs in turn; the first number bounds the pairs. -/
def fecPick {α : Type} (w : Nat) : Nat → List α → List α
  | 0, _ => []
  | n + 1, l => l.take 2 ++ fecPick w n (l.drop (2 * w))
def fecTurn {α : Type} : Nat → List (List α) → List α
  | 0, _ => []
  | n + 1, ls => ls.flatMap (List.take 2) ++ fecTurn n (ls.map (List.drop 2))

/-- Symbol i of a block goes on lane ⌊i/2⌋ mod W. -/
def fecLanes (w : Nat) (sym : List Nat) : List (List (BitVec 10)) :=
  (List.range w).map (fun l => (fecPick w (544 / w) (sym.drop (2 * l))).map (BitVec.ofNat 10))

/-- The symbols of a block from what its lanes brought; none where the lanes did not bring one block. -/
def fecGather (w : Nat) (lanes : List (List (BitVec 10))) : Option (List Nat) :=
  if w = 0 ∨ lanes.length ≠ w ∨ lanes.any (fun l => l.length != 1088 / w) then none
  else some ((fecTurn (544 / w) lanes).map BitVec.toNat)

/-- What the decoder gives of a block: the header, the flits, and the corrected symbols; none where a codeword cannot be corrected. -/
structure FecBlock where
  hdr : Nat
  flits : List (List Byte)
  corrected : Nat
  deriving DecidableEq, Repr

def fecDecode (w : Nat) (lanes : List (List (BitVec 10))) : Option FecBlock :=
  match fecGather w lanes with
  | none => none
  | some sym =>
    match rsDecode (evens sym), rsDecode (evens (sym.drop 1)) with
    | some (a, ea), some (b, eb) =>
      let d := fecDescramble (ofSyms (weave (a.take 514) (b.take 514)))
      some { hdr := d % 2 ^ 40, flits := (List.range 5).map (fun i => leBytes 256 (d / 2 ^ (40 + 2048 * i))),
             corrected := ea.length + eb.length }
    | _, _ => none

end Sys2Proof.Machine
end

