-- ==== Sys2Proof/Machine/Ids.lean ====
section
/-! DEFINITION. Tile, quad and stack numbers and ordinals (R4 to R8), and unit codes (R472). -/

namespace Sys2Proof.Machine

/-- The 10-bit tile ID (R4). -/
def tileNum (t : TileId) : Nat := t.die.val * 256 + t.field.val * 64 + t.row.val * 8 + t.col.val

/-- The tile of a 10-bit ID; none for field 3 and rows 6 and 7 (R4). -/
def tileOf? (n : Nat) : Option TileId :=
  let f := bitsOf n 6 2
  let r := bitsOf n 3 3
  if h : f < 3 ∧ r < 6 ∧ n < 1024 then
    some { die := Fin.ofNat 4 (bitsOf n 8 2), field := ⟨f, h.1⟩, row := ⟨r, h.2.1⟩, col := Fin.ofNat 8 n }
  else none

/-- The tile ordinal (R8), 0 to 575. -/
def tileOrd (t : TileId) : Nat := t.die.val * 144 + t.field.val * 48 + t.row.val * 8 + t.col.val

/-- The tile of an ordinal. -/
def tileOfOrd? (n : Nat) : Option TileId :=
  if n < 576 then
    some { die := Fin.ofNat 4 (n / 144), field := Fin.ofNat 3 (n % 144 / 48), row := Fin.ofNat 6 (n % 48 / 8),
           col := Fin.ofNat 8 n }
  else none

/-- The 8-bit quad ID (R5). -/
def quadNum (q : QuadId) : Nat := q.die.val * 64 + q.field.val * 16 + q.qrow.val * 4 + q.qcol.val

/-- The quad of an 8-bit ID; none for field 3 and quad row 3 (R5). -/
def quadOf? (n : Nat) : Option QuadId :=
  let f := bitsOf n 4 2
  let r := bitsOf n 2 2
  if h : f < 3 ∧ r < 3 ∧ n < 256 then
    some { die := Fin.ofNat 4 (bitsOf n 6 2), field := ⟨f, h.1⟩, qrow := ⟨r, h.2.1⟩, qcol := Fin.ofNat 4 n }
  else none

/-- The quad ordinal (R8), 0 to 143. -/
def quadOrd (q : QuadId) : Nat := q.die.val * 36 + q.field.val * 12 + q.qrow.val * 4 + q.qcol.val

/-- The quad of an ordinal. -/
def quadOfOrd? (n : Nat) : Option QuadId :=
  if n < 144 then
    some { die := Fin.ofNat 4 (n / 36), field := Fin.ofNat 3 (n % 36 / 12), qrow := Fin.ofNat 3 (n % 12 / 4),
           qcol := Fin.ofNat 4 n }
  else none

/-- The quad a tile belongs to (R5). -/
def quadOfTile (t : TileId) : QuadId :=
  { die := t.die, field := t.field, qrow := Fin.ofNat 3 (t.row.val / 2), qcol := Fin.ofNat 4 (t.col.val / 2) }

/-- The quad tile index of a tile (R117). -/
def quadIdx (t : TileId) : Nat := (t.row.val % 2) * 2 + t.col.val % 2

/-- The tile of a quad with a quad tile index. -/
def quadTile (q : QuadId) (i : Fin 4) : TileId :=
  { die := q.die, field := q.field, row := Fin.ofNat 6 (q.qrow.val * 2 + i.val / 2),
    col := Fin.ofNat 8 (q.qcol.val * 2 + i.val % 2) }

/-- The four tiles of a quad, by quad tile index. -/
def quadTiles (q : QuadId) : List TileId := [quadTile q 0, quadTile q 1, quadTile q 2, quadTile q 3]

/-- The stack over a field of a die (R6). -/
def stackOf (d : DieId) (f : Fin 3) : StackId := Fin.ofNat 12 (d.val * 3 + f.val)

/-- The compute die under a stack (R6). -/
def stackDie (s : StackId) : DieId := Fin.ofNat 4 (s.val / 3)

/-- Every tile of the device, by ordinal. -/
def allTiles : List TileId := (List.range 576).filterMap tileOfOrd?

/-- Every quad of the device, by ordinal. -/
def allQuads : List QuadId := (List.range 144).filterMap quadOfOrd?

/-- The tiles of the dies whose bits are set in a partition mask (R61). -/
def tilesOf (dies : Nat) : List TileId := allTiles.filter (fun t => dies.testBit t.die.val)

/-- The unit code of a journal record (R472): kind in bits [15:12], index in bits [11:0]. -/
def unitCode : UnitId → Nat
  | .none => 0
  | .stack s => 0x1000 + s.val
  | .port p => 0x2000 + p.val
  | .quad q => 0x3000 + quadOrd q
  | .tile t => 0x4000 + tileOrd t
  | .bridge b => 0x5000 + b.val
  | .host => 0x6000
  | .die d => 0x7000 + d.val
  | .job j => 0x8000 + j.val

/-- The unit of a code, if it names one. -/
def unitOf? (n : Nat) : Option UnitId :=
  let k := bitsOf n 12 4
  let i := bitsOf n 0 12
  if k = 0 then (if i = 0 then some .none else Option.none)
  else if k = 1 then (if i < 12 then some (.stack (Fin.ofNat 12 i)) else Option.none)
  else if k = 2 then (if i < 16 then some (.port (Fin.ofNat 16 i)) else Option.none)
  else if k = 3 then (quadOfOrd? i).map .quad
  else if k = 4 then (tileOfOrd? i).map .tile
  else if k = 5 then (if i < 4 then some (.bridge (Fin.ofNat 4 i)) else Option.none)
  else if k = 6 then (if i = 0 then some .host else Option.none)
  else if k = 7 then (if i < 4 then some (.die (Fin.ofNat 4 i)) else Option.none)
  else if k = 8 then (if i < 4 then some (.job (Fin.ofNat 4 i)) else Option.none)
  else Option.none

end Sys2Proof.Machine
end

