-- ==== Sys2Proof/Machine/Regs.lean ====
section
/-! DEFINITION. The register file: cold-reset values, fields with their access codes and ranges (R11 to R13), and the
addresses of the register blocks (R562 to R565). -/

namespace Sys2Proof.Machine

/-! ### Reset values -/

/-- The cold-reset value of a tile register (R109, R110, R179, R558; all others 0). -/
def TileReg.reset : TileReg → Word
  | .cutcfg => BitVec.ofNat 64 (0x1000 + 0x400 * 2 ^ 32)
  | .gthcfg => 0x400
  | .patcfg => BitVec.ofNat 64 (1 + 10 * 2 + 0xF * 2 ^ 8)
  | _ => 0

/-- The cold-reset value of a dealer register (R144). -/
def QuadReg.reset : QuadReg → Word
  | .dlrcfg => BitVec.ofNat 64 (0x40 + 2 ^ 12 + 2 ^ 13)
  | _ => 0

/-- The cold-reset value of a stack controller register (R372). -/
def StackReg.reset : StackReg → Word
  | .stkcfg => BitVec.ofNat 64 (24 + 8 * 2 ^ 8)
  | _ => 0

/-- The cold-reset value of ANTECFG of a request channel, and of a response channel (R405). -/
def anteReset (response : Bool) : Word :=
  if response then BitVec.ofNat 64 (2304 + 384 * 2 ^ 15 + 384 * 2 ^ 30)
  else BitVec.ofNat 64 (2048 + 384 * 2 ^ 15 + 384 * 2 ^ 30 + 256 * 2 ^ 45)

/-- The cold-reset value of a port register (R405). -/
def PortReg.reset : PortReg → Word
  | .portcfg => 1
  | .portstat => BitVec.ofNat 64 (3 * 2 ^ 3)
  | .antecfg0 | .antecfg2 | .antecfg4 | .antecfg6 => anteReset false
  | .antecfg1 | .antecfg3 | .antecfg5 | .antecfg7 => anteReset true
  | .routecfg => 3
  | .timecfg => BitVec.ofNat 64 (1000 * 2 ^ 5)
  | _ => 0

/-- The cold-reset value of a host port register (R429). -/
def HostReg.reset : HostReg → Word
  | .hpcfg => BitVec.ofNat 64 (1 + 2 ^ 3 + 9216 * 2 ^ 4)
  | .htcfg => BitVec.ofNat 64 (0xB7C0 + 1000 * 2 ^ 32 + 100 * 2 ^ 48 + 12 * 2 ^ 56)
  | .priomap => BitVec.ofNat 64 (0x2EE + 0xF * 2 ^ 12)
  | .cccfg => BitVec.ofNat 64 (10000 + 12 * 2 ^ 20 + 64 * 2 ^ 27 + 10 * 2 ^ 35)
  | _ => 0

/-- The cold-reset value of a die register (R335). -/
def DieReg.reset : DieReg → Word
  | .sigtimeo => BitVec.ofNat 64 (100000 + 1000 * 2 ^ 32)
  | _ => 0

/-- The cold-reset value of a steward register (R15, R496, R523). -/
def StewReg.reset : StewReg → Word
  | .ident => 0x000101B10004CE15
  | .thrcfg => BitVec.ofNat 64 (2 ^ 2 + 2 ^ 3)
  | .pwrcap => 4400
  | .cpcfg => 0xFF
  | _ => 0

/-- The cold-reset value of a register. -/
def Reg.reset : Reg → Word
  | .tile _ r => r.reset
  | .quad _ r => r.reset
  | .stack _ r => r.reset
  | .port _ r => r.reset
  | .host r => r.reset
  | .die _ r => r.reset
  | .emb _ => 0
  | .stew r => r.reset

/-! ### Reading and setting whole registers -/

/-- The value of a register. -/
def State.reg (s : State) (r : Reg) : Word := (Tab.find? s.regs r).getD r.reset

/-- The state with a register set. -/
def State.setReg (s : State) (r : Reg) (w : Word) : State := { s with regs := Tab.set s.regs r w }

/-- The state with a register replaced by a function of it. -/
def State.modReg (s : State) (r : Reg) (f : Word → Word) : State := s.setReg r (f (s.reg r))

/-- A register of a tile, a dealer, a die, a port, a stack, the host block and the steward block. -/
def State.tileReg (s : State) (t : TileId) (r : TileReg) : Word := s.reg (.tile t r)
def State.quadReg (s : State) (q : QuadId) (r : QuadReg) : Word := s.reg (.quad q r)
def State.dieReg (s : State) (d : DieId) (r : DieReg) : Word := s.reg (.die d r)
def State.portReg (s : State) (p : PortId) (r : PortReg) : Word := s.reg (.port p r)
def State.stackReg (s : State) (k : StackId) (r : StackReg) : Word := s.reg (.stack k r)
def State.hostReg (s : State) (r : HostReg) : Word := s.reg (.host r)
def State.stewReg (s : State) (r : StewReg) : Word := s.reg (.stew r)

/-- A counter of a tile raised by `k`, in the whole word. -/
def State.bump (s : State) (t : TileId) (r : TileReg) (k : Nat := 1) : State :=
  s.modReg (.tile t r) (fun w => w + BitVec.ofNat 64 k)

/-- The low or high half of a register raised by `k`, wrapping within the half. -/
def State.bumpLo (s : State) (r : Reg) (k : Nat := 1) : State := s.modReg r (fun w => Word.addBits w 0 32 k)
def State.bumpHi (s : State) (r : Reg) (k : Nat := 1) : State := s.modReg r (fun w => Word.addBits w 32 32 k)

/-! ### Fields and access codes (R11 to R13) -/

/-- The access codes of R13; a bit no field lists is read-only. -/
inductive Access where
  | rw | w1c | rwl | wo
  deriving DecidableEq, Repr

/-- A writable field: lowest bit, width, access code, and the values it accepts (R12). -/
structure FieldSpec where
  lo : Nat
  n : Nat
  acc : Access
  ok : Nat → Bool

/-- A field that accepts every value. -/
def fld (lo n : Nat) (acc : Access) : FieldSpec := { lo := lo, n := n, acc := acc, ok := fun _ => true }
/-- A field with a range. -/
def fldIn (lo n : Nat) (acc : Access) (a b : Nat) : FieldSpec :=
  { lo := lo, n := n, acc := acc, ok := fun v => decide (a ≤ v ∧ v ≤ b) }

/-- The writable fields of the tile registers (R109 to R111, R145, R179, R369, R558, R62). -/
def TileReg.fields : TileReg → List FieldSpec
  | .meldcfg => [fldIn 0 7 .rwl 0 64, fld 8 12 .rwl, fld 20 12 .rwl, fld 32 12 .rwl]
  | .cutcfg => [{ lo := 0, n := 32, acc := .rwl, ok := fun v => v == 0 || 256 ≤ v },
                { lo := 32, n := 16, acc := .rwl, ok := fun v => v == 0 || 64 ≤ v }]
  | .tasktab => [fld 3 45 .rwl]
  | .kittybase => [fld 12 36 .rwl]
  | .kittysize => [fld 0 32 .rwl]
  | .meldjob => [fld 0 1 .rwl]
  | .gthcfg => [fldIn 0 11 .rwl 1 1024]
  | .kstage => [fld 0 12 .rwl, { lo := 12, n := 12, acc := .rwl, ok := fun v => v == 0 || (16 ≤ v && v ≤ 3072) }]
  | .mjob => [fld 0 3 .rw, fld 8 12 .rw]
  | .jptbase => [fld 21 27 .rw, fld 63 1 .rw]
  | .dlrsave => [fld 0 12 .rwl, fldIn 12 6 .rwl 0 32, fldIn 18 4 .rwl 0 8]
  | .patcfg => [fld 0 1 .rw, fldIn 1 7 .rw 1 100, fld 8 4 .rw]
  | _ => []

/-- The writable fields of the dealer registers (R144). -/
def QuadReg.fields : QuadReg → List FieldSpec
  | .dlrcfg => [fld 0 12 .rw, fld 12 1 .rwl, fld 13 1 .rwl]
  | _ => []

/-- The writable fields of the stack controller registers (R372, R373). -/
def StackReg.fields : StackReg → List FieldSpec
  | .stkcfg => [fldIn 0 8 .rw 1 168, fld 8 5 .rw]
  | .lockcfg => [{ lo := 0, n := 16, acc := .rw, ok := fun v => decide (popBits 16 v ≤ 12) }, fld 16 32 .rw]
  | .ecclog => [fld 47 1 .w1c]
  | .rngbase => [fld 7 41 .rw]
  | .rnglen => [fld 7 34 .rw]
  | .rngcmd => [fld 0 2 .rw, fld 2 1 .rw, fld 3 16 .rw, fld 19 2 .rw, fld 63 1 .wo]
  | .rngstat => [fld 1 1 .w1c]
  | _ => []

/-- The writable fields of ANTECFG (R405). -/
def anteFields : List FieldSpec :=
  [fld 0 15 .rwl, fldIn 15 15 .rwl 20 32767, fldIn 30 15 .rwl 20 32767, fld 45 15 .rwl]

/-- The writable fields of the port registers (R398, R405). -/
def PortReg.fields : PortReg → List FieldSpec
  | .portcfg => [fld 0 1 .rw, fldIn 1 2 .rw 0 2, fld 3 3 .rw, fld 6 1 .rw]
  | .antecfg0 | .antecfg1 | .antecfg2 | .antecfg3 | .antecfg4 | .antecfg5 | .antecfg6 | .antecfg7 => anteFields
  | .routecfg => [fld 0 4 .rw]
  | .timecfg => [fld 0 4 .rw, fld 4 1 .rw, fldIn 5 20 .rw 10 1000000]
  | .route _ => [fld 0 22 .rw]
  | _ => []

/-- The writable fields of the host block (R428, R429). -/
def HostReg.fields : HostReg → List FieldSpec
  | .hpcfg => [fld 0 1 .rw, fldIn 1 2 .rw 0 1, fld 3 1 .rw, fldIn 4 14 .rw 1518 9216]
  | .htcfg => [fld 0 16 .rw, fld 16 1 .rw, fld 17 12 .rw, fldIn 32 16 .rw 1 65535, fldIn 48 8 .rw 10 255,
               fldIn 56 4 .rw 1 15]
  | .priomap => [fld 0 12 .rw, fld 12 4 .rw, fld 16 24 .rw]
  | .cccfg => [fld 0 20 .rw, fldIn 20 7 .rw 1 97, fld 27 8 .rw, fld 35 8 .rw]
  | .macaddr => [fld 0 48 .rw]
  | .ipv4addr => [fld 0 32 .rw]
  | .ipv6addr0 | .ipv6addr1 => [fld 0 64 .rw]
  | _ => []

/-- The writable fields of the die registers (R38, R335, R364, R307). -/
def DieReg.fields : DieReg → List FieldSpec
  | .sigtimeo => [fldIn 0 26 .rwl 1000 60000000, fldIn 32 20 .rwl 10 1000000]
  | .grant _ _ => [fld 0 64 .rw]
  | .spill _ i =>
    if i = 0 then [fld 0 14 .rw, fld 63 1 .rw] else if i = 1 then [fld 21 27 .rw]
    else if i = 2 then [fldIn 0 17 .rw 0 98304] else []
  | .vid _ _ => [fld 0 19 .rw]
  | _ => []

/-- The writable fields of the embedding table unit (R298). -/
def EmbReg.fields : EmbReg → List FieldSpec
  | .etabdir0 | .etabdir1 | .etabdir2 | .etabdir3 => [fld 6 42 .rwl, fld 48 8 .rwl, fld 63 1 .rwl]
  | _ => []

/-- The writable fields of the steward block (R478, R496, R523, R567). -/
def StewReg.fields : StewReg → List FieldSpec
  | .jsel => [fld 0 32 .rw]
  | .rstreq => [fld 0 1 .wo]
  | .thrcfg => [fldIn 0 2 .rw 0 2, fld 2 1 .rw, fld 3 1 .rw]
  | .pwrcap => [fldIn 0 13 .rw 1000 4400]
  | .timesteer => [{ lo := 0, n := 16, acc := .rw, ok := fun v => decide ((signed 16 v).natAbs ≤ 655) }]
  | .timeset => [fld 0 64 .wo]
  | .timestat => [fld 3 1 .w1c]
  | .cpcfg => [fld 0 8 .rw]
  | .mbcmd _ => [fld 0 8 .rw, fld 63 1 .wo]
  | .mbstat _ => [fld 1 1 .w1c]
  | .mbdata _ _ => [fld 0 64 .rw]
  | _ => []

/-- The writable fields of a register. -/
def Reg.fields : Reg → List FieldSpec
  | .tile _ r => r.fields
  | .quad _ r => r.fields
  | .stack _ r => r.fields
  | .port _ r => r.fields
  | .host r => r.fields
  | .die _ r => r.fields
  | .emb r => r.fields
  | .stew r => r.fields

/-- One field of a write of `new` under the bit mask `mask`: the covered bits take the written value under the access
code, and the value so formed is judged as a whole (R12, R573). -/
def FieldSpec.write (f : FieldSpec) (locked : Bool) (old new : Word) (mask : Nat) : Word :=
  let m := bitsOf mask f.lo f.n
  let o := Word.bits old f.lo f.n
  let v := (Word.bits new f.lo f.n &&& m) ||| (o &&& (2 ^ f.n - 1 - m))
  match f.acc with
  | .wo => old
  | .w1c => Word.setBits old f.lo f.n (o - (o &&& (Word.bits new f.lo f.n &&& m)))
  | .rw => if f.ok v then Word.setBits old f.lo f.n v else old
  | .rwl => if !locked && f.ok v then Word.setBits old f.lo f.n v else old

/-- A register write: every field under its own access code (R13); bits of no field are ignored (R11). -/
def fieldsWrite (fs : List FieldSpec) (locked : Bool) (old new : Word) (mask : Nat := 2 ^ 64 - 1) : Word :=
  fs.foldl (fun w f => f.write locked w new mask) old

/-! ### Locks (R108, R143, R298, R335, R405) -/

/-- Whether the RW-L fields of a die's blocks are locked: a job whose partition holds the die has started (R438). -/
def State.dieLocked (s : State) (d : DieId) : Bool :=
  s.jobs.any (fun p => p.2.locked && p.2.dies.testBit d.val)

/-- Whether a register's RW-L fields are locked. -/
def State.regLocked (s : State) : Reg → Bool
  | .tile t _ => s.dieLocked t.die
  | .quad q _ => s.dieLocked q.die
  | .die d _ => s.dieLocked d
  | .emb .etabdir0 => (Tab.get Job.reset s.jobs 0).locked
  | .emb .etabdir1 => (Tab.get Job.reset s.jobs 1).locked
  | .emb .etabdir2 => (Tab.get Job.reset s.jobs 2).locked
  | .emb .etabdir3 => (Tab.get Job.reset s.jobs 3).locked
  | .port p _ => let st := Word.bits (s.portReg p .portstat) 0 3; decide (st ≠ 0 ∧ st ≠ 1)
  | _ => false

/-- The sum of the ante pools of a port, over its eight ANTECFG registers (R405). -/
def State.anteSum (s : State) (p : PortId) : Nat :=
  ([.antecfg0, .antecfg1, .antecfg2, .antecfg3, .antecfg4, .antecfg5, .antecfg6, .antecfg7] : List PortReg).foldl
    (fun a r => let w := s.portReg p r
                a + Word.bits w 0 15 + Word.bits w 15 15 + Word.bits w 30 15 + Word.bits w 45 15) 0

/-- Whether a register is one of the ANTECFG registers of a port. -/
def PortReg.isAnte : PortReg → Bool
  | .antecfg0 | .antecfg1 | .antecfg2 | .antecfg3 | .antecfg4 | .antecfg5 | .antecfg6 | .antecfg7 => true
  | _ => false

/-- A write of the bits `mask` of a register under its access codes (R13); an ANTECFG value that takes the port above
24,576 antes is a reserved encoding (R405). -/
def State.writeReg (s : State) (r : Reg) (new : Word) (mask : Nat := 2 ^ 64 - 1) : State :=
  let s' := s.setReg r (fieldsWrite r.fields (s.regLocked r) (s.reg r) new mask)
  match r with
  | .port p pr => if pr.isAnte && 24576 < s'.anteSum p then s else s'
  | _ => s'

/-- Whether a control core's store acts on a register. The others are those that a chapter says the steward firmware
writes, and a store to them is ignored (R566). -/
def Reg.coreWritable : Reg → Bool
  | .quad _ .dlrcfg => true
  | .stack _ .lockcfg => false
  | .stack _ _ => true
  | .stew (.mbcmd _) | .stew (.mbstat _) | .stew (.mbdata _ _) => true
  | .stew .jsel | .stew .timestat => true
  | _ => false

/-! ### Addresses of the register blocks (R562 to R565) -/

/-- Register words that show other state: the dealer's and engines' views, signal cells, the journal window, FOLDMAP,
the security block and connection records; `dlrclr` is the write-only register of R143. -/
inductive View where
  | dlrclr (q : QuadId)
  | ddepth (t : TileId)
  | dctx (t : TileId)
  | ctxstate (t : TileId) (w : Fin 2)
  | hist (q : QuadId) (s : Fin 4) (pair : Fin 8)
  | gstream (t : TileId) (n : Fin 64)
  | vstat (t : TileId) (v : Fin 4)
  | mxacc (t : TileId) (v : Fin 4) (a : Fin 4)
  | cell (d : DieId) (n : Fin 65536) (w : Fin 4)
  | jdata (w : Fin 4)
  | foldmap (w : Fin 9)
  | identity (w : Fin 6)
  | mr (k : Fin 8) (w : Fin 6)
  | conn (c : Fin 1024) (w : Fin 4)
  | bcast (r : StackReg)
  | epochs (j : Fin 4) (w : Fin 32)
  deriving DecidableEq, Repr

/-- What an 8-byte word of register space holds: a register, a view, or nothing (reads 0, ignores writes, R342). -/
inductive Loc where
  | reg (r : Reg)
  | view (v : View)
  | hole
  deriving DecidableEq, Repr

/-- The CSR-mirrored registers of a tile from a list, by index. -/
def regAtIdx {α : Type} (l : List α) (i : Nat) (f : α → Reg) : Loc :=
  match l[i]? with
  | some r => .reg (f r)
  | none => .hole

/-- The word at an offset of a tile block (R563). -/
def tileLoc (t : TileId) (off : Nat) : Loc :=
  let i := off / 8
  if off < 0x100 then regAtIdx [.meldcfg, .cutcfg, .tasktab, .kittybase, .kittysize, .meldjob] i (.tile t)
  else if off < 0x1000 then
    regAtIdx [.meldocc, .potocc, .kittydepth, .tokin, .tokout, .fires, .prearm, .cuts, .kdiv, .evict, .potsat, .potnan,
      .kearly, .drops] ((off - 0x100) / 8) (.tile t)
  else if off < 0x10000 then .hole
  else if off < 0x10100 then regAtIdx [.gthcfg] ((off - 0x10000) / 8) (.tile t)
  else if off < 0x10200 then
    regAtIdx [.gedges, .grows, .gskip, .gsquash, .gedrop, .gisect, .gout] ((off - 0x10100) / 8) (.tile t)
  else if off < 0x10400 then .view (.gstream t (Fin.ofNat 64 ((off - 0x10200) / 8)))
  else if off < 0x20000 then .hole
  else if off < 0x20100 then regAtIdx [.vinstr, .vbusy, .vlane] ((off - 0x20000) / 8) (.tile t)
  else if off < 0x20120 then .view (.vstat t (Fin.ofNat 4 ((off - 0x20100) / 8)))
  else if off < 0x30000 then .hole
  else if off < 0x30100 then regAtIdx [.mxpass, .mxbusy, .mxskip, .mxcpass, .mxra] ((off - 0x30000) / 8) (.tile t)
  else if off < 0x30180 then
    .view (.mxacc t (Fin.ofNat 4 ((off - 0x30100) / 32)) (Fin.ofNat 4 ((off - 0x30100) / 8)))
  else if off < 0x40000 then .hole
  else if off < 0x50000 then regAtIdx [.epirun, .rowstat, .xform, .xqsat] ((off - 0x40000) / 8) (.tile t)
  else if off < 0x50100 then regAtIdx [.kstage, .sramecc, .mjob, .jptbase] ((off - 0x50000) / 8) (.tile t)
  else if off < 0x50138 then
    regAtIdx [.sigout, .waits, .wakes, .tgate, .xfers, .saudit, .barr] ((off - 0x50100) / 8) (.tile t)
  else if off < 0x50140 then .hole
  else if off < 0x60000 then regAtIdx [.elook, .embdrop, .emptybag, .erephit] ((off - 0x50140) / 8) (.tile t)
  else if off < 0x70000 then regAtIdx [.patcfg, .patstat, .patcnt, .patfail] ((off - 0x60000) / 8) (.tile t)
  else .hole

/-- The word at an offset of a dealer block (R143). -/
def quadLoc (q : QuadId) (off : Nat) : Loc :=
  let i := off / 8
  if off = 0 then .reg (.quad q .dlrcfg)
  else if off = 8 then .view (.dlrclr q)
  else if 0x40 ≤ off ∧ off < 0x60 then .reg (.tile (quadTile q (Fin.ofNat 4 i)) .dlrsave)
  else if 0x100 ≤ off ∧ off < 0x140 then
    .view (.ctxstate (quadTile q (Fin.ofNat 4 ((off - 0x100) / 16))) (Fin.ofNat 2 i))
  else if 0x200 ≤ off ∧ off < 0x300 then .view (.hist q (Fin.ofNat 4 ((off - 0x200) / 64)) (Fin.ofNat 8 i))
  else if 0x400 ≤ off ∧ off < 0x600 then
    let t := quadTile q (Fin.ofNat 4 ((off - 0x400) / 0x80))
    match (off - 0x400) % 0x80 / 8 with
    | 0 => .view (.ddepth t)
    | 1 => .reg (.tile t .ddepthmax)
    | 2 => .reg (.tile t .dbusy)
    | 3 => .reg (.tile t .ddeals)
    | 4 => .reg (.tile t .dpre)
    | 5 => .reg (.tile t .daff)
    | 6 => .view (.dctx t)
    | 7 => .reg (.tile t .dspill)
    | _ => .hole
  else if 0x600 ≤ off ∧ off < 0x640 then
    match (off - 0x600) / 8 with
    | 0 => .reg (.quad q .dsuit0)
    | 1 => .reg (.quad q .dsuit1)
    | 2 => .reg (.quad q .dsuit2)
    | 3 => .reg (.quad q .dsuit3)
    | 5 => .reg (.quad q .dguard)
    | 6 => .reg (.quad q .ddefer)
    | _ => .hole
  else .hole

/-- The register at an offset of a stack controller block (R371). -/
def stackRegAt (off : Nat) : Option StackReg :=
  match off with
  | 0x0 => some .stkcfg
  | 0x8 => some .lockcfg
  | 0x10 => some .ecclog
  | 0x18 => some .scrubpos
  | 0x10000 => some .schit
  | 0x10008 => some .scmiss
  | 0x10010 => some .scwb
  | 0x10018 => some .scvb
  | 0x10020 => some .pfstat
  | 0x10028 => some .ecccnt
  | 0x10030 => some .rngdisc
  | 0x10038 => some .farsrv
  | 0x20000 => some .rngbase
  | 0x20008 => some .rnglen
  | 0x20010 => some .rngcmd
  | 0x20018 => some .rngstat
  | _ => none

/-- The word at an offset of a port block (R404). ROUTECFG stands in the block of port 4n only, TIMECFG in that of E0. -/
def portLoc (p : PortId) (off : Nat) : Loc :=
  if 0x8000 ≤ off then .reg (.port p (.route (Fin.ofNat 4096 ((off - 0x8000) / 8))))
  else if off = 0x200 then (if p.val % 4 = 0 then .reg (.port p .routecfg) else .hole)
  else if off = 0x208 then (if p.val = 0 then .reg (.port p .timecfg) else .hole)
  else if off < 0x40 then regAtIdx [.portcfg, .portstat, .lanediag] (off / 8) (.port p)
  else if off < 0x80 then
    regAtIdx [.antecfg0, .antecfg1, .antecfg2, .antecfg3, .antecfg4, .antecfg5, .antecfg6, .antecfg7]
      ((off - 0x40) / 8) (.port p)
  else if 0x100 ≤ off ∧ off < 0x200 then
    regAtIdx [.lktx, .lkrx, .lkfec, .lkretry, .lktrain, .lkstall, .lkdrop] ((off - 0x100) / 8) (.port p)
  else .hole

/-- The word at an offset of the host block (R428). -/
def hostLoc (off : Nat) : Loc :=
  if off < 0x40 then regAtIdx [.hpcfg, .hpstat, .htcfg, .priomap, .cccfg] (off / 8) .host
  else if off < 0x60 then regAtIdx [.macaddr, .ipv4addr, .ipv6addr0, .ipv6addr1] ((off - 0x40) / 8) .host
  else if 0x100 ≤ off ∧ off < 0x1000 then
    regAtIdx [.httx, .htrx, .htfcs, .htretx, .htto, .htdrop, .htpfc, .htce] ((off - 0x100) / 8) .host
  else if 0x1000 ≤ off ∧ off < 0x9000 then
    .view (.conn (Fin.ofNat 1024 ((off - 0x1000) / 32)) (Fin.ofNat 4 ((off - 0x1000) / 8)))
  else .hole

/-- The word at an offset of a die block (R564). -/
def dieLoc (d : DieId) (off : Nat) : Loc :=
  if off < 0x200000 then .view (.cell d (Fin.ofNat 65536 (off / 32)) (Fin.ofNat 4 (off / 8)))
  else if 0x400000 ≤ off ∧ off < 0x600000 then
    .reg (.die d (.vid (Fin.ofNat 4 ((off - 0x400000) / 0x80000)) (Fin.ofNat 65536 ((off - 0x400000) / 8))))
  else if 0x800000 ≤ off ∧ off < 0x800400 then
    (if h : (off - 0x800000) % 0x100 / 8 < 24 then
      .reg (.die d (.grant (Fin.ofNat 4 ((off - 0x800000) / 0x100)) ⟨_, h⟩)) else .hole)
  else if 0x810000 ≤ off ∧ off < 0x810200 then
    .reg (.die d (.spill (Fin.ofNat 16 ((off - 0x810000) / 0x20)) (Fin.ofNat 4 (off / 8))))
  else if 0x900000 ≤ off ∧ off < 0x900100 then regAtIdx [.sigtimeo, .sigstat] ((off - 0x900000) / 8) (.die d)
  else if 0x900100 ≤ off ∧ off < 0x900200 then
    regAtIdx [.cellops, .bclose, .saudlast, .tkdead] ((off - 0x900100) / 8) (.die d)
  else if 0x900200 ≤ off ∧ off < 0x900300 then
    regAtIdx [.psocc, .psledger, .psbp, .psapply, .psstale] ((off - 0x900200) / 8) (.die d)
  else .hole

/-- The word at an offset of the embedding table unit (R298). A word of epochs shows eight 8-bit registers. -/
def embLoc (off : Nat) : Loc :=
  if off % 0x40 = 0 ∧ off < 0x100 then regAtIdx [.etabdir0, .etabdir1, .etabdir2, .etabdir3] (off / 0x40) .emb
  else if 0x100 ≤ off ∧ off < 0x500 then
    .view (.epochs (Fin.ofNat 4 ((off - 0x100) / 0x100)) (Fin.ofNat 32 (off / 8)))
  else if 0x500 ≤ off ∧ off < 0x600 then
    regAtIdx [.eserved, .efwd, .eapplied, .egskip, .erowput, .epoolbusy] ((off - 0x500) / 8) .emb
  else if off = 0x600 then .reg (.emb .embcfg)
  else .hole

/-- The word at an offset of the steward block (R565). -/
def stewLoc (off : Nat) : Loc :=
  let i := off / 8
  if off = 0 then .reg (.stew .ident)
  else if 0x100 ≤ off ∧ off < 0x138 then
    regAtIdx [.bootstat, .inv, .invq0, .invq1, .invq2, .jhead, .jsel] ((off - 0x100) / 8) .stew
  else if 0x140 ≤ off ∧ off < 0x160 then .view (.jdata (Fin.ofNat 4 i))
  else if off = 0x180 then .reg (.stew .rstreq)
  else if 0x200 ≤ off ∧ off < 0x248 then
    (if h : (off - 0x200) / 8 < 9 then .view (.foldmap ⟨_, h⟩) else .hole)
  else if 0x300 ≤ off ∧ off < 0x338 then
    regAtIdx [.clkstat, .thrcfg, .pwrcap, .pwrstat, .tempstat, .thrtime, .threng] ((off - 0x300) / 8) .stew
  else if 0x340 ≤ off ∧ off < 0x358 then regAtIdx [.timesteer, .timeset, .timestat] ((off - 0x340) / 8) .stew
  else if 0x400 ≤ off ∧ off < 0x468 then
    regAtIdx [.seat, .cpstat, .cpfault, .cpcfg, .cpsense0, .cpsense1, .cpsense2, .cpsense3, .cpsense4, .cpsense5,
      .cpsense6, .cpsense7, .cpcnt] ((off - 0x400) / 8) .stew
  else if 0x500 ≤ off ∧ off < 0x510 then regAtIdx [.secstat, .svnstat] ((off - 0x500) / 8) .stew
  else if 0x540 ≤ off ∧ off < 0x570 then
    (if h : (off - 0x540) / 8 < 6 then .view (.identity ⟨_, h⟩) else .hole)
  else if 0x580 ≤ off ∧ off < 0x700 then
    (if h : (off - 0x580) % 48 / 8 < 6 then .view (.mr (Fin.ofNat 8 ((off - 0x580) / 48)) ⟨_, h⟩) else .hole)
  else if off = 0x700 then .reg (.stew .telstat)
  else if off = 0x708 then .reg (.stew .telcur)
  else if 0x800 ≤ off ∧ off < 0xA80 then
    let m : Fin 5 := Fin.ofNat 5 ((off - 0x800) / 0x80)
    let o := (off - 0x800) % 0x80
    if o = 0 then .reg (.stew (.mbcmd m)) else if o = 8 then .reg (.stew (.mbstat m))
    else if 0x40 ≤ o then .reg (.stew (.mbdata m (Fin.ofNat 8 (o / 8)))) else .hole
  else .hole

/-- Whether a tile, a quad or a stack is excluded in short deck (R469). -/
def State.tileExcl (s : State) (t : TileId) : Bool := s.excl.contains (.quad (quadOfTile t))
def State.quadExcl (s : State) (q : QuadId) : Bool := s.excl.contains (.quad q)
def State.stackExcl (s : State) (k : StackId) : Bool := s.excl.contains (.stack k)
def State.portExcl (s : State) (p : PortId) : Bool := s.excl.contains (.port p)

/-- The word of register space at an address, with some units excluded; none outside every block (R341, R562). -/
def locIn (x : List UnitId) (pa : Nat) : Option Loc :=
  let a := pa / 8 * 8
  if a < 0x030000000000 ∨ 0x030100000000 ≤ a then none
  else
    let o := a - 0x030000000000
    if o < 0x40000000 then
      match tileOf? (o / 0x100000) with
      | some t => if x.contains (.quad (quadOfTile t)) then none else some (tileLoc t (o % 0x100000))
      | none => none
    else if o < 0x50000000 then
      match quadOf? ((o - 0x40000000) / 0x10000) with
      | some q => if x.contains (.quad q) then none else some (quadLoc q (o % 0x10000))
      | none => none
    else if o < 0x50C00000 then
      let k : StackId := Fin.ofNat 12 ((o - 0x50000000) / 0x100000)
      if x.contains (.stack k) then none
      else some (match stackRegAt (o % 0x100000) with
        | some r => .reg (.stack k r)
        | none => .hole)
    else if o < 0x50D00000 then
      some (match stackRegAt (o % 0x100000) with
        | some .rngbase => .view (.bcast .rngbase)
        | some .rnglen => .view (.bcast .rnglen)
        | some .rngcmd => .view (.bcast .rngcmd)
        | some .rngstat => .view (.bcast .rngstat)
        | _ => .hole)
    else if 0x60000000 ≤ o ∧ o < 0x60100000 then
      let p : PortId := Fin.ofNat 16 ((o - 0x60000000) / 0x10000)
      if x.contains (.port p) then none else some (portLoc p (o % 0x10000))
    else if 0x70000000 ≤ o ∧ o < 0x70010000 then
      (if x.contains .host then none else some (hostLoc (o % 0x10000)))
    else if 0x80000000 ≤ o ∧ o < 0x84000000 then
      some (dieLoc (Fin.ofNat 4 ((o - 0x80000000) / 0x1000000)) (o % 0x1000000))
    else if 0x90000000 ≤ o ∧ o < 0x90010000 then some (embLoc (o % 0x10000))
    else if 0xF0000000 ≤ o ∧ o < 0xF0010000 then some (stewLoc (o % 0x10000))
    else none

/-- The word of register space at an address. -/
def State.locAt (s : State) (pa : Nat) : Option Loc := locIn s.excl pa

end Sys2Proof.Machine
end

