-- ==== Sys2Proof/Machine/SlotRec.lean ====
section
/-! DEFINITION. The 128-byte slot record of tile SRAM (R81), and the areas carved from a tile (R367). -/

namespace Sys2Proof.Machine

/-- A tile of the device. -/
def State.tile (s : State) (t : TileId) : Tile := Tab.get Tile.reset s.tiles t

/-- The state with a tile put in its place. -/
def State.setTile (s : State) (t : TileId) (T : Tile) : State := { s with tiles := Tab.set s.tiles t T }

/-- A patience slice in progress given up: something reached the tile (R551). -/
def Tile.abort (T : Tile) : Tile :=
  match T.slice with
  | some _ => { T with slice := none, aborted := T.aborted + 1 }
  | none => T

/-- The state with a tile replaced by a function of it: whatever reaches a tile aborts its patience slice (R551). -/
def State.modTile (s : State) (t : TileId) (f : Tile → Tile) : State := s.setTile t (f (s.tile t)).abort

/-- The code of a slot state (R81); an entry that is not held is FREE, 0. -/
def SlotSt.code : SlotSt → Nat
  | .armed => 1 | .preArmed => 2 | .fired => 3 | .running => 4 | .retired => 5

/-- The slot state of a code; none for FREE and for the reserved codes. -/
def slotStOf? : Nat → Option SlotSt
  | 1 => some .armed | 2 => some .preArmed | 3 => some .fired | 4 => some .running | 5 => some .retired
  | _ => none

/-- Whether an entry is a shard. -/
def Slot.isShard (e : Slot) : Bool :=
  match e.name with
  | .shard _ => true
  | .prog _ => false

/-- The HOME field of a shard: home tile, home slot name and shard index; 0 for other entries (R81). -/
def Slot.homeField (e : Slot) : Nat :=
  match e.name with
  | .shard r => tileNum r.tile + r.slot.toNat * 2 ^ 10 + r.j.val * 2 ^ 30
  | .prog _ => 0

/-- The record of a slot entry as tile SRAM shows it (R81). -/
def Slot.bytes (e : Slot) : List Byte :=
  leBytes 8 (e.st.code + e.suit.val * 2 ^ 3 + tileNum e.last * 2 ^ 5 + (e.entry % 2 ^ 16) * 2 ^ 16
    + (e.setmask % 16) * 2 ^ 32 + e.cut.toNat * 2 ^ 36 + e.isShard.toNat * 2 ^ 37 + e.sat.toNat * 2 ^ 38
    + e.nan.toNat * 2 ^ 39 + (e.km1 % 64) * 2 ^ 40)
  ++ leBytes 8 (e.expected % 2 ^ 40) ++ leBytes 8 (e.received % 2 ^ 40) ++ leBytes 8 (e.n % 2 ^ 40)
  ++ leBytes 4 e.desc ++ leBytes 4 ((e.ptr.getD 0) % 2 ^ 24) ++ leBytes 4 e.satcnt ++ leBytes 4 0
  ++ Word.bytes (Tab.get 0 e.opw 0) ++ Word.bytes (Tab.get 0 e.opw 1) ++ Word.bytes (Tab.get 0 e.opw 2)
  ++ Word.bytes (Tab.get 0 e.opw 3)
  ++ leBytes 16 e.m ++ leBytes 16 e.m2 ++ leBytes 8 e.homeField ++ leBytes 8 0

/-- A slot entry with its record replaced by given bytes: what an M-mode store into the slot area leaves. None when
STATE becomes FREE or a reserved code. A store to SHARD, to HOME, or to POTPTR of an entry without a pot changes nothing (the
model's choice, log 14). -/
def Slot.ofBytes (e : Slot) (b : List Byte) : Option Slot :=
  let w := leAt b 0 8
  (slotStOf? (bitsOf w 0 3)).map fun st =>
    { e with st := st, suit := Fin.ofNat 4 (bitsOf w 3 2), last := (tileOf? (bitsOf w 5 10)).getD e.last,
             entry := bitsOf w 16 16, setmask := bitsOf w 32 4, cut := w.testBit 36, sat := w.testBit 38,
             nan := w.testBit 39, km1 := bitsOf w 40 6, expected := leAt b 8 8 % 2 ^ 40,
             received := leAt b 16 8 % 2 ^ 40, n := leAt b 24 8 % 2 ^ 40, desc := leAt b 32 4,
             ptr := e.ptr.map (fun _ => leAt b 36 4 % 2 ^ 24), satcnt := leAt b 40 4,
             opw := [(0, BitVec.ofNat 64 (leAt b 48 8)), (1, BitVec.ofNat 64 (leAt b 56 8)),
                     (2, BitVec.ofNat 64 (leAt b 64 8)), (3, BitVec.ofNat 64 (leAt b 72 8))],
             m := leAt b 80 16, m2 := leAt b 96 16 }

/-! ### Carved areas (R99, R145, R367, R369) -/

/-- The number of slot entries of a tile (R80). -/
def State.slotCap (s : State) (t : TileId) : Nat := Word.bits (s.tileReg t .meldcfg) 0 7 * 1024
/-- The SRAM offset of the slot area. -/
def State.slotBase (s : State) (t : TileId) : Nat := Word.bits (s.tileReg t .meldcfg) 8 12 * 4096
/-- The SRAM offset and size of the pot area. -/
def State.potBase (s : State) (t : TileId) : Nat := Word.bits (s.tileReg t .meldcfg) 20 12 * 4096
def State.potSize (s : State) (t : TileId) : Nat := Word.bits (s.tileReg t .meldcfg) 32 12 * 4096
/-- The SRAM offset of the save area, its records, and its size (R135, R145). -/
def State.saveBase (s : State) (t : TileId) : Nat := Word.bits (s.tileReg t .dlrsave) 0 12 * 4096
def State.saveI (s : State) (t : TileId) : Nat := Word.bits (s.tileReg t .dlrsave) 12 6
def State.saveV (s : State) (t : TileId) : Nat := Word.bits (s.tileReg t .dlrsave) 18 4
def State.saveSize (s : State) (t : TileId) : Nat := roundUp (s.saveI t * 1024 + s.saveV t * 67584) 4096
/-- The SRAM offset and size of kitty staging (R369). -/
def State.ksBase (s : State) (t : TileId) : Nat := Word.bits (s.tileReg t .kstage) 0 12 * 4096
def State.ksSize (s : State) (t : TileId) : Nat := Word.bits (s.tileReg t .kstage) 12 12 * 4096

/-- Whether the ranges `[a, a + n)` and `[b, b + m)` meet. -/
def overlaps (a n b m : Nat) : Bool := decide (a < b + m ∧ b < a + n)

/-- Whether a range of a tile's SRAM touches an area carved from it (R367, R370). -/
def State.inCarved (s : State) (t : TileId) (off n : Nat) : Bool :=
  overlaps off n (s.slotBase t) (s.slotCap t * 128) || overlaps off n (s.potBase t) (s.potSize t)
  || overlaps off n (s.saveBase t) (s.saveSize t) || overlaps off n (s.ksBase t) (s.ksSize t)

/-- Whether a buffer fits in the scratchpad: inside 12 MiB and clear of the carved areas (R154, R224, R279). -/
def State.inScratch (s : State) (t : TileId) (off n : Nat) : Bool :=
  decide (off + n ≤ 0xC00000) && !s.inCarved t off n

end Sys2Proof.Machine
end

