-- ==== Sys2Proof/Machine/Mem.lean ====
section
/-! DEFINITION. Memory: the canonical list of bytes, DRAM and tile SRAM behind it (R340), the slot records that tile SRAM
shows, poison (R348), and the loss of reservations on writes (R30). -/

namespace Sys2Proof.Machine

/-! ### The address map (R340, R341) -/

/-- What a local physical address names. -/
inductive Target where
  | dram
  | sram (t : TileId) (off : Nat)
  | reg (l : Loc)
  | unmapped
  deriving DecidableEq, Repr

/-- The working stacks in ascending number, with some units excluded (R345, R346), and the top of DRAM over them (R346). -/
def stacksIn (x : List UnitId) : List StackId := (List.finRange 12).filter (fun k => !x.contains (.stack k))
def dramTopIn (x : List UnitId) : Nat := (stacksIn x).length * 0x2000000000

/-- The working stacks, and the top of DRAM. -/
def State.stacks (s : State) : List StackId := stacksIn s.excl
def State.dramTop (s : State) : Nat := dramTopIn s.excl

/-- What an address names, with some units excluded (R340, R341). -/
def targetIn (x : List UnitId) (pa : Nat) : Target :=
  if pa < dramTopIn x then .dram
  else if 0x020000000000 ≤ pa ∧ pa < 0x020400000000 then
    match tileOf? ((pa - 0x020000000000) / 0x1000000) with
    | some t => if x.contains (.quad (quadOfTile t)) ∨ 0xC00000 ≤ pa % 0x1000000 then .unmapped else .sram t (pa % 0x1000000)
    | none => .unmapped
  else match locIn x pa with
    | some l => .reg l
    | none => .unmapped

/-- What an address names. -/
def State.target (s : State) (pa : Nat) : Target := targetIn s.excl pa

/-- The physical address of a byte of a tile's SRAM. -/
def sramPa (t : TileId) (off : Nat) : Nat := 0x020000000000 + tileNum t * 0x1000000 + off

/-- The placement of a DRAM address: stack, stack offset, slice and set (R345). -/
structure DramPlace where
  stack : StackId
  off : Nat
  slice : Nat
  set : Nat
  deriving DecidableEq, Repr

/-- The interleave (R345). -/
def State.place (s : State) (pa : Nat) : DramPlace :=
  let w := s.stacks
  let m := w.length
  let g := pa / 4096
  let q := g / m
  let h := (q % 2 ^ 32) * 0x9E3779B1 % 2 ^ 32
  let k := (g % m + (h / 65536) % m) % m
  { stack := w.getD k 0, off := q * 4096 + pa % 4096, slice := (q ^^^ (q / 4) ^^^ (q / 16)) % 4,
    set := (q / 4 % 256) * 32 + pa / 128 % 32 }

/-! ### Bytes of memory -/

/-- The slot entry whose record covers an offset of a tile's SRAM (R81), by entry number. -/
def State.slotAt (s : State) (t : TileId) (off : Nat) : Option Nat :=
  let b := s.slotBase t
  if b ≤ off ∧ off < b + s.slotCap t * 128 then some ((off - b) / 128) else none

/-- The byte at a local physical address of DRAM or a tile window, given what the address names. -/
def State.byteAt (s : State) (x : Target) (pa : Nat) : Byte :=
  match x with
  | .sram t off =>
    match s.slotAt t off with
    | some i => match Tab.find? (s.tile t).slots i with
      | some e => e.bytes.getD ((off - s.slotBase t) % 128) 0
      | none => 0
    | none => Mem.get s.mem pa
  | _ => Mem.get s.mem pa

/-- The byte at a local physical address of DRAM or a tile window. -/
def State.byte (s : State) (pa : Nat) : Byte := s.byteAt (s.target pa) pa

/-- `n` bytes from an address. -/
def State.bytes (s : State) (pa n : Nat) : List Byte := (List.range n).map (fun i => s.byte (pa + i))

/-- The little-endian number of `n` bytes at an address. -/
def State.num (s : State) (pa n : Nat) : Nat := leVal (s.bytes pa n)

/-- A tile without the reservations of its contexts on local granules in `[lo, hi)` (R30). -/
def Tile.loseResv (T : Tile) (lo hi : Nat) : Tile :=
  { T with ctxs := T.ctxs.map fun p =>
      match p.2.resv with
      | some (none, g) => if lo ≤ g ∧ g < hi then (p.1, { p.2 with resv := none }) else p
      | _ => p }

/-- The state after a write to `[pa, pa + n)` has taken the reservations on those granules (R30, R390). -/
def State.loseResv (s : State) (pa n : Nat) : State :=
  let lo := pa / 64
  let hi := (pa + n + 63) / 64
  { s with tiles := s.tiles.map (fun p => (p.1, p.2.loseResv lo hi)),
           farResv := s.farResv.map (fun p => (p.1, p.2.filter (fun r => !(decide (lo ≤ r.2.2.2 ∧ r.2.2.2 < hi))))) }

/-- The 64-byte blocks that a write of `[pa, pa + n)` covers whole. -/
def wholeBlocks (pa n : Nat) : List Nat :=
  (List.range ((pa + n) / 64 - (pa + 63) / 64)).map (fun i => (pa + 63) / 64 + i)

/-- The state after a write of one slot record's bytes by an M-mode store (R81): the record takes the bytes. A FREE
entry has no name, and a write to it changes nothing (DESIGN CHOICE, log 14). MELDOCC and POTOCC follow at the tile's next meld
event (the model's choice, log 86). -/
def State.writeSlotByte (s : State) (t : TileId) (i j : Nat) (b : Byte) : State :=
  match Tab.find? (s.tile t).slots i with
  | some e =>
    match e.ofBytes (modAt e.bytes j (fun _ => b)) with
    | some e' => s.modTile t (fun T => { T with slots := Tab.set T.slots i e' })
    | none => s.modTile t (fun T => { T with slots := Tab.erase T.slots i })
  | none => s

/-- One byte written to DRAM or a tile window, given what the address names. -/
def State.setByteAt (s : State) (x : Target) (pa : Nat) (b : Byte) : State :=
  match x with
  | .sram t off =>
    match s.slotAt t off with
    | some i => s.writeSlotByte t i ((off - s.slotBase t) % 128) b
    | none => { s with mem := Mem.set s.mem pa b }
  | _ => { s with mem := Mem.set s.mem pa b }

/-- One byte written to DRAM or a tile window. -/
def State.setByte (s : State) (pa : Nat) (b : Byte) : State := s.setByteAt (s.target pa) pa b

/-- Bytes written to DRAM or a tile window, one address after the other. -/
def State.setBytes (s : State) : Nat → List Byte → State
  | _, [] => s
  | pa, b :: t => (s.setByte pa b).setBytes (pa + 1) t

/-- A write to memory by any agent: reservations on its granules are lost (R30), and a block written whole is no longer
poisoned, nor holds an error (R348). -/
def State.write (s : State) (pa : Nat) (l : List Byte) : State :=
  let s := s.loseResv pa l.length
  let s := { s with poison := s.poison.filter (fun b => !(wholeBlocks pa l.length).contains b),
                    latent := s.latent.filter (fun b => !(wholeBlocks pa l.length).contains b.1) }
  s.setBytes pa l

/-- Whether a read of `[pa, pa + n)` meets a poisoned block (R348). -/
def State.poisoned (s : State) (pa n : Nat) : Bool :=
  s.poison.any (fun b => decide (b * 64 < pa + n ∧ pa < b * 64 + 64))

/-- An access to a tile's SRAM window reaches the tile: a patience slice in progress is aborted (R551). -/
def State.touchTile (s : State) (pa : Nat) : State :=
  match s.target pa with
  | .sram t _ => if (s.tile t).slice.isSome then s.modTile t id else s
  | _ => s

end Sys2Proof.Machine
end

