-- ==== Sys2Proof/Machine/Ports.lean ====
section
/-! DEFINITION. Packets at the Espex ports: routing headers as bytes (R387), pools, antes and the transit between link dies (R392),
arbitration (R393), the flits that carry them with their headers and FEC blocks (R379, R385, R386), and routing (R397 to R400). -/

namespace Sys2Proof.Machine

/-- A link of the device. -/
def State.link (s : State) (p : PortId) : LinkSt := Tab.get LinkSt.reset s.links p
def State.modLink (s : State) (p : PortId) (f : LinkSt → LinkSt) : State := { s with links := Tab.set s.links p (f (s.link p)) }

/-- The link die of a port (R378). -/
def dieOfPort (p : PortId) : DieId := Fin.ofNat 4 (p.val / 4)

/-- PORTSTAT.STATE of a port, and the state with it set (R405). -/
def State.portState (s : State) (p : PortId) : Nat := Word.bits (s.portReg p .portstat) 0 3
def State.setPortState (s : State) (p : PortId) (st : Nat) : State :=
  s.modReg (.port p .portstat) (fun w => Word.setBits w 0 3 st)

/-- Whether a port is UP (R405). -/
def State.portUp (s : State) (p : PortId) : Bool := Word.bits (s.portReg p .portstat) 0 3 == 2

/-- The 16-byte units of a packet, the routing header among them (R387). -/
def pkUnits (k : Packet) : Nat := 1 + k.body.length / 16

/-- The routing header of a packet as bytes (R387). -/
def pkHeader (k : Packet) : List Byte :=
  leBytes 16 (k.ptype.toNat + (k.body.length / 16) * 2 ^ 6 + k.vc.val * 2 ^ 11 + k.pool.toNat * 2 ^ 14
    + k.pin.toNat * 2 ^ 16 + k.lgrp.toNat * 2 ^ 17 + k.ttl.toNat * 2 ^ 20 + k.fwd.toNat * 2 ^ 25
    + k.ddev.toNat * 2 ^ 32 + k.sdev.toNat * 2 ^ 46 + k.jslot.val * 2 ^ 60 + k.epoch.toNat * 2 ^ 64)

/-- A packet as bytes. -/
def pkBytes (k : Packet) : List Byte := pkHeader k ++ k.body

/-- The packet of a routing header and the bytes after it (R387). -/
def packetOf (h body : List Byte) : Packet :=
  let w := leVal h
  { ptype := BitVec.ofNat 6 w, vc := Fin.ofNat 8 (bitsOf w 11 3), pool := BitVec.ofNat 2 (bitsOf w 14 2),
    pin := w.testBit 16, lgrp := BitVec.ofNat 3 (bitsOf w 17 3), ttl := BitVec.ofNat 5 (bitsOf w 20 5),
    fwd := w.testBit 25, ddev := BitVec.ofNat 14 (bitsOf w 32 14), sdev := BitVec.ofNat 14 (bitsOf w 46 14),
    jslot := Fin.ofNat 4 (bitsOf w 60 2), epoch := BitVec.ofNat 8 (bitsOf w 64 8),
    rsv := bitsOf w 26 6 != 0 || bitsOf w 62 2 != 0 || bitsOf w 72 56 != 0, body := body }

/-- The pool ID of a packet (R385). -/
def pkPool (k : Packet) : Nat := k.vc.val * 4 + k.pool.toNat

/-- The ANTECFG register of a virtual channel. -/
def anteReg (vc : Fin 8) : PortReg :=
  match vc with
  | 0 => .antecfg0 | 1 => .antecfg1 | 2 => .antecfg2 | 3 => .antecfg3
  | 4 => .antecfg4 | 5 => .antecfg5 | 6 => .antecfg6 | 7 => .antecfg7

/-- The antes of a pool: A, E0, E1 or SB of the channel's ANTECFG (R405). -/
def State.poolSize (s : State) (p : PortId) (vc : Fin 8) (pool : Nat) : Nat :=
  let w := s.portReg p (anteReg vc)
  match pool with
  | 0 => Word.bits w 0 15
  | 1 => Word.bits w 15 15
  | 2 => Word.bits w 30 15
  | _ => Word.bits w 45 15

/-- The antes a port holds in a pool of its neighbour: those granted at initialisation, without those in use (R381, R392). -/
def State.freeAntes (s : State) (p : PortId) (vc : Fin 8) (pool : Nat) : Nat :=
  Tab.get 0 (s.link p).grant (vc.val * 4 + pool) - Tab.get 0 (s.link p).used (vc.val * 4 + pool)

/-! ### Flits sent (R385, R386, R395) -/

/-- The pools whose count of freed antes has changed since it was last reported. -/
def LinkSt.unreported (l : LinkSt) : List Nat := (List.range 32).filter (fun i => Tab.get 0 l.freed i != Tab.get 0 l.told i)

/-- The pools that a flit's four ante returns name: changed ones first; a count given again does nothing, for it is cumulative. -/
def LinkSt.returns (l : LinkSt) : List Nat := (l.unreported ++ [0, 1, 2, 3]).take 4

/-- Bytes 0 to 11 of a flit's header (R385). -/
def LinkSt.flitHead (l : LinkSt) (kind fseq : Nat) : Nat :=
  kind + fseq % 4096 * 2 ^ 2 + (l.rxSeq + 4095) % 4096 * 2 ^ 14 + l.anyRx.toNat * 2 ^ 26 + l.gap.toNat * 2 ^ 27
    + 2 ^ 32 * (l.returns.foldr (fun i a => i + Tab.get 0 l.freed i % 2048 * 2 ^ 5 + 2 ^ 16 * a) 0)

/-- A flit: its header with the CRC over the rest, and fifteen slots (R385). -/
def flitBytes (h : Nat) (slots : List Byte) : List Byte :=
  let a := leBytes 12 h
  let b := padTo 240 slots
  a ++ leBytes 4 (crc32c (a ++ b)) ++ b

/-- The block header that a port sends now: RXOK and RTREQ (R380). -/
def LinkSt.blockHead (l : LinkSt) : Nat := l.rxok % 16 + l.rtreq.toNat * 2 ^ 4

/-- A flit sent, in a block with the header of its time; the ante returns that it carries are reported. -/
def LinkSt.flitOut (l : LinkSt) (kind fseq : Nat) (slots : List Byte) : LinkSt :=
  { l with wire := l.wire ++ [(l.blockHead, flitBytes (l.flitHead kind fseq) slots)],
           told := l.returns.foldl (fun (x : Tab Nat Nat) i => Tab.set x i (Tab.get 0 l.freed i)) l.told }

/-- The FEC blocks that the flits sent fill, five to a block, as the port's lanes carry them (R379); the last is filled up with control
flits without a message. -/
def LinkSt.blocks (l : LinkSt) (w : Nat) : List (List (List (BitVec 10))) :=
  (List.range (ceilDiv l.wire.length 5)).map fun i =>
    let f := (l.wire.drop (5 * i)).take 5
    let idle := flitBytes (l.flitHead 1 0) []
    fecLanes w (fecSymbols ((f.map (fun (x : Nat × List Byte) => x.1)).headD 0)
      ((f.map (fun (x : Nat × List Byte) => x.2) ++ List.replicate 5 idle).take 5))

/-- Control flits that report what the link has to: its acknowledgement, and every pool whose count has changed, at once (R385,
R395; log 91). `n` bounds the flits. -/
def LinkSt.linkReport : Nat → LinkSt → LinkSt
  | 0, l => l
  | n + 1, l =>
    let l := l.flitOut 1 0 []
    if l.unreported = [] then l else LinkSt.linkReport n l
def State.linkReport (s : State) (p : PortId) : State := if s.portUp p then s.modLink p (LinkSt.linkReport 9) else s

/-- Units freed in a pool of a port's receive buffer (R385, R392). -/
def State.freePool (s : State) (p : PortId) (id units : Nat) : State :=
  (s.modLink p (fun l => { l with freed := Tab.set l.freed id (Tab.get 0 l.freed id + units) })).linkReport p

/-- The antes of a received packet freed at its port. -/
def State.freeAntesOf (s : State) (p : PortId) (k : Packet) : State := s.freePool p (pkPool k) (pkUnits k)

/-! ### Transit between link dies (R392) -/

/-- The link die that holds the units of a packet. -/
def EgPkt.at_ (e : EgPkt) : DieId :=
  match e.hold with
  | .unit => e.die
  | .port p => dieOfPort p
  | .transit d => d

/-- The units of a pool of a transit buffer: the ANTECFG defaults (R405; log 92). -/
def transitSize (id : Nat) : Nat :=
  match id % 4 with
  | 0 => if id / 4 % 2 = 1 then 2304 else 2048
  | 3 => if id / 4 % 2 = 1 then 0 else 256
  | _ => 384

/-- The units of a packet freed where they are held. -/
def State.letGo (s : State) (e : EgPkt) : State :=
  match e.hold with
  | .unit => s
  | .port p => s.freePool p e.pool (pkUnits e.k)
  | .transit d => { s with transit := Tab.set s.transit (d, e.pool) (Tab.get 0 s.transit (d, e.pool) - pkUnits e.k) }

/-- Packets of a port's queue that are at another link die, taken into the transit buffer of the port's own, in order and as far as its
pools have room. -/
def State.cross (s : State) (p : PortId) : State :=
  let d := dieOfPort p
  let r := (Tab.get [] s.egress p).foldl (fun (a : List EgPkt × State) e =>
    let id := pkPool e.k
    let had := Tab.get 0 a.2.transit (d, id)
    if e.at_ = d ∨ a.1.any (fun o => pkPool o.k == id && o.at_ != d) ∨ transitSize id < had + pkUnits e.k then (a.1 ++ [e], a.2)
    else
      let s := a.2.letGo e
      (a.1 ++ [{ e with hold := .transit d, pool := id }],
        { s with transit := Tab.set s.transit (d, id) (Tab.get 0 s.transit (d, id) + pkUnits e.k) })) ([], s)
  { r.2 with egress := Tab.set r.2.egress p r.1 }

/-! ### Arbitration and sending (R392 to R395) -/

/-- Whether a packet holds its antes, or can take them now (R392). -/
def State.hasAntes (s : State) (p : PortId) (e : EgPkt) : Bool :=
  e.antes || decide (pkUnits e.k ≤ s.freeAntes p e.k.vc e.k.pool.toNat)

/-- Whether a packet is ready at its port (R393). -/
def State.packetReady (s : State) (p : PortId) (e : EgPkt) : Bool := e.at_ == dieOfPort p && s.hasAntes p e

/-- The rank of a virtual channel: suit order, a response before a request (R393). -/
def vcRank (vc : Fin 8) : Nat := 2 * (vc.val / 2) + (1 - vc.val % 2)

/-- The first packet of each pool of a queue. -/
def State.poolHeads (s : State) (p : PortId) : List EgPkt :=
  let q := Tab.get [] s.egress p
  q.filter (fun e => q.find? (fun o => pkPool o.k == pkPool e.k) == some e)

/-- The first packet of each pool that is ready, of least rank; with the guard due, one of class 2 or 3 first (R393). -/
def State.arbitrate (s : State) (p : PortId) : Option EgPkt :=
  let heads := (s.poolHeads p).filter (s.packetReady p)
  let pick := fun (l : List EgPkt) => l.foldl (fun (b : Option EgPkt) e =>
    match b with
    | none => some e
    | some o => if vcRank e.k.vc < vcRank o.k.vc then some e else some o) none
  let low := heads.filter (fun e => 4 ≤ e.k.vc.val)
  if 15 ≤ (s.link p).guard ∧ low ≠ [] then pick low else pick heads

/-- The slots of a packet as data flits of fifteen slots, one packet to a flit (packing is the sender's choice, R386). -/
def flitSlots (b : List Byte) : List (List Byte) :=
  (List.range (ceilDiv b.length 240)).map (fun i => padTo 240 (slice b (240 * i) 240))

/-- Antes of a pool of the neighbour taken, or given back. -/
def LinkSt.take (l : LinkSt) (k : Packet) : LinkSt :=
  { l with used := Tab.set l.used (pkPool k) (Tab.get 0 l.used (pkPool k) + pkUnits k) }
def LinkSt.give (l : LinkSt) (k : Packet) : LinkSt :=
  { l with used := Tab.set l.used (pkPool k) (Tab.get 0 l.used (pkPool k) - pkUnits k) }

/-- A packet sent on a port: its antes taken, TTL one less, its flits numbered, sent, kept for replay and counted (R385, R392, R395,
R399). -/
def State.transmit (s : State) (p : PortId) (e : EgPkt) : State :=
  let l := s.link p
  let fl := flitSlots (pkBytes { e.k with ttl := e.k.ttl - 1 })
  let low := decide (4 ≤ e.k.vc.val)
  let waiting := (Tab.get [] s.egress p).any (fun o => decide (4 ≤ o.k.vc.val) && s.packetReady p o)
  let l := if e.antes then l else l.take e.k
  let l := fl.foldl (fun (l : LinkSt) b =>
    { l.flitOut 0 l.txSeq b with replay := l.replay ++ [(l.txSeq, b)], txSeq := (l.txSeq + 1) % 4096 }) l
  let l := { l with guard := if low then 0 else if waiting then min 15 (l.guard + 1) else l.guard }
  let s := { s with links := Tab.set s.links p l, egress := Tab.set s.egress p (eraseFirst (· == e) (Tab.get [] s.egress p)) }
  (s.letGo e).modReg (.port p .lktx) (· + BitVec.ofNat 64 fl.length)

/-- Packets of a port's queue sent while the port is UP, the replay buffer has room and antes are held. -/
def State.pump : Nat → State → PortId → State
  | 0, s, _ => s
  | n + 1, s, p =>
    if s.portUp p ∧ (s.link p).replay.length < 2047 ∧ (s.link p).retrying = false then
      let s := s.cross p
      match s.arbitrate p with
      | some e => State.pump n (s.transmit p e) p
      | none => s
    else s

/-- Every packet of a port's queue that can go sent. -/
def State.pumpPort (s : State) (p : PortId) : State := State.pump ((Tab.get [] s.egress p).length + 1) s p

/-- A port in low-power idle woken (R402). -/
def State.wakePort (s : State) (p : PortId) : State := if s.portState p = 5 then s.setPortState p 2 else s

/-- The escape class of a packet leaving through a port (R397). -/
def State.escapeClass (s : State) (p : PortId) (k : Packet) (injected : Bool) : Nat :=
  let g := Word.bits (s.portReg p .portcfg) 3 3
  let d := (Word.bit (s.portReg p .portcfg) 6).toNat
  if injected ∨ k.pool = 0 ∨ k.lgrp.toNat ≠ g then d else max (k.pool.toNat - 1) d

/-- A packet put into a port's queue by a link die. On the escape path LGRP and the pool follow R397, and it takes its antes as it
leaves; a signal-bearing packet takes pool SB on the hop into its destination (R392). On an adaptive path it takes its antes at once
(R399). `hold`: where its units are. A port in low-power idle wakes (R402). -/
def State.sendPort (s : State) (die : DieId) (p : PortId) (k : Packet) (escape injected sb : Bool) (hold : Hold) : State :=
  let s := s.wakePort p
  let k' := if escape then
      { k with pool := if sb ∧ Word.bits (s.portReg p .portstat) 10 14 = k.ddev.toNat then 3
                       else BitVec.ofNat 2 (1 + s.escapeClass p k injected)
               lgrp := BitVec.ofNat 3 (Word.bits (s.portReg p .portcfg) 3 3) }
    else { k with pool := 0 }
  let e : EgPkt := { k := k', antes := !escape, die := die, hold := hold, pool := pkPool k }
  let s := if escape then s else s.modLink p (fun l => l.take k')
  { s with egress := Tab.set s.egress p (Tab.get [] s.egress p ++ [e]) }.pumpPort p

/-- The routing entry of a link die for a destination (R398, R404). -/
def State.routeEntry (s : State) (die : DieId) (dev : BitVec 14) : Word :=
  s.portReg (Fin.ofNat 16 (4 * die.val + dev.toNat / 4096)) (.route (Fin.ofNat 4096 dev.toNat))

/-- The AMASK port for an adaptive packet (R399): UP, holding the antes, with the most free; ties to a port of the routing
link die, then to the lower number. -/
def State.adaptivePort (s : State) (die : DieId) (k : Packet) (mask : Nat) : Option PortId :=
  ((List.finRange 16).filter (fun p => mask.testBit p.val && s.portUp p && decide (pkUnits k ≤ s.freeAntes p k.vc 0))).foldl
    (fun (b : Option PortId) p =>
      match b with
      | none => some p
      | some o =>
        let fp := s.freeAntes p k.vc 0
        let fo := s.freeAntes o k.vc 0
        if fo < fp then some p
        else if fo = fp ∧ p.val / 4 = die.val ∧ o.val / 4 ≠ die.val then some p
        else some o) none

/-- What becomes of a routed packet: delivered here, dropped, or sent. -/
inductive Routed where
  | deliver (s : State)
  | noRoute (s : State)
  | expired (s : State)
  | sent (s : State)

/-- Routing by a link die (R399); drops count at port `cp`. A packet of a type that R388 pins has PIN set by its sender.
`sb`: a signal-bearing packet; `hold`: where its units are held. -/
def State.route (s : State) (die : DieId) (cp : PortId) (k : Packet) (injected sb : Bool) (hold : Hold) : Routed :=
  let e := s.routeEntry die k.ddev
  if Word.bit e 20 then .deliver s
  else if Word.bit e 21 = false then .noRoute (s.modReg (.port cp .lkdrop) (fun w => Word.addBits w 0 16 1))
  else if k.ttl = 0 then .expired (s.modReg (.port cp .lkdrop) (fun w => Word.addBits w 16 16 1))
  else
    let ep : PortId := Fin.ofNat 16 (Word.bits e 16 4)
    if k.pin ∨ (k.pool ≠ 0 ∧ injected = false) then .sent (s.sendPort die ep k true injected sb hold)
    else
      match s.adaptivePort die k (Word.bits e 0 16) with
      | some p => .sent (s.sendPort die p k false injected sb hold)
      | none => .sent (s.sendPort die ep k true injected sb hold)

/-- Cycles of LKSTALL: a port that is UP while the first packet of a pool is at its die and waits for antes only (R406). -/
def State.stalled (s : State) (p : PortId) : Bool :=
  s.portUp p && (s.poolHeads p).any (fun e => e.at_ == dieOfPort p && !s.hasAntes p e)

/-- The ports in a cycle: each sends what it can, and counts where a packet waits for antes (R393, R406; log 91). -/
def State.portsTick (s : State) : State :=
  (s.egress.filter (fun (x : PortId × List EgPkt) => x.2 != [])).foldl (fun (s : State) x =>
    let s := s.pumpPort x.1
    if s.stalled x.1 then s.modReg (.port x.1 .lkstall) (· + 1) else s) s

end Sys2Proof.Machine
end

