-- ==== Sys2Proof/Machine/Ops.lean ====
section
/-! DEFINITION. The named operations shared by every family: contexts and their registers, interrupts and traps, time, the
journal and the event ring, job faults and the stop they start, and the tokens a tile sends. -/

namespace Sys2Proof.Machine

/-- What a command answers. -/
abbrev Out := Host.Outcome State Fault Refusal

/-! ### What the spec leaves open -/

/-- A value that the spec leaves open, and the state with it taken (log 4). -/
def State.takeFree (s : State) : Word × State := (BitVec.ofNat 64 (Config.free s.free), { s with free := s.free + 1 })

/-- Bytes that the spec leaves open, and the state with them taken (log 4). -/
def State.freeBytes (s : State) (n : Nat) : List Byte × State := (leBytes n (Config.free s.free), { s with free := s.free + 1 })

/-- One of the candidates of a choice that the spec leaves open: where there are several, the k-th free value from here
decides (log 4). -/
def State.choose {α : Type} (s : State) (k : Nat) (l : List α) : Option α :=
  match l with
  | [] => none
  | [x] => some x
  | l => l[Config.free (s.free + k) % l.length]?

/-- The same, and the state with the value taken. -/
def State.pick {α : Type} (s : State) (l : List α) : Option α × State := (s.choose 0 l, { s with free := s.free + 1 })

/-! ### Contexts -/

/-- A context of a tile. -/
def Tile.ctx (T : Tile) (c : CtxId) : Ctx := Tab.get Ctx.reset T.ctxs c

/-- A tile with a context replaced by a function of it. -/
def Tile.modCtx (T : Tile) (c : CtxId) (f : Ctx → Ctx) : Tile := { T with ctxs := Tab.set T.ctxs c (f (T.ctx c)) }

/-- A context of the device. -/
def State.ctx (s : State) (c : CtxRef) : Ctx := (s.tile c.tile).ctx c.ctx

/-- The state with a context replaced by a function of it. -/
def State.modCtx (s : State) (c : CtxRef) (f : Ctx → Ctx) : State := s.modTile c.tile (fun T => T.modCtx c.ctx f)

/-- An integer register; x0 reads as 0 (R54). -/
def Ctx.getX (k : Ctx) (r : XReg) : Word := if r = 0 then 0 else Tab.get 0 k.x r

/-- A context with an integer register written; a write of x0 is discarded (R54). -/
def Ctx.setX (k : Ctx) (r : XReg) (v : Word) : Ctx := if r = 0 then k else { k with x := Tab.set k.x r v }

/-- An integer register of a context, and the state with one written. -/
def State.getX (s : State) (c : CtxRef) (r : XReg) : Word := (s.ctx c).getX r
def State.setX (s : State) (c : CtxRef) (r : XReg) (v : Word) : State := s.modCtx c (fun k => k.setX r v)

/-- The size of an instruction in bytes. -/
def isz : ISize → Nat
  | .two => 2
  | .four => 4

/-- A context after an instruction of `n` bytes has retired: the pc past it, instret one higher (R31). -/
def Ctx.retire (k : Ctx) (n : Nat) : Ctx := { k with pc := k.pc + BitVec.ofNat 64 n, instret := k.instret + 1 }

/-- A deal interrupt is in service on a context (R142). -/
def Ctx.inIrq (k : Ctx) : Bool := Word.bit k.mdirq 0

/-- The state after a context's instruction of `n` bytes has retired. -/
def State.retire (s : State) (c : CtxRef) (n : Nat := 4) : State := s.modCtx c (fun k => k.retire n)

/-- The state after an instruction of `n` bytes has retired with a result in a register. -/
def State.retireX (s : State) (c : CtxRef) (rd : XReg) (v : Word) (n : Nat := 4) : State :=
  s.modCtx c (fun k => (k.setX rd v).retire n)

/-- A context that cannot go on: STALLED until there is progress, after which its instruction is issued again (R32). -/
def State.stallRetry (s : State) (c : CtxRef) : State := s.modCtx c (fun k => { k with st := .stalled, stall := .retry })

/-- A context that waits for a result (R32). -/
def State.stallResult (s : State) (c : CtxRef) : State := s.modCtx c (fun k => { k with st := .stalled, stall := .result })

/-- Progress on a tile: its contexts that stalled for want of it may issue their instruction again. -/
def State.progress (s : State) (t : TileId) : State :=
  s.modTile t fun T => { T with ctxs := T.ctxs.map fun p =>
    if p.2.st = .stalled ∧ p.2.stall = .retry then (p.1, { p.2 with st := .ready, stall := .none }) else p }

/-- A result has come back: the context is READY again. -/
def Ctx.wake (k : Ctx) : Ctx :=
  if k.st = .stalled ∧ k.stall = .result then { k with st := .ready, stall := .none } else k

/-- The next place in a tile's program order, and the tile with it taken. -/
def Tile.nextSeq (T : Tile) : Nat × Tile := (T.seq, { T with seq := T.seq + 1 })

/-! ### Time (R9, R31, R472, R493) -/

/-- The global timebase in nanoseconds. -/
def State.now (s : State) : Nat := s.timebase / 2 ^ 16

/-- The time of a journal record (R472): until B14 has passed, counted from the moment the start began. -/
def State.journalTime (s : State) : Nat := if s.b14Passed then s.now else s.now + s.startNs

/-! ### The journal and the event ring (R471, R554 to R556) -/

/-- The state with a record at the head of the journal. When the ring is full, the 2,048 oldest are lost (R471). -/
def State.journalAdd (s : State) (typ code outcome attempt unit : Nat) (detail : List Byte) (info : Option FaultInfo := none) :
    State :=
  let r : JRecord := { time := s.journalTime, seq := s.jnext, typ := typ, code := code, outcome := outcome,
                       attempt := attempt, unit := unit, detail := padTo 10 detail, info := info }
  let old := if 262144 ≤ s.journal.length then s.journal.take (262144 - 2048) else s.journal
  let s := { s with journal := r :: old, jnext := s.jnext + 1 }
  s.modReg (.stew .jhead) (fun w => Word.setBits w 0 32 r.seq)

/-- The severity with which an event raises ALERT#. -/
def sevAlert : Nat := 2

/-- The state with an event in the ring; when the ring is full the oldest is overwritten and counted (R554). -/
def State.eventAdd (s : State) (typ code sev unit : Nat) (detail : List Byte) (extra : Nat := 0)
    (info : Option FaultInfo := none) : State :=
  let e : Event := { time := s.now, seq := s.enext, typ := typ, code := code, sev := sev, unit := unit,
                     detail := padTo 10 detail, extra := extra, info := info }
  let full := decide (8192 ≤ s.events.length)
  let s := { s with events := e :: (if full then s.events.take 8191 else s.events), enext := s.enext + 1 }
  s.modReg (.stew .telstat) (fun w => let w := Word.setBits w 0 32 e.seq; if full then Word.addSat w 32 32 1 else w)

/-- An event of type 0x02 or 0x03: at most one record per 100 ms for each code and unit, the events in between counted
in bytes 24–27 of the next (R555). -/
def State.eventMerged (s : State) (typ code sev unit : Nat) (detail : List Byte) : State :=
  let k := (typ, code, unit)
  let put := fun (n : Nat) =>
    ({ s with merged := Tab.set s.merged k (s.now, 0) }).eventAdd typ code sev unit (padTo 6 detail ++ leBytes 4 n)
  match Tab.find? s.merged k with
  | some (last, n) => if s.now < last + 100000000 then { s with merged := Tab.set s.merged k (last, n + 1) } else put n
  | none => put 0

/-- Whether the ring holds an alert at or past the alert cursor: ALERT# is low (R556). -/
def State.alert (s : State) : Bool :=
  s.events.any (fun e => decide (e.sev = sevAlert ∧ Word.bits (s.stewReg .telcur) 0 32 ≤ e.seq))

/-! ### Interrupts and traps (R64 to R68) -/

/-- Whether a context WAITS in a WFI: it holds no registered wait, or one that is armed (R32, R313). -/
def Ctx.inWfi (k : Ctx) : Bool := k.st == .waiting && (match k.wait with | some w => w.armed | none => true)

/-- A WFI ends when a cause enabled in mie is pending (R67). -/
def Ctx.wfiEnd (k : Ctx) : Ctx := if k.inWfi ∧ k.mip.toNat &&& k.mie.toNat ≠ 0 then { k with st := .ready } else k

/-- A context with an interrupt cause pending. -/
def Ctx.pend (k : Ctx) (cause : Nat) : Ctx := ({ k with mip := Word.setBit k.mip cause true } : Ctx).wfiEnd

/-- The state with an interrupt cause pending on a context. -/
def State.pend (s : State) (c : CtxRef) (cause : Nat) : State := s.modCtx c (fun k => k.pend cause)

/-- A context entering a trap in M-mode (R65): mepc, mcause and mtval saved, the mode and MIE stacked, the reservation
lost (R30), the pc at mtvec's base, in vectored mode at the cause's entry for an interrupt. -/
def Ctx.trap (k : Ctx) (mtvec : Word) (cause : Nat) (intr : Bool) (tval : Word) : Ctx :=
  let base := BitVec.ofNat 64 (mtvec.toNat / 4 * 4)
  { k with mepc := k.pc, mcause := BitVec.ofNat 64 (cause + (if intr then 2 ^ 63 else 0)), mtval := tval,
           mpp := k.priv, mpie := k.mie1, mie1 := false, priv := .m, resv := none,
           pc := if intr ∧ mtvec.toNat % 4 = 1 then base + BitVec.ofNat 64 (4 * cause) else base }

/-! ### Job faults and the stop (R445 to R448) -/

/-- The reason codes of R445. -/
inductive Reason where
  | engineXlate | monitorDouble | tokenMisroute | tokenOp | tokenForm | slotOvercount | slotSpawnTwice | slotSetTwice
  | potMismatch | statIndex | taskEntry | kittyFull | gatherDesc | gatherForm | gatherRange | gatherOrder | matrixDesc
  | embDesc | embBag | embRow | embList | embEpoch | embMisroute | sigXlate | sigKind | barrierOver | barrierSense
  | barrierTimeout | xferDesc | xferTimeout | dramUe | sramUe | farGrant | farTimeout | linkDown | linkRoute | linkForm
  | hostLost | patienceFail | powerFail | thermalCrit | operatorStop | chassisStop | warmReset
  deriving DecidableEq, Repr

/-- The code of a reason (R445). -/
def Reason.code : Reason → Nat
  | .engineXlate => 0x01 | .monitorDouble => 0x02 | .tokenMisroute => 0x10 | .tokenOp => 0x11 | .tokenForm => 0x12
  | .slotOvercount => 0x13 | .slotSpawnTwice => 0x14 | .slotSetTwice => 0x15 | .potMismatch => 0x16
  | .statIndex => 0x17 | .taskEntry => 0x18 | .kittyFull => 0x19 | .gatherDesc => 0x20 | .gatherForm => 0x21
  | .gatherRange => 0x22 | .gatherOrder => 0x23 | .matrixDesc => 0x28 | .embDesc => 0x30 | .embBag => 0x31
  | .embRow => 0x32 | .embList => 0x33 | .embEpoch => 0x34 | .embMisroute => 0x35 | .sigXlate => 0x38
  | .sigKind => 0x39 | .barrierOver => 0x3A | .barrierSense => 0x3B | .barrierTimeout => 0x3C | .xferDesc => 0x3D
  | .xferTimeout => 0x3E | .dramUe => 0x40 | .sramUe => 0x41 | .farGrant => 0x42 | .farTimeout => 0x43
  | .linkDown => 0x48 | .linkRoute => 0x49 | .linkForm => 0x4A | .hostLost => 0x50 | .patienceFail => 0x58
  | .powerFail => 0x59 | .thermalCrit => 0x5A | .operatorStop => 0x60 | .chassisStop => 0x61 | .warmReset => 0x62

/-- Whether a reason code is of class H: hardware of the detecting device (R445). -/
def classH (code : Nat) : Bool := [0x40, 0x41, 0x48, 0x4A, 0x58].contains code

/-- A job slot of the device. -/
def State.job (s : State) (j : JSlot) : Job := Tab.get Job.reset s.jobs j

/-- The state with a job slot replaced by a function of it. -/
def State.modJob (s : State) (j : JSlot) (f : Job → Job) : State := { s with jobs := Tab.set s.jobs j (f (s.job j)) }

/-- The job slot that owns a tile (R61). -/
def State.owner (s : State) (t : TileId) : Option JSlot :=
  let w := s.tileReg t .mjob
  if Word.bit w 2 then some (Fin.ofNat 4 (Word.bits w 0 2)) else none

/-- The job slot named in a tile's MJOB, owned or not. -/
def State.jslot (s : State) (t : TileId) : JSlot := Fin.ofNat 4 (Word.bits (s.tileReg t .mjob) 0 2)

/-- Whether a tile's job is stopping or stopped: its engines and token unit issue nothing (R448). -/
def State.stopping (s : State) (t : TileId) : Bool :=
  match s.owner t with
  | some j => (s.job j).stop.isSome
  | none => false

/-- The FAULT packet for a neighbour (R388): reason, tile and fault time, with the slot's epoch. -/
def State.faultPacket (s : State) (p : PortId) (j : JSlot) (code tile time : Nat) : Packet :=
  { ptype := 0x3E, vc := 0, pool := 1, pin := true, lgrp := 0, ttl := 16, fwd := false,
    ddev := BitVec.ofNat 14 (Word.bits (s.portReg p .portstat) 10 14), sdev := s.devId, jslot := j,
    epoch := (s.job j).epoch, rsv := false,
    body := List.replicate 16 0 ++ leBytes 8 (code % 256 + tile % 1024 * 256) ++ leBytes 8 time }

/-- FAULT sent on every UP port (R448). -/
def State.floodFault (s : State) (j : JSlot) (code tile time : Nat) : State :=
  (List.finRange 16).foldl (fun s p =>
    if s.portUp p then s.sendPort (dieOfPort p) p (s.faultPacket p j code tile time) true true false .unit else s) s

/-- The call-line functions that act: enabled in CPCFG, not disabled by a fault, and 2 ms past the last change of phase
(R512, R519, R523). -/
def State.cpFunction (s : State) (n : Nat) : Bool :=
  s.cpOn && Word.bit (s.stewReg .cpcfg) n && !Word.bit (s.stewReg .cpfault) (24 + n)

/-- The module pulls CP2 low for 100 µs and counts the pulse (R516). -/
def State.pullCp2 (s : State) : State :=
  ({ s with cpPulse := true } : State).modReg (.stew .cpcnt) (fun w => Word.addSat w 0 16 1)

/-- The one-shot on CP2; during a pulse it adds none (R513, R521). -/
def State.pulseCp2 (s : State) : State := if s.cpPulse then s else s.pullCp2

/-- The chassis FAULT pulse of a job stop, once per stop (R516). -/
def State.signalChassisFault (s : State) : State :=
  if Word.bits (s.stewReg .cpstat) 0 2 = 2 ∧ s.cpFunction 2 then s.pullCp2 else s

/-- The records of a job fault (R447, R473, R555): in the journal, and for the first one in the event ring. -/
def State.recordFault (s : State) (j : JSlot) (code : Nat) (i : FaultInfo) (first : Bool) : State :=
  let d := leBytes 1 j.val ++ leBytes 1 (s.job j).epoch.toNat ++ leBytes 6 i.addr
  let tc := match i.tile with
    | some t => tileNum t + (match i.ctx with | some c => c.val * 2 ^ 10 + 2 ^ 15 | none => 2 ^ 15)
    | none => 0
  let s := s.journalAdd 0x04 code 0 0 (unitCode i.unit) d (some i)
  if first then s.eventAdd 0x01 code 2 (unitCode i.unit) (d ++ leBytes 2 tc) i.extra (some i) else s

/-- The connections of a job become HELD at its stop, FAILED ones included (R424). -/
def State.holdConns (s : State) (j : JSlot) : State :=
  { s with host := { s.host with conns := s.host.conns.map (fun (x : Fin 1024 × Conn) =>
      if x.2.jb ∧ x.2.jslot = j ∧ x.2.st ≠ .free then (x.1, { x.2 with st := .held, unacked := [], seen := [] }) else x) } }

/-- A tile whose contexts, saved ones included, hold no registered wait any more: nothing is consumed (R316, R336). One that
blocked in a wait or a hold stays WAITING with its pc there, until an interrupt is taken or its slot's contexts halt. -/
def Tile.endWaits (T : Tile) : Tile :=
  { T with ctxs := T.ctxs.map (fun p => (p.1, { p.2 with wait := none })), saved := T.saved.map (fun x => { x with wait := none }) }

/-- Cause 19 ends the waits and holds of a tile (R336); the wait states of saved contexts read as not registered (R315). -/
def State.endWaits (s : State) (t : TileId) : State :=
  let regs := (s.tile t).saved.filter (fun x => x.wait.isSome)
  regs.foldl (fun (s : State) x =>
    let a := sramPa t (s.saveBase t + x.irec * 1024 + 0x284)
    s.write a (leBytes 1 ((s.byte a).toNat &&& 0xFB))) (s.modTile t Tile.endWaits)

/-- The stop asserted for a RUNNING job slot (R448): cause 19 pending on context 0 of every tile of the partition, its waits ended, the
slot's units issuing nothing more, its connections HELD. -/
def State.stopSlot (s : State) (j : JSlot) (code : Nat) (warm : Option Nat) : State :=
  let s := (s.modJob j (fun b => { b with stop := some code, warm := warm, flooded := true })).holdConns j
  (tilesOf (s.job j).dies).foldl (fun s t => if s.tileExcl t then s else (s.pend { tile := t, ctx := 0 } 19).endWaits t) s

/-- A stop that this device starts (R448): the slot stops, FAULT is sent on every UP port, and the chassis FAULT pulse is
driven. -/
def State.startStop (s : State) (j : JSlot) (code tile time : Nat) : State :=
  ((s.stopSlot j code (if classH code then some 1 else none)).floodFault j code tile time).signalChassisFault

/-- A job fault raised by this device for a job slot (R447): it is recorded; the first one of a RUNNING job starts the
stop. For a slot that is FREE or ADMITTED there is no job to stop, and nothing is raised. -/
def State.raise (s : State) (j : JSlot) (r : Reason) (i : FaultInfo) : State :=
  let b := s.job j
  if b.st = .running ∨ b.st = .stopped then
    let first := b.st == .running && b.stop.isNone
    let s := s.recordFault j r.code i first
    if first then
      s.startStop j r.code (match i.tile with | some t => tileNum t | none => 0) s.now
    else s
  else s

/-- A job fault for the job that owns a tile, raised by a unit of the tile. -/
def State.raiseTile (s : State) (t : TileId) (r : Reason) (i : FaultInfo := {}) : State :=
  match s.owner t with
  | some j => s.raise j r { i with unit := .tile t, tile := some t }
  | none => s

/-- A packet routed by the link die of a compute die (R399): a local one waits for delivery, one without a route is
dropped and counted, one whose TTL has run out raises LINK_ROUTE for its job. -/
def State.inject (s : State) (die : DieId) (k : Packet) (sb : Bool := false) : State :=
  match s.route die (Fin.ofNat 16 (4 * die.val)) k true sb .unit with
  | .deliver s => { s with localPkts := s.localPkts ++ [k] }
  | .noRoute s => s
  | .expired s =>
    let p : PortId := Fin.ofNat 16 (4 * die.val)
    s.raise k.jslot .linkRoute { unit := .port p, addr := k.ddev.toNat, src := some k.sdev, dst := some k.ddev,
                                 lanes := some (s.portReg p .lanediag) }
  | .sent s => s

/-! ### Exceptions (R65, R68) -/

/-- Everything of a tile that a tile reset clears (R460, R475): its contexts, engines, queues and caches. -/
def Tile.clear (T : Tile) : Tile :=
  { Tile.reset with mtvec := T.mtvec, mtvecLock := T.mtvecLock, seq := T.seq, folded := T.folded, retained := T.retained }

/-- Whether a tile register is a performance counter or a patience register (R476, R558). -/
def TileReg.counter : TileReg → Bool
  | .meldcfg | .cutcfg | .tasktab | .kittybase | .kittysize | .meldjob | .gthcfg | .kstage | .mjob | .jptbase | .dlrsave => false
  | _ => true

/-- Registers brought back to their cold-reset values, by a test. -/
def State.dropRegs (s : State) (p : Reg → Bool) : State := { s with regs := s.regs.filter (fun x => !p x.1) }

/-- The counters of tiles and their dealers brought back to 0; SUSPECT stays (R476, R553, R558). -/
def State.clearCounters (s : State) (tiles : List TileId) (quads : List QuadId) : State :=
  let sus := tiles.filter (fun t => Word.bit (s.tileReg t .patstat) 0)
  let s := s.dropRegs fun r => match r with
    | .tile t r => tiles.contains t && r.counter
    | .quad q r => quads.contains q && r != .dlrcfg
    | _ => false
  sus.foldl (fun (s : State) t => s.setReg (.tile t .patstat) 1) s

/-- Everything that a tile reset clears (R460, R475): contexts, vector contexts, engine queues, gather streams, TLB, data cache,
the tile's areas from `scrtop` on (slots, pots, save records, kitty staging) and its kitty share, and its counters. -/
def State.tileResetCore (s : State) (t : TileId) (scrtop : Nat) : State :=
  let s := (s.clearCounters [t] []).modTile t (fun T => T.clear)
  { s with mem := Mem.clear s.mem (sramPa t scrtop) (sramPa t 0xC00000), farWaits := s.farWaits.filter (fun x => x.tile != t),
           entries := Tab.erase s.entries (quadOfTile t) }

/-- The start of the carved areas of a tile that no job owns: its slots, where it has any (R109). -/
def State.unownedTop (s : State) (t : TileId) : Nat :=
  let w := s.tileReg t .meldcfg
  if Word.bits w 0 7 = 0 then 0xC00000 else Word.bits w 8 12 * 4096

/-- An exception of a context (R65). In M-mode with MIE = 0 it is not taken: MONITOR_DOUBLE on an owned tile; on an unowned one a
journal record, whose job slot and epoch bytes are 0 as the model's choice (log 81), and a tile reset (R68). Either record gives
mepc, mcause and mtval, and the pc, cause and address of the second exception. -/
def State.exception (s : State) (c : CtxRef) (cause : Nat) (tval : Word) : State :=
  let k := s.ctx c
  if k.priv = .m ∧ k.mie1 = false then
    let i : FaultInfo := { unit := .tile c.tile, tile := some c.tile, ctx := some c.ctx, addr := tval.toNat, extra := cause,
                           double := [k.mepc, k.mcause, k.mtval, k.pc, BitVec.ofNat 64 cause, tval] }
    match s.owner c.tile with
    | some j => s.raise j .monitorDouble i
    | none =>
      (s.journalAdd 0x04 Reason.monitorDouble.code 0 0 (unitCode (.tile c.tile)) (leBytes 2 0 ++ leBytes 6 tval.toNat)
        (some i)).tileResetCore c.tile (s.unownedTop c.tile)
  else s.modCtx c (fun k => { k.trap (s.tile c.tile).mtvec cause false tval with st := .ready, stall := .none })

/-- The illegal-instruction exception: cause 2 with mtval the instruction bits (R12, R36). -/
def State.illegal (s : State) (c : CtxRef) (bits : Nat) : State := s.exception c 2 (BitVec.ofNat 64 bits)

/-! ### Tokens leaving a tile -/

/-- The op code of a token kind (R73). -/
def opSpawn : BitVec 6 := 0x01
def opSet : BitVec 6 := 0x02
def opArrive : BitVec 6 := 0x03
def opPotAdd : BitVec 6 := 0x08
def opPotAddSq : BitVec 6 := 0x09
def opPotMax : BitVec 6 := 0x0A
def opPotMin : BitVec 6 := 0x0B
def opPotMerge : BitVec 6 := 0x0C
def opStat : BitVec 6 := 0x10

/-- A token header with the identity of a tile's job (R71), from bits [43:0] of a destination word. -/
def State.tokenTo (s : State) (t : TileId) (dst : Nat) (op : BitVec 6) (suit : Suit) (arg : Nat) (payload : List Byte) :
    Token :=
  { ddev := BitVec.ofNat 14 dst, dtile := BitVec.ofNat 10 (bitsOf dst 14 10), slot := BitVec.ofNat 20 (bitsOf dst 24 20),
    op := op, suit := suit, jslot := s.jslot t, epoch := BitVec.ofNat 8 (Word.bits (s.tileReg t .mjob) 8 8),
    plen := BitVec.ofNat 5 (payload.length / 16), rsv := false, arg := BitVec.ofNat 32 arg, xid := 0, xseq := 0,
    payload := payload, shard := none }

/-- A send queued in a tile's token unit. -/
def State.queueSend (s : State) (t : TileId) (ctx : Option CtxId) (kind : SendKind) : State :=
  s.modTile t fun T => { T with tokq := T.tokq ++ [{ seq := T.seq, ctx := ctx, kind := kind }], seq := T.seq + 1 }

/-- Whether the token unit of a tile has room: it queues 64 sends (R106). -/
def State.tokRoom (s : State) (t : TileId) : Bool := decide ((s.tile t).tokq.length < 64)

end Sys2Proof.Machine
end

