-- ==== Sys2Proof/Machine/Packets.lean ====
section
/-! DEFINITION. The bytes of tokens (R70), of operation headers (R389) and of table headers (R388), and the packets that
the device's units send. -/

namespace Sys2Proof.Machine

/-- A token's header as bytes (R70). -/
def tokHeader (k : Token) : List Byte :=
  leBytes 16 (k.ddev.toNat + k.dtile.toNat * 2 ^ 14 + k.slot.toNat * 2 ^ 24 + k.op.toNat * 2 ^ 44 + k.suit.val * 2 ^ 50
    + k.jslot.val * 2 ^ 52 + k.epoch.toNat * 2 ^ 54 + k.plen.toNat * 2 ^ 62 + k.rsv.toNat * 2 ^ 67 + k.arg.toNat * 2 ^ 68
    + k.xid.toNat * 2 ^ 100 + k.xseq.toNat * 2 ^ 116)

/-- A token as bytes. -/
def tokBytes (k : Token) : List Byte := tokHeader k ++ k.payload

/-- The token of a 16-byte header and the bytes after it (R70). -/
def tokOf (h payload : List Byte) : Token :=
  let w := leVal h
  { ddev := BitVec.ofNat 14 w, dtile := BitVec.ofNat 10 (bitsOf w 14 10), slot := BitVec.ofNat 20 (bitsOf w 24 20),
    op := BitVec.ofNat 6 (bitsOf w 44 6), suit := Fin.ofNat 4 (bitsOf w 50 2), jslot := Fin.ofNat 4 (bitsOf w 52 2),
    epoch := BitVec.ofNat 8 (bitsOf w 54 8), plen := BitVec.ofNat 5 (bitsOf w 62 5), rsv := w.testBit 67,
    arg := BitVec.ofNat 32 (bitsOf w 68 32), xid := BitVec.ofNat 16 (bitsOf w 100 16),
    xseq := BitVec.ofNat 12 (bitsOf w 116 12), payload := payload, shard := none }

/-- The fields of an operation header (R389). -/
structure OpHdr where
  addr : Nat := 0
  sub : Nat := 0
  aw : Bool := false
  xid : Nat := 0
  xseq : Nat := 0
  nm1 : Nat := 0
  vid : Nat := 0
  deriving DecidableEq, Repr

/-- An operation header as bytes (R389). -/
def ohBytes (h : OpHdr) : List Byte :=
  leBytes 16 (h.addr % 2 ^ 48 + h.sub % 16 * 2 ^ 48 + h.aw.toNat * 2 ^ 52 + h.xid % 2 ^ 16 * 2 ^ 64
    + h.xseq % 2 ^ 12 * 2 ^ 80 + h.nm1 % 2 ^ 12 * 2 ^ 92 + h.vid % 2 ^ 16 * 2 ^ 104)

/-- The operation header of a packet (R389). -/
def ohOf (b : List Byte) : OpHdr :=
  let w := leAt b 0 16
  { addr := bitsOf w 0 48, sub := bitsOf w 48 4, aw := w.testBit 52, xid := bitsOf w 64 16, xseq := bitsOf w 80 12,
    nm1 := bitsOf w 92 12, vid := bitsOf w 104 16 }

/-- Whether the reserved bits of an operation header are 0 (R389). -/
def ohReservedOk (b : List Byte) : Bool :=
  let w := leAt b 0 16
  bitsOf w 53 11 == 0 && bitsOf w 120 8 == 0

/-- Packet types (R388). -/
def ptToken : BitVec 6 := 0x01
def ptPut : BitVec 6 := 0x02
def ptPuts : BitVec 6 := 0x03
def ptXack : BitVec 6 := 0x04
def ptGetreq : BitVec 6 := 0x05
def ptGetdata : BitVec 6 := 0x06
def ptFarrd : BitVec 6 := 0x08
def ptFarwr : BitVec 6 := 0x09
def ptFaramo : BitVec 6 := 0x0A
def ptFarrsp : BitVec 6 := 0x0B
def ptSigr : BitVec 6 := 0x10
def ptBarrv : BitVec 6 := 0x11
def ptBrel : BitVec 6 := 0x12
def ptEmbreq : BitVec 6 := 0x18
def ptEmbrsp : BitVec 6 := 0x19
def ptEmbcmd : BitVec 6 := 0x1A
def ptFault : BitVec 6 := 0x3E

/-- Whether a suit's packets are pinned on a link die (R400, R404). -/
def State.pinSuit (s : State) (die : DieId) (u : Suit) : Bool :=
  Word.bit (s.portReg (Fin.ofNat 16 (4 * die.val)) .routecfg) u.val

/-- A packet of this device (R387): `resp` puts it on the response channel of its suit, `pinned` pins it whatever the
suit. -/
def State.packet (s : State) (die : DieId) (pt : BitVec 6) (u : Suit) (resp pinned : Bool) (j : JSlot) (epoch : BitVec 8)
    (dst : BitVec 14) (body : List Byte) : Packet :=
  { ptype := pt, vc := Fin.ofNat 8 (2 * u.val + resp.toNat), pool := 0, pin := pinned || s.pinSuit die u, lgrp := 0, ttl := 16,
    fwd := false, ddev := dst, sdev := s.devId, jslot := j, epoch := epoch, rsv := false, body := body }

/-- The suit of a packet's virtual channel (R387). -/
def pkSuit (k : Packet) : Suit := Fin.ofNat 4 (k.vc.val / 2)

/-- The job epoch of a tile (R61). -/
def State.tileEpoch (s : State) (t : TileId) : BitVec 8 := BitVec.ofNat 8 (Word.bits (s.tileReg t .mjob) 8 8)

end Sys2Proof.Machine
end

