-- ==== Sys2Proof/Machine/Errors.lean ====
section
/-! DEFINITION. Errors found in memory (R347, R348, R350): their counts, log and reports, poison, and the retired-page list. -/

namespace Sys2Proof.Machine

/-- A frame added to the retired-page list, unless it is there or the list is full (R350, R555). -/
def State.retireFrame (s : State) (pa : Nat) (reason : Fin 3) : State :=
  let frame := pa / 0x200000
  if s.retired.any (fun r => r.frame == frame) ∨ 4096 ≤ s.retired.length then s
  else
    let k := (s.place pa).stack
    let r : Retired := { frame := frame, stack := k, reason := reason }
    let s := { s with retired := s.retired ++ [r] }
    s.eventAdd 0x04 reason.val 1 (unitCode (.stack k)) (leBytes 8 (frame * 2 ^ 21 + k.val * 2 ^ 41 + reason.val * 2 ^ 45))

/-- The eight bytes of a retired-page entry (R350). -/
def Retired.bytes (r : Retired) : List Byte := leBytes 8 (r.frame % 2 ^ 20 * 2 ^ 21 + r.stack.val * 2 ^ 41 + r.reason.val * 2 ^ 45)

/-- ECCLOG of an error (R372). -/
def eccLog (pa sym : Nat) (ue : Bool) (src : Nat) : Word :=
  BitVec.ofNat 64 (pa % 2 ^ 41 / 64 * 64 + sym % 32 * 2 ^ 41 + ue.toNat * 2 ^ 46 + 2 ^ 47 + src % 4 * 2 ^ 48)

/-- An error found in a DRAM block (R347, R348, R350): counted, logged and reported. A corrected block counts towards the
retirement of its frame, an uncorrectable one is poisoned and retires it; one already poisoned is not counted again. -/
def State.dramError (s : State) (pa : Nat) (e : Ecc) (src : Nat) : State :=
  let b := pa / 64
  let k := (s.place pa).stack
  let frame := pa / 0x200000
  match e with
  | .good => s
  | .corrected sym =>
    let s := (s.bumpLo (.stack k .ecccnt)).setReg (.stack k .ecclog) (eccLog pa sym.val false src)
    let s := s.eventMerged 0x03 0 0 (unitCode (.stack k)) (leBytes 6 (b * 64))
    let again := s.corrected.any (fun c => c.1 == b)
    let s := { s with corrected := (b, true) :: s.corrected.filter (fun c => c.1 != b) }
    if again then s.retireFrame pa 2
    else if 3 ≤ (s.corrected.filter (fun c => c.2 && c.1 * 64 / 0x200000 == frame)).length then s.retireFrame pa 1
    else s
  | .uncorrectable =>
    if s.poison.contains b then s
    else
      let s := { s with poison := b :: s.poison }
      let s := (s.bumpHi (.stack k .ecccnt)).setReg (.stack k .ecclog) (eccLog pa 0 true src)
      (s.eventMerged 0x03 1 2 (unitCode (.stack k)) (leBytes 6 (b * 64))).retireFrame pa 0

/-- An error found in a tile's SRAM (R347, R348, R369). -/
def State.sramError (s : State) (t : TileId) (pa : Nat) (e : Ecc) : State :=
  match e with
  | .good => s
  | .corrected _ => (s.bumpLo (.tile t .sramecc)).eventMerged 0x03 2 0 (unitCode (.tile t)) (leBytes 6 (pa / 64 * 64))
  | .uncorrectable =>
    if s.poison.contains (pa / 64) then s
    else
      let s := { s with poison := pa / 64 :: s.poison }
      (s.bumpHi (.tile t .sramecc)).eventMerged 0x03 3 2 (unitCode (.tile t)) (leBytes 6 (pa / 64 * 64))

/-- An error found by a check of memory; `src` as ECCLOG.SRC has it: 0 demand, 1 scrub, 2 write-back, 3 range engine (R372). -/
def State.memError (s : State) (pa : Nat) (e : Ecc) (src : Nat) : State :=
  match s.target pa with
  | .dram => s.dramError pa e src
  | .sram t _ => s.sramError t pa e
  | _ => s

/-- The 64-byte blocks that `[pa, pa + n)` touches. -/
def blocksOf (pa n : Nat) : List Nat := if n = 0 then [] else (List.range ((pa + n - 1) / 64 + 1 - pa / 64)).map (pa / 64 + ·)

/-- The blocks that an access reads: a write of a whole block does not read it (R352). -/
def blocksRead (pa n : Nat) (write : Bool) : List Nat :=
  if write then (blocksOf pa n).filter (fun b => !(wholeBlocks pa n).contains b) else blocksOf pa n

/-- Blocks read with their check (R347): the bit errors that stand in them are found. Which errors arise is not determined by
the state (log 33). -/
def State.meet (s : State) (bs : List Nat) (src : Nat) : State :=
  if s.latent.any (fun l => bs.contains l.1) then
    (s.latent.filter (fun l => bs.contains l.1)).foldl (fun (s : State) l => s.memError (l.1 * 64) l.2 src)
      { s with latent := s.latent.filter (fun l => !bs.contains l.1) }
  else s

/-- A unit's read of a tile's SRAM or of DRAM checked (R347, R348): the errors there are found, and poison is a fault of the job
concerned. -/
def State.sramSeen (s : State) (t : TileId) (pa n : Nat) : State :=
  let s := s.meet (blocksOf pa n) 0
  if s.poisoned pa n then s.raiseTile t .sramUe { addr := pa, found := some 0 } else s
def State.dramSeen (s : State) (j : JSlot) (u : UnitId) (pa n : Nat) : State :=
  let s := s.meet (blocksOf pa n) 0
  if s.poisoned pa n then s.raise j .dramUe { unit := u, addr := pa, found := some 0 } else s

end Sys2Proof.Machine
end

