-- ==== Sys2Proof/Machine/StackCache.lean ====
section
/-! DEFINITION. The stack cache (R351 to R357): lines, tree pseudo-LRU among unlocked ways, the victim buffer, stride
prefetch and their counters. It decides no value: the bytes are those of memory, except that a dirty line remembers
what DRAM still holds (R358, INVAL). -/

namespace Sys2Proof.Machine

/-- The line number of an address (128-byte lines, R351). -/
def lineOf (pa : Nat) : Nat := pa / 128

/-- Whether a way is locked in a stack (R355). -/
def State.wayLocked (s : State) (k : StackId) (w : Nat) : Bool := Word.bit (s.stackReg k .lockcfg) w

/-- The lines of one set of a slice. -/
def State.setLines (s : State) (p : DramPlace) : List (Nat × ScLine) :=
  s.scLines.filter (fun l => let q := s.place (l.1 * 128); q.stack = p.stack ∧ q.slice = p.slice ∧ q.set = p.set)

/-- The key of a set. -/
def setKey (p : DramPlace) : StackId × Nat × Nat := (p.stack, p.slice, p.set)

/-- The PLRU tree after an access to a way: every node on its path points away from it. Node 1 is the root; node `n` has
children `2n` and `2n + 1`; bit `n` set means the right half is the older. -/
def plruTouch (tree w : Nat) : Nat :=
  [8, 4, 2, 1].foldl (fun (a : Nat × Nat) half =>
      let right := decide (w / half % 2 = 1)
      let t := if right then a.1 &&& (2 ^ 16 - 1 - 2 ^ a.2) else a.1 ||| 2 ^ a.2
      (t, 2 * a.2 + right.toNat)) (tree, 1) |>.1

/-- The PLRU tree after a line is put into a way as least recently used: every node on its path points to it (R353). -/
def plruAge (tree w : Nat) : Nat :=
  [8, 4, 2, 1].foldl (fun (a : Nat × Nat) half =>
      let right := decide (w / half % 2 = 1)
      let t := if right then a.1 ||| 2 ^ a.2 else a.1 &&& (2 ^ 16 - 1 - 2 ^ a.2)
      (t, 2 * a.2 + right.toNat)) (tree, 1) |>.1

/-- The way a PLRU tree chooses among the ways that `ok` admits; the older half is taken unless it admits none. -/
def plruPick (tree : Nat) (ok : Nat → Bool) : Option Nat :=
  let r := [8, 4, 2, 1].foldl (fun (a : Nat × Nat) half =>
      let anyIn := fun lo => (List.range half).any (fun i => ok (lo + i))
      let right := if tree.testBit a.2 then anyIn (a.1 + half) else !anyIn a.1
      (a.1 + (if right then half else 0), 2 * a.2 + right.toNat)) (0, 1)
  if ok r.1 then some r.1 else none

/-- The victim buffer of a slice, oldest first. -/
def State.victimsOf (s : State) (p : DramPlace) : List Victim := Tab.get [] s.victims (p.stack, p.slice)

/-- The two blocks of a line. -/
def lineBlocks (line : Nat) : List Nat := [2 * line, 2 * line + 1]

/-- A line moved into the victim buffer of its slice: a dirty one is read for its write-back (R347), which is issued and
counted; past 32 entries the oldest is finished (R357). -/
def State.evictLine (s : State) (p : DramPlace) (line : Nat) (l : ScLine) : State :=
  let s := { s with scLines := Tab.erase s.scLines line }
  let s := if l.dirty then (s.meet (lineBlocks line) 2).modReg (.stack p.stack .scwb) (· + 1) else s
  let v := s.victimsOf p ++ [{ line := line, dirty := l.dirty }]
  { s with victims := Tab.set s.victims (p.stack, p.slice) (v.drop (v.length - 32)) }

/-- A line placed in an unlocked way of its set, an empty one if there is one, else the way PLRU chooses, whose line is
evicted; a prefetched line is inserted as least recently used (R353). With every way locked nothing is placed. -/
def State.placeLine (s : State) (p : DramPlace) (line : Nat) (new : ScLine) : State :=
  let ls := s.setLines p
  let tree := Tab.get 0 s.plru (setKey p)
  let free := firstBelow 16 (fun w => !s.wayLocked p.stack w && !ls.any (fun l => l.2.way == w))
  let way := match free with
    | some w => some w
    | none => plruPick tree (fun w => !s.wayLocked p.stack w)
  match way with
  | none => s
  | some w =>
    let s := match ls.find? (fun l => l.2.way == w) with
      | some l => s.evictLine p l.1 l.2
      | none => s
    { s with scLines := Tab.set s.scLines line { new with way := w },
             plru := Tab.set s.plru (setKey p) (if new.pref then plruAge tree w else plruTouch tree w) }

/-- The 128 bytes DRAM holds for a line before it turns dirty. -/
def State.lineBytes (s : State) (line : Nat) : List Byte := (List.range 128).map (fun i => Mem.get s.mem (line * 128 + i))

/-- A clean line. -/
def ScLine.clean : ScLine := { way := 0, dirty := false, pref := false, back := [], backUe := [] }

/-- A line becoming dirty remembers what DRAM holds, and what of it is poisoned; one already dirty keeps what it
remembered. -/
def ScLine.soil (l : ScLine) (dram : List Byte) (ue : List Nat) : ScLine :=
  if l.dirty then l else { l with dirty := true, back := dram, backUe := ue }

/-- One access of a line at its slice (R351 to R357). Called before the bytes of a write change. `counted`: a demand
access that SCHIT and SCMISS count (R166 leaves out the gather engine's run-ahead). -/
def State.scAccess (s : State) (pa : Nat) (write counted : Bool) : State :=
  let p := s.place pa
  let line := lineOf pa
  let soil := fun (l : ScLine) => if write then l.soil (s.lineBytes line) (s.poison.filter (lineBlocks line).contains) else l
  match Tab.find? s.scLines line with
  | some l =>
    let s := if counted then s.modReg (.stack p.stack .schit) (· + 1) else s
    let s := if l.pref then s.bumpHi (.stack p.stack .pfstat) else s
    { s with scLines := Tab.set s.scLines line { soil l with pref := false },
             plru := Tab.set s.plru (setKey p) (plruTouch (Tab.get 0 s.plru (setKey p)) l.way) }
  | none =>
    let vs := s.victimsOf p
    match vs.find? (fun v => v.line == line) with
    | some v =>
      let s := if counted then s.modReg (.stack p.stack .schit) (· + 1) else s
      let s := s.bumpLo (.stack p.stack .scvb)
      if v.dirty ∧ !write then s
      else
        let s := { s with victims := Tab.set s.victims (p.stack, p.slice) (vs.filter (fun v => v.line != line)) }
        (s.bumpHi (.stack p.stack .scvb)).placeLine p line (soil .clean)
    | none =>
      let s := if counted then s.modReg (.stack p.stack .scmiss) (· + 1) else s
      s.placeLine p line (soil .clean)

/-! ### Stride trackers (R354) -/

/-- The key of a stream: tile, context, and gather stream, 64 for accesses outside gather streams (R354). -/
structure StreamKey where
  tile : TileId
  ctx : CtxId
  stream : Nat := 64
  deriving DecidableEq, Repr

/-- The tracker of a slice that a stream hashes to (the hash is free, log 15). -/
def trackerIdx (k : StreamKey) : Nat := Config.trackerHash (tileNum k.tile) k.ctx.val k.stream % 64

/-- A prefetch of one line: not if the line is present; it fills an unlocked way as least recently used, counts in PFSTAT only,
and raises nothing where it meets an error (R348, R353, R354). -/
def State.prefetchLine (s : State) (line : Nat) : State :=
  if (Tab.find? s.scLines line).isSome then s
  else
    let p := s.place (line * 128)
    if (s.victimsOf p).any (fun v => v.line == line) then s
    else ((s.bumpLo (.stack p.stack .pfstat)).meet (lineBlocks line) 0).placeLine p line { ScLine.clean with pref := true }

/-- The demand access of a stream seen by its tracker: after two equal strides, nonzero and at most 2 KiB, up to PFDEPTH
lines along the stride are prefetched within the 4 KiB granule; where they pass its edge the stream is handed to the slice of
the next granule in the stride's direction, if that lies in the same 2 MiB frame (R354). -/
def State.train (s : State) (w : StreamKey) (pa : Nat) : State :=
  let p := s.place pa
  let key := (p.stack, p.slice, trackerIdx w)
  let fresh : Tracker := { tile := w.tile, ctx := w.ctx, stream := w.stream, last := pa, stride := 0, count := 0 }
  match Tab.find? s.trackers key with
  | none => { s with trackers := Tab.set s.trackers key fresh }
  | some k =>
    if k.tile ≠ w.tile ∨ k.ctx ≠ w.ctx ∨ k.stream ≠ w.stream then { s with trackers := Tab.set s.trackers key fresh }
    else
      let d : Int := (pa : Int) - (k.last : Int)
      let n := if d = k.stride then k.count + 1 else 1
      let k' : Tracker := { k with last := pa, stride := d, count := n }
      let s := { s with trackers := Tab.set s.trackers key k' }
      if d ≠ 0 ∧ d.natAbs ≤ 2048 ∧ 2 ≤ n then
        let depth := Word.bits (s.stackReg p.stack .stkcfg) 8 5
        let at_ := fun (i : Nat) => (pa : Int) + d * ((i + 1 : Nat) : Int)
        let within := fun (i : Nat) => decide (0 ≤ at_ i ∧ (at_ i).toNat / 4096 = pa / 4096)
        let s := (List.range depth).foldl (fun (s : State) (i : Nat) =>
          if within i then s.prefetchLine (lineOf (at_ i).toNat) else s) s
        let next := if 0 < d then pa / 4096 + 1 else pa / 4096 - 1
        if (List.range depth).all within ∨ next * 4096 / 0x200000 ≠ pa / 0x200000 ∨ next = pa / 4096 ∨ s.dramTop ≤ next * 4096 then s
        else
          let q := s.place (next * 4096)
          { s with trackers := Tab.set s.trackers (q.stack, q.slice, trackerIdx w) k' }
      else s

/-- An access of `[pa, pa + n)`: in DRAM every line is accessed at its slice, and the stream `who` is seen there (R352, R354); an
access to SRAM reaches its tile. The blocks that it reads are checked (R347). -/
def State.scTouch (s : State) (pa n : Nat) (write : Bool) (counted : Bool := true) (who : Option StreamKey := none) : State :=
  let s := s.meet (blocksRead pa n write) 0
  if pa + n ≤ s.dramTop ∧ 0 < n then
    (List.range (lineOf (pa + n - 1) + 1 - lineOf pa)).foldl (fun (s : State) i =>
      let a := if i = 0 then pa else (lineOf pa + i) * 128
      let s := s.scAccess a write counted
      match who with
      | some w => s.train w a
      | none => s) s
  else s.touchTile pa

/-! ### DRAM accesses -/

/-- A read of DRAM or a tile window (R348, R352): the access, and the bytes of memory; none where it meets a poisoned block. -/
def State.readAt (s : State) (pa n : Nat) (counted : Bool := true) (who : Option StreamKey := none) : Option (List Byte) × State :=
  let s := s.scTouch pa n false counted who
  (if s.poisoned pa n then none else some (s.bytes pa n), s)

/-! ### Rings of gather streams (R153, R158, R159) -/

def gdEpath (b : List Byte) : Bool := (leAt b 0 4).testBit 6
def gdRowu (b : List Byte) : Nat := bitsOf (leAt b 0 4) 20 7
def gdEfu (b : List Byte) : Nat := bitsOf (leAt b 0 4) 27 5
def gdStageoff (b : List Byte) : Nat := leAt b 0x78 3
def gdStagesize (b : List Byte) : Nat := leAt b 0x7B 3

/-- The size of a record (R158), and the records the ring holds (R159). -/
def gdRecord (b : List Byte) : Nat := roundUp (32 + 16 * (gdRowu b + gdEfu b)) 64
def gdRing (b : List Byte) : Nat := gdStagesize b / gdRecord b

/-- The records of the open streams' rings that a program's write touches hold unspecified bytes (R159). -/
def State.spoilRings (s : State) (pa n : Nat) : State :=
  match s.target pa with
  | .sram t off =>
    (s.tile t).streams.foldl (fun (s : State) (p : Nat × Stream) =>
      let d := p.2.desc
      let k := gdRecord d
      let lo := max off (gdStageoff d) - gdStageoff d
      let hi := min (off + n) (gdStageoff d + gdRing d * k) - gdStageoff d
      if gdEpath d ∨ hi ≤ lo then s
      else
        let a := lo / k * k
        let (b, s) := s.freeBytes (roundUp hi k - a)
        s.write (sramPa t (gdStageoff d + a)) b) s
  | _ => s

/-- A write of DRAM or a tile window by any agent but a gather stream: the slice takes the line, and memory takes the bytes
(R30, R159, R348). -/
def State.writeAt (s : State) (pa : Nat) (l : List Byte) (who : Option StreamKey := none) : State :=
  ((s.scTouch pa l.length true true who).write pa l).spoilRings pa l.length

end Sys2Proof.Machine
end

