-- ==== Sys2Proof/Machine/Xlate.lean ====
section
/-! DEFINITION. Address translation (R38 to R45): page-table entries, the walk, the grant, the TLB and the D bit, and the
memory accesses of engines. -/

namespace Sys2Proof.Machine

/-- The kinds of access, by the permission they need (R39). -/
inductive AccKind where
  | fetch | read | write
  deriving DecidableEq, Repr

/-- The cause of a failed control-core access (R44). -/
def XFault.cause : XFault → AccKind → Nat
  | .page, .fetch => 12 | .page, .read => 13 | .page, .write => 15
  | .access, .fetch => 1 | .access, .read => 5 | .access, .write => 7

/-- A page-table entry whose reserved bits are 0 (R39). -/
def pteReservedOk (w : Word) : Bool := !Word.bit w 7 && Word.bits w 10 2 == 0 && Word.bits w 62 2 == 0

/-- A well-formed pointer entry: only V, L and ADDR may be set (R39). -/
def ptePointerOk (w : Word) : Bool := pteReservedOk w && Word.bits w 2 5 == 0 && Word.bits w 8 2 == 0 && Word.bits w 48 14 == 0

/-- A well-formed leaf: MT is not 3, FARDEV is 0 unless MT is 2, and ADDR is aligned to the page (R39, R40). -/
def pteLeafOk (w : Word) (giant : Bool) : Bool :=
  pteReservedOk w && Word.bits w 8 2 != 3 && (Word.bits w 8 2 == 2 || Word.bits w 48 14 == 0)
  && (if giant then Word.bits w 12 18 == 0 else Word.bits w 12 9 == 0)

/-- The outcome of a walk: the leaf, the address it stands at, and whether it is a 1 GiB page. -/
inductive Walk where
  | leaf (pte : Word) (addr : Nat) (giant : Bool)
  | fail (f : XFault)
  deriving DecidableEq, Repr

/-- A page-table entry read through the stack cache (R42, R352). One in a poisoned block raises DRAM_UE, and its content is a free
value (R348, log 4). -/
def State.readPte (s : State) (t : TileId) (pa : Nat) : Word × State :=
  match s.readAt pa 8 with
  | (some b, s) => (BitVec.ofNat 64 (leVal b), s)
  | (none, s) =>
    let r := s.takeFree
    (r.1, r.2.raiseTile t .dramUe { addr := pa, engine := some .walker, found := some 0 })

/-- The walk of the two levels (R42). A table outside local DRAM is an access fault, and nothing is read there; an entry that is
invalid or ill formed is a page fault. -/
def State.walk (s : State) (t : TileId) (va : Nat) : Walk × State :=
  let root := s.tileReg t .jptbase
  if Word.bit root 63 = false then (.fail .page, s)
  else
    let a1 := Word.bits root 0 48 / 0x200000 * 0x200000 + bitsOf va 30 18 * 8
    if s.dramTop ≤ a1 then (.fail .access, s)
    else
      let (e1, s) := s.readPte t a1
      if Word.bit e1 0 = false then (.fail .page, s)
      else if Word.bit e1 1 then (if pteLeafOk e1 true then .leaf e1 a1 true else .fail .page, s)
      else if ptePointerOk e1 = false then (.fail .page, s)
      else
        let a2 := Word.bits e1 12 36 * 4096 + bitsOf va 21 9 * 8
        if s.dramTop ≤ a2 then (.fail .access, s)
        else
          let (e2, s) := s.readPte t a2
          (if Word.bit e2 0 = false ∨ Word.bit e2 1 = false ∨ pteLeafOk e2 false = false then .fail .page else .leaf e2 a2 false, s)

/-- Whether a leaf permits an access (R39): the permission bit, and U. -/
def ptePermits (w : Word) : AccKind → Bool
  | .read => Word.bit w 2 && Word.bit w 5
  | .write => Word.bit w 3 && Word.bit w 5
  | .fetch => Word.bit w 4 && Word.bit w 5

/-- Whether a job slot's grant map holds a DRAM address, in a die's translation block (R38). -/
def State.granted (s : State) (d : DieId) (j : JSlot) (pa : Nat) : Bool :=
  let g := pa / 2 ^ 30
  Word.bit (s.dieReg d (.grant j (Fin.ofNat 24 (g / 64)))) (g % 64) && decide (g < 1536)

/-- The die whose tile, dealer or die block an address of register space lies in (R38). -/
def regBlockDie (pa : Nat) : Option DieId :=
  let o := pa - 0x030000000000
  if o < 0x40000000 then (tileOf? (o / 0x100000)).map (·.die)
  else if o < 0x50000000 then (quadOf? ((o - 0x40000000) / 0x10000)).map (·.die)
  else if 0x80000000 ≤ o ∧ o < 0x84000000 then some (Fin.ofNat 4 ((o - 0x80000000) / 0x1000000))
  else none

/-- Whether the target of a leaf lies in the job's grant and suits its memory type (R38, R40). -/
def State.targetGranted (s : State) (t : TileId) (mt pa : Nat) : Bool :=
  let j := s.jslot t
  match s.target pa with
  | .dram => mt == 0 && s.granted t.die j pa
  | .sram u _ => mt == 0 && s.owner u == some j
  | .reg _ => mt == 1 && (match regBlockDie pa with
    | some d => Word.bit (s.tileReg t .mjob) (16 + d.val)
    | none => false)
  | .unmapped => false

/-- The physical address of a virtual one under a leaf. -/
def leafPa (pte : Word) (giant : Bool) (va : Nat) : Nat :=
  if giant then Word.bits pte 30 18 * 2 ^ 30 + va % 2 ^ 30 else Word.bits pte 21 27 * 2 ^ 21 + va % 2 ^ 21

/-- A translation: the address, the memory type, and the peer device of a far page; or why it failed. -/
inductive Xl where
  | ok (pa : Nat) (mt : Nat) (far : Option (BitVec 14))
  | fail (f : XFault)
  deriving DecidableEq, Repr

/-- The TLB entry that covers an address. -/
def Tile.tlbFind (T : Tile) (j : JSlot) (va : Nat) : Option TlbEntry :=
  T.tlb.find? (fun e => e.slot == j && (if e.giant then e.vpn == va / 2 ^ 30 else e.vpn == va / 2 ^ 21))

/-- A tile with a leaf in its TLB of 512 entries, in place of any entry for the same page (R42). -/
def Tile.tlbFill (T : Tile) (e : TlbEntry) : Tile :=
  { T with tlb := (e :: T.tlb.filter (fun o => !(o.slot == e.slot && o.giant == e.giant && o.vpn == e.vpn))).take 512 }

/-- Whether an address lies in an area carved from a tile: no U-mode write reaches it (R370). -/
def State.carvedAt (s : State) (pa : Nat) : Bool :=
  match s.target pa with
  | .sram t off => s.inCarved t off 1
  | _ => false

/-- The translation a leaf gives, once its permission and grant are checked (R38 to R40, R44). -/
def State.useLeaf (s : State) (t : TileId) (pte : Word) (giant : Bool) (va : Nat) (acc : AccKind) : Xl :=
  if ptePermits pte acc = false then .fail .page
  else
    let pa := leafPa pte giant va
    let mt := Word.bits pte 8 2
    if mt = 2 then .ok pa 2 (some (BitVec.ofNat 14 (Word.bits pte 48 14)))
    else if acc = AccKind.write ∧ s.carvedAt pa then .fail .access
    else if s.targetGranted t mt pa then .ok pa mt none
    else .fail .access

/-- Whether a TLB entry is used for an address: where the tables in memory no longer give it, the tile may use the old entry or
the new one, as a free value decides (R43). -/
def State.tlbUses (s : State) (t : TileId) (va : Nat) (e : TlbEntry) : Bool × State :=
  match (s.walk t va).1 with
  | .leaf pte _ giant =>
    if pte = e.pte ∧ giant = e.giant then (true, s) else (Config.free s.free % 2 == 0, { s with free := s.free + 1 })
  | .fail _ => (Config.free s.free % 2 == 0, { s with free := s.free + 1 })

/-- The TLB entry that an access uses, if any; a write through a leaf with D clear walks again (R41, R43). -/
def State.tlbHit (s : State) (t : TileId) (va : Nat) (acc : AccKind) : Option TlbEntry × State :=
  match (s.tile t).tlbFind (s.jslot t) va with
  | some e =>
    if acc = AccKind.write ∧ Word.bit e.pte 6 = false then (none, s)
    else
      match s.tlbUses t va e with
      | (true, s) => (some e, s)
      | (false, s) => (none, s)
  | none => (none, s)

/-- The translation of a virtual address for a tile's job: by the TLB, else by a walk that fills it; a write through a
leaf with D clear sets D in memory first, where `mark` says that a write follows (R41, R42, R44). -/
def State.translate (s : State) (mark : Bool) (t : TileId) (va : Nat) (acc : AccKind) : Xl × State :=
  let j := s.jslot t
  if 2 ^ 48 ≤ va then (.fail .page, s)
  else if Word.bit (s.tileReg t .jptbase) 63 = false then (.fail .page, s)
  else
    match s.tlbHit t va acc with
    | (some e, s) => (s.useLeaf t e.pte e.giant va acc, s)
    | (none, s) =>
      match s.walk t va with
      | (.fail f, s) => (.fail f, s)
      | (.leaf pte addr giant, s) =>
        match s.useLeaf t pte giant va acc with
        | .fail f => (.fail f, s)
        | .ok pa mt far =>
          let dirty := mark && decide (acc = AccKind.write) && !Word.bit pte 6
          let pte' := if dirty then Word.setBit pte 6 true else pte
          let s := if dirty then s.writeAt addr (leBytes 1 (Word.bits pte' 0 8)) else s
          let e : TlbEntry := { slot := j, giant := giant, vpn := va / (if giant then 2 ^ 30 else 2 ^ 21), pte := pte' }
          (.ok pa mt far, s.modTile t (fun T => T.tlbFill e))

/-- The address an access of a context names: physical in M-mode (R28), translated in U-mode. `mark`: a write of it sets D. -/
def State.addrWith (s : State) (mark : Bool) (t : TileId) (p : Priv) (va : Nat) (acc : AccKind) : Xl × State :=
  match p with
  | .u => s.translate mark t va acc
  | .m =>
    match s.target va with
    | .unmapped => (.fail .access, s)
    | .reg _ => (.ok va 1 none, s)
    | _ => (.ok va 0 none, s)
def State.addrOf (s : State) (t : TileId) (p : Priv) (va : Nat) (acc : AccKind) : Xl × State := s.addrWith true t p va acc

/-- The leaf of an SC's address where its D is clear: an SC that fails is no write and sets no D (R30, R41). -/
def State.scLeaf (s : State) (t : TileId) (p : Priv) (k : MemKind) (va : Nat) : Option Nat :=
  match p, k, (s.walk t va).1 with
  | .u, .sc _, .leaf pte addr _ => if Word.bit pte 6 then none else some addr
  | _, _, _ => none

/-- D set in a leaf by an atomic OR at the stack cache (R41). -/
def State.setD (s : State) (leaf : Option Nat) : State :=
  match leaf with
  | some a => s.writeAt a (leBytes 1 ((s.byte a).toNat ||| 0x40))
  | none => s

/-- The address of a scalar access: a store or an AMO sets D, an SC not yet (R30, R41). -/
def State.accessAddr (s : State) (t : TileId) (p : Priv) (k : MemKind) (va : Nat) : Xl × State :=
  s.addrWith (match k with | .sc _ => false | _ => true) t p va (match k with | .load _ _ => .read | .lr _ => .read | _ => .write)

/-! ### Engine accesses (R45, R566) -/

/-- Why an engine access stops: its translation or target is no engine's (ENGINE_XLATE, with the address and the kind), or it consumes
poison (R348, with the physical address and whether it lies in DRAM). -/
inductive EFault where
  | xlate (va : Nat) (kind : XFault)
  | poison (pa : Nat) (dram : Bool)
  deriving DecidableEq, Repr

/-- The job fault of an engine access that fails (R45, R348); `i` names the engine and what its chapter has the record give. -/
def State.raiseEngine (s : State) (t : TileId) (c : Option CtxId) (f : EFault) (i : FaultInfo) : State :=
  match f with
  | .xlate va kind => s.raiseTile t .engineXlate { i with ctx := c, addr := va, kind := some kind }
  | .poison pa dram => s.raiseTile t (if dram then .dramUe else .sramUe) { i with ctx := c, addr := pa, found := some 0 }

/-- Where an engine's access of one page goes: local memory, or a far page; register space is no engine's (R167). A write sets
D (R41). -/
def State.engineAddr (s : State) (t : TileId) (p : Priv) (va : Nat) (acc : AccKind) : Except EFault (Nat × Option (BitVec 14)) × State :=
  match s.addrWith false t p va acc with
  | (.fail f, u) => (.error (.xlate va f), u)
  | (.ok pa mt far, u) =>
    if mt = 1 then (.error (.xlate va .access), u) else (.ok (pa, far), if acc = .write then (s.addrOf t p va acc).2 else u)

/-- A range cut at 4 KiB bounds, at which translations and carved areas end: pairs of address and length. `fuel` bounds the
pieces. -/
def pagePieces : Nat → Nat → Nat → List (Nat × Nat)
  | 0, _, _ => []
  | fuel + 1, va, n =>
    if n = 0 then []
    else
      let k := min n (0x1000 - va % 0x1000)
      (va, k) :: pagePieces fuel (va + k) (n - k)

/-- The pieces of a range of at most a few pages. -/
def pieces (va n : Nat) : List (Nat × Nat) := pagePieces (n / 0x1000 + 2) va n

/-- For whom an engine accesses memory: the context, the access's place in program order, the suit of the task (R363), and the
gather stream that the stride trackers see (R354). -/
structure FarBy where
  ctx : Option CtxId
  seq : Nat
  suit : Suit
  stream : Nat := 64
  deriving DecidableEq, Repr

/-- An operation header whose XID names the asking tile and, in its low six bits, the context (63: none); XSEQ is 0 for a
scalar access, 1 for an engine's (the spec leaves these fields of far packets open; log 42). -/
def farHdr (t : TileId) (ctx : Option CtxId) (engine : Bool) (addr sub vid : Nat) : OpHdr :=
  { addr := addr, sub := sub, xid := tileOrd t * 64 + (match ctx with | some c => c.val | none => 63), xseq := engine.toNat,
    vid := vid }

/-- The stream of an engine's accesses (R354). -/
def FarBy.key (fb : FarBy) (t : TileId) : Option StreamKey := fb.ctx.map (fun c => { tile := t, ctx := c, stream := fb.stream })

/-- A far request of a tile, routed by its link die (R363, R399): pinned, in the class of the task. -/
def State.farRequest (s : State) (t : TileId) (pt : BitVec 6) (suit : Suit) (dev : BitVec 14) (h : OpHdr) (data : List Byte) :
    State :=
  s.inject t.die (s.packet t.die pt suit false true (s.jslot t) (s.tileEpoch t) dev (ohBytes h ++ data))

/-- A far access awaited. -/
def State.farWait (s : State) (w : FarWait) : State := { s with farWaits := s.farWaits ++ [w] }

/-- The requests of a gather stream that are in flight, and those of every stream of a tile (R177, R179). -/
def State.streamOut (s : State) (t : TileId) (n : Nat) : Nat :=
  (s.farWaits.filter (fun w => w.tile == t && w.stream == n)).foldl (fun a w => a + w.reqs) 0
def State.gOutNow (s : State) (t : TileId) : Nat :=
  (s.farWaits.filter (fun w => w.tile == t && decide (w.stream < 64))).foldl (fun a w => a + w.reqs) 0

/-- A far access that has its reply; an aborted stream whose last request this was becomes free (R162). -/
def State.farReturned (s : State) (p : FarWait → Bool) : State :=
  match s.farWaits.find? p with
  | none => s
  | some w =>
    let s := { s with farWaits := eraseFirst p s.farWaits }
    match Tab.find? (s.tile w.tile).streams w.stream with
    | some x => if x.aborted ∧ s.streamOut w.tile w.stream = 0 then
        s.modTile w.tile (fun T => { T with streams := Tab.erase T.streams w.stream }) else s
    | none => s

/-- An engine's read of a far range: FARRD packets for the 16-byte units that hold it, up to 256 bytes each, each awaited
(R363, R366). The data they bring is handed to the reading operation by its command. -/
def State.farReads (s : State) (t : TileId) (fb : FarBy) (dev : BitVec 14) (pa n : Nat) : State :=
  let lo := pa / 16 * 16
  let total := roundUp (pa + n - lo) 16
  (List.range (ceilDiv total 256)).foldl (fun s i =>
    let k := min 256 (total - 256 * i)
    let s := s.farWait { tile := t, ctx := fb.ctx, seq := fb.seq, dev := dev, write := false, suit := fb.suit, pa := lo + 256 * i,
                         stream := fb.stream, reqs := ceilDiv k 64 }
    s.farRequest t ptFarrd fb.suit dev (farHdr t fb.ctx true (lo + 256 * i) (k / 16 - 1) 0) []) s

/-- An engine's write of a far range: FARWR packets, each awaited (R363, R366). -/
def State.farWrites (s : State) (t : TileId) (fb : FarBy) (dev : BitVec 14) (pa : Nat) (l : List Byte) : State :=
  (List.range (ceilDiv l.length 16)).foldl (fun s i =>
    let s := s.farWait { tile := t, ctx := fb.ctx, seq := fb.seq, dev := dev, write := true, suit := fb.suit, pa := pa + 16 * i }
    s.farRequest t ptFarwr fb.suit dev
      (farHdr t fb.ctx true (pa + 16 * i) 0 (2 ^ (min 16 (l.length - 16 * i)) - 1)) (padTo 16 (slice l (16 * i) 16))) s

/-- What an engine read gives: the bytes, and what is left of the data that peers returned for far pages. -/
structure ERead where
  data : List Byte
  far : List Byte

/-- An engine's read of a virtual range. Bytes of far pages come from `far`, the data the peers' replies brought
(R363). -/
def State.engineRead (s : State) (t : TileId) (p : Priv) (fb : FarBy) (va n : Nat) (far : List Byte) (counted : Bool := true) :
    Except EFault ERead × State :=
  (pieces va n).foldl (fun (a : Except EFault ERead × State) (pc : Nat × Nat) =>
    match a.1 with
    | .error f => (.error f, a.2)
    | .ok r =>
      match a.2.engineAddr t p pc.1 .read with
      | (.error f, s) => (.error f, s)
      | (.ok (pa, none), s) =>
        (match s.readAt pa pc.2 counted (fb.key t) with
          | (none, s) => (.error (.poison pa (decide (pa < s.dramTop))), s)
          | (some b, s) => (.ok { r with data := r.data ++ b }, s))
      | (.ok (pa, some dev), s) =>
        (.ok { r with data := r.data ++ padTo pc.2 (r.far.take pc.2), far := r.far.drop pc.2 }, s.farReads t fb dev pa pc.2))
    (.ok { data := [], far := far }, s)

/-- An engine's write of a virtual range (R45, R348, R363). Each piece is translated before any byte of it is written. -/
def State.engineWrite (s : State) (t : TileId) (p : Priv) (fb : FarBy) (va : Nat) (l : List Byte) :
    Except EFault Unit × State :=
  (pieces va l.length).foldl (fun (a : Except EFault Unit × State) (pc : Nat × Nat) =>
    match a.1 with
    | .error f => (.error f, a.2)
    | .ok _ =>
      let part := slice l (pc.1 - va) pc.2
      match a.2.engineAddr t p pc.1 .write with
      | (.error f, s) => (.error f, s)
      | (.ok (pa, none), s) => (.ok (), s.writeAt pa part (fb.key t))
      | (.ok (pa, some dev), s) =>
        (.ok (), s.farWrites t fb dev pa part))
    (.ok (), s)

end Sys2Proof.Machine
end

