-- ==== Sys2Proof/Machine/Issue.lean ====
section
/-! DEFINITION. The issue of an instruction by a context (R32, R33): what every context command checks first, the binding of a
vector context (R34 to R36), and engine queues. -/

namespace Sys2Proof.Machine

/-- Whether a context can issue: READY, not halted by a job stop (R448), no victim of a pre-emption (R134), on a tile
that has power, clocks and is not excluded. -/
def State.canIssue (s : State) (c : CtxRef) : Bool :=
  let k := s.ctx c
  let T := s.tile c.tile
  s.computeOn && !s.tileExcl c.tile && !T.folded && k.st == .ready && !k.halted
    && (match T.pre with | some p => p.victim != c.ctx | none => true)

/-- The lines of an instruction cache of 32 KiB (R19). Its line of 64 bytes is PRESUMED (log 69). -/
def icacheLines : Nat := 512

/-- A line that the tile's instruction cache lacks fetched into it: from DRAM through the stack cache (R352), from a far page by a
far request (R363). A poisoned block is consumed (R348). A full cache loses a line that a free value picks (log 69). -/
def State.fetchLine (s : State) (c : CtxRef) (far : Option (BitVec 14)) (line : Nat) : State :=
  if (s.tile c.tile).icache.contains (far, line) then s
  else
    let s := match far with
      | some dev => s.farReads c.tile { ctx := some c.ctx, seq := (s.tile c.tile).seq, suit := (s.ctx c).suit } dev (64 * line) 64
      | none => (match s.readAt (64 * line) 64 true (some { tile := c.tile, ctx := c.ctx }) with
        | (none, s) => s.raiseTile c.tile .dramUe { ctx := some c.ctx, addr := 64 * line, found := some 0 }
        | (some _, s) => s)
    let l := (s.tile c.tile).icache
    if l.length < icacheLines then s.modTile c.tile (fun T => { T with icache := (far, line) :: T.icache })
    else
      let (v, s) := s.pick l
      s.modTile c.tile (fun T => { T with icache := (far, line) :: T.icache.filter (fun x => some x != v) })

/-- The bytes of an instruction fetched at an address: tile SRAM is not cached (R343), nor is register space. -/
def State.fetchAt (s : State) (c : CtxRef) (far : Option (BitVec 14)) (pa n : Nat) : State :=
  if n = 0 then s
  else if far.isSome ∨ pa < s.dramTop then
    (List.range ((pa + n - 1) / 64 + 1 - pa / 64)).foldl (fun (s : State) i => s.fetchLine c far (pa / 64 + i)) s
  else
    match s.target pa with
    | .sram t _ => (match s.readAt pa n with
      | (none, s) => s.raiseTile t .sramUe { ctx := some c.ctx, addr := pa, found := some 0 }
      | (some _, s) => s)
    | _ => s

/-- The fetch of an instruction at the pc: its parcels are translated, a fault answered with its address (R44), and its bytes
fetched. -/
def State.fetch (s : State) (c : CtxRef) (n : Nat) : Option (XFault × Nat) × State :=
  let k := s.ctx c
  let pc := k.pc.toNat
  match s.addrOf c.tile k.priv pc .fetch with
  | (.fail f, s) => (some (f, pc), s)
  | (.ok pa _ far, s) =>
    let last := (pc + n - 2) % 2 ^ 64
    if last / 0x200000 = pc / 0x200000 then (none, s.fetchAt c far pa n)
    else
      let next := last / 0x200000 * 0x200000
      match s.addrOf c.tile k.priv last .fetch with
      | (.fail f, s) => (some (f, next), s)
      | (.ok pa2 _ far2, s) =>
        (none, (s.fetchAt c far pa (next - pc)).fetchAt c far2 (pa2 - last % 0x200000) (pc + n - next))

/-- An instruction of `n` bytes issued by a context: without effect where the context cannot issue; a fetch that fails
takes its exception instead (R44). -/
def State.issue (s : State) (c : CtxRef) (n : Nat) (f : State → State) : State :=
  if s.canIssue c then
    match s.fetch c n with
    | (some (x, va), s) => s.exception c (x.cause .fetch) (BitVec.ofNat 64 va)
    | (none, s) => f s
  else s

/-! ### Vector contexts -/

/-- A vector context of a tile. -/
def Tile.vctx (T : Tile) (v : VctxId) : VCtx := Tab.get VCtx.reset T.vctxs v
def State.vctx (s : State) (t : TileId) (v : VctxId) : VCtx := (s.tile t).vctx v

/-- The state with a vector context replaced by a function of it. -/
def State.modVctx (s : State) (t : TileId) (v : VctxId) (f : VCtx → VCtx) : State :=
  s.modTile t fun T => { T with vctxs := Tab.set T.vctxs v (f (T.vctx v)) }

/-- A bind of a vector context: cleared, and owned by a context, whose rd gets the index (R34, R35). -/
def State.bindTo (s : State) (c : CtxRef) (v : VctxId) (rd : XReg) : State :=
  let s := { s with free := s.free + 1 }.modVctx c.tile v (fun _ => { VCtx.reset with owner := some c.ctx })
  s.modCtx c fun k => { (k.setX rd (BitVec.ofNat 64 v.val)).retire 4 with vctx := some v, st := .ready, stall := .none }

/-- The free vector contexts of a tile, and the one that a bind takes: the spec lets any be bound (R34, log 22). -/
def State.freeVctxs (s : State) (t : TileId) : List VctxId := (List.finRange 4).filter (fun v => (s.vctx t v).owner == none)
def State.freeVctx (s : State) (t : TileId) : Option VctxId := s.choose 0 (s.freeVctxs t)

/-- Waiting contexts served in order while vector contexts are free (R34). -/
def State.serveBinders : Nat → State → TileId → State
  | 0, s, _ => s
  | n + 1, s, t =>
    match (s.tile t).bindq, s.freeVctx t with
    | b :: rest, some v =>
      State.serveBinders n ((s.modTile t fun T => { T with bindq := rest }).bindTo { tile := t, ctx := b.ctx } v b.rd) t
    | _, _ => s

/-- A binding released: its staged image is discarded (R228), the vector context is free, and a waiting context gets it. -/
def State.unbind (s : State) (c : CtxRef) : State :=
  match (s.ctx c).vctx with
  | some v =>
    let s := if (s.vctx c.tile v).staged = none then s else s.bumpHi (.tile c.tile .mxra)
    let s := s.modVctx c.tile v (fun _ => VCtx.reset)
    (s.modCtx c (fun k => { k with vctx := none })).serveBinders 4 c.tile
  | none => s

/-- An instruction put into a vector context's engine queue with the configuration it captures (R188, R213). -/
def State.pushV (s : State) (c : CtxRef) (v : VctxId) (op : VOp) : State :=
  let seq := (s.tile c.tile).seq
  let p := (s.ctx c).priv
  let s := s.modTile c.tile (fun T => { T with seq := T.seq + 1 })
  s.modVctx c.tile v fun V =>
    { V with queue := V.queue ++ [{ seq := seq, priv := p, op := op, vcfg := V.vcfg, vlr := V.vlr, vlc := V.vlc, epicfg := V.epicfg }] }

/-- A vector or matrix instruction of `n` bytes issued: cause 2 without a binding or where its encoding is reserved; a
full queue stalls the context (R36, R213). `wait`: the context waits for the result (VSUM). -/
def State.issueV (s : State) (c : CtxRef) (n bits : Nat) (wait : Bool) (mk : VCtx → Option VOp) : State :=
  s.issue c n fun s =>
    match (s.ctx c).vctx with
    | none => s.illegal c bits
    | some v =>
      let V := s.vctx c.tile v
      match mk V with
      | none => s.illegal c bits
      | some op =>
        if 16 ≤ V.queue.length then s.stallRetry c
        else
          let s := s.pushV c v op
          if wait then s.stallResult c else s.retire c n

end Sys2Proof.Machine
end

