-- ==== Sys2Proof/Machine/Desc.lean ====
section
/-! DEFINITION. Memory that an instruction names by a virtual address and that is translated at issue (R44, R206): rows of
bytes, and the descriptors that engine instructions read (R104, R153, R224, R255). -/

namespace Sys2Proof.Machine

/-- Why a transfer takes an exception at issue: its cause and the address. -/
structure RowFault where
  cause : Nat
  va : Nat
  deriving DecidableEq, Repr

/-- One row translated: its pieces, or the exception it takes (R206). `mark`: a write of it sets D (R41). -/
def State.rowWith (s : State) (mark : Bool) (t : TileId) (p : Priv) (va n : Nat) (acc : AccKind) :
    Except RowFault (List RowPiece) × State :=
  (pieces va n).foldl (fun (a : Except RowFault (List RowPiece) × State) (pc : Nat × Nat) =>
    match a.1 with
    | .error f => (.error f, a.2)
    | .ok l =>
      match a.2.addrWith mark t p pc.1 acc with
      | (.fail f, s) => (.error { cause := f.cause acc, va := pc.1 }, s)
      | (.ok pa mt far, s) =>
        if mt = 1 then (.error { cause := XFault.access.cause acc, va := pc.1 }, s)
        else (.ok (l ++ [{ pa := pa, len := pc.2, far := far }]), s)) (.ok [], s)

def State.rowPieces (s : State) (t : TileId) (p : Priv) (va n : Nat) (acc : AccKind) : Except RowFault (List RowPiece) × State :=
  s.rowWith true t p va n acc

/-- Every row of a transfer translated, in row order (R206). -/
def State.rowsWith (s : State) (mark : Bool) (t : TileId) (p : Priv) (base stride n : Nat) (acc : AccKind) : Nat →
    Except RowFault (List (List RowPiece)) × State
  | 0 => (.ok [], s)
  | k + 1 =>
    match State.rowsWith s mark t p base stride n acc k with
    | (.error f, s) => (.error f, s)
    | (.ok l, s) =>
      match s.rowWith mark t p ((base + k * stride) % 2 ^ 64) n acc with
      | (.error f, s) => (.error f, s)
      | (.ok r, s) => (.ok (l ++ [r]), s)

/-- The rows of a transfer: a VST that takes an exception writes nothing, so it sets no D (R41, R206). -/
def State.rowsOf (s : State) (t : TileId) (p : Priv) (base stride n : Nat) (acc : AccKind) (rows : Nat) :
    Except RowFault (List (List RowPiece)) × State :=
  match s.rowsWith false t p base stride n acc rows with
  | (.ok l, u) => if acc = .write then s.rowsWith true t p base stride n acc rows else (.ok l, u)
  | r => r

/-- The bytes of a transfer's rows; far pieces take theirs from the peers' data. Poison is a job fault (R206, R348). -/
def State.readRows (s : State) (t : TileId) (fb : FarBy) (rows : List (List RowPiece)) (far : List Byte) :
    Except EFault (List (List Byte)) × State :=
  let r := rows.foldl (fun (a : Except EFault (List (List Byte) × List Byte) × State) row =>
    row.foldl (fun (b : Except EFault (List (List Byte) × List Byte) × State) (p : RowPiece) =>
      match b.1 with
      | .error e => (.error e, b.2)
      | .ok (l, far) =>
        let add := fun (x : List Byte) => match l.reverse with
          | [] => [x]
          | y :: t => (t.reverse ++ [y ++ x])
        match p.far with
        | some dev => (.ok (add (padTo p.len (far.take p.len)), far.drop p.len), b.2.farReads t fb dev p.pa p.len)
        | none =>
          match b.2.readAt p.pa p.len true (fb.key t) with
          | (none, s) => (.error (.poison p.pa (decide (p.pa < s.dramTop))), s)
          | (some x, s) => (.ok (add x, far), s))
      (match a.1 with
        | .error e => (.error e, a.2)
        | .ok (l, far) => (.ok (l ++ [[]], far), a.2))) (.ok ([], far), s)
  match r.1 with
  | .error e => (.error e, r.2)
  | .ok (l, _) => (.ok l, r.2)

/-- What the read of a descriptor at issue gives: an exception, an engine's fault, or the bytes. -/
inductive DescRead where
  | trap (cause va : Nat)
  | fault (e : EFault)
  | ok (l : List Byte)
  deriving DecidableEq, Repr

/-- A descriptor of `n` bytes read at issue by a context: misaligned takes cause 4, a failed translation the exceptions
of R44. Bytes of a far page come from `far`. -/
def State.readDesc (s : State) (c : CtxRef) (va n align : Nat) (far : List Byte) : DescRead × State :=
  if va % align ≠ 0 then (.trap 4 va, s)
  else
    match s.rowPieces c.tile (s.ctx c).priv va n .read with
    | (.error e, s) => (.trap e.cause e.va, s)
    | (.ok ps, s) =>
      match s.readRows c.tile { ctx := some c.ctx, seq := (s.tile c.tile).seq, suit := (s.ctx c).suit } [ps] far with
      | (.error e, s) => (.fault e, s)
      | (.ok l, s) => (.ok (l.headD []), s)

/-- A descriptor's read for an engine followed by its use: the exception is taken; an engine's fault is raised and the
instruction retires without further effect. -/
def State.withDesc (_s : State) (c : CtxRef) (n : Nat) (e : Engine) (va : Nat) (r : DescRead × State) (f : State → List Byte → State) :
    State :=
  match r.1 with
  | .trap cause va => r.2.exception c cause (BitVec.ofNat 64 va)
  | .fault x => (r.2.raiseEngine c.tile (some c.ctx) x { engine := some e, desc := some va }).retire c n
  | .ok l => f r.2 l

/-- Whether an instruction of a context may name class 0 in a descriptor or a send (R75, R76). -/
def State.spadesOk (s : State) (c : CtxRef) : Bool :=
  (s.ctx c).priv == .m || Word.bit (s.tileReg c.tile .meldjob) 0

end Sys2Proof.Machine
end

