-- ==== Sys2Proof/Machine/Order.lean ====
section
/-! DEFINITION. What of a context's earlier work is still to be performed (R48 to R50): scalar accesses, vector and matrix
accesses, far accesses without a reply, table operations. -/

namespace Sys2Proof.Machine

/-- The class of an engine operation (R48): 1 vector, 2 matrix; none for one that touches no memory. -/
def VOp.cls : VOp → Option Nat
  | .load _ _ _ => some 1
  | .store _ _ _ => some 1
  | .mmad _ => some 2
  | .eprun _ _ _ _ => some 2
  | _ => none

/-- Whether an engine operation may write memory. -/
def VOp.writes : VOp → Bool
  | .store _ _ _ => true
  | .mmad _ => true
  | .eprun _ _ _ _ => true
  | _ => false

/-- The engine queue of a context's bound vector context. -/
def State.ownQueue (s : State) (c : CtxRef) : List VQ :=
  match (s.ctx c).vctx with
  | some v => (s.vctx c.tile v).queue
  | none => []

/-- Whether a context has a scalar access before a place in program order. -/
def State.scalarBefore (s : State) (c : CtxRef) (seq : Nat) : Bool :=
  (s.tile c.tile).memq.any (fun o => o.ctx == c.ctx && decide (o.seq < seq))

/-- Whether an engine operation of a class, or of any with memory accesses, is queued before a place in program order. -/
def State.engineBefore (s : State) (c : CtxRef) (seq : Nat) (p : VOp → Bool) : Bool :=
  (s.ownQueue c).any (fun q => decide (q.seq < seq) && p q.op)

/-- Whether a far access of a context's engines waits for its reply. -/
def State.farBefore (s : State) (c : CtxRef) (seq : Nat) : Bool :=
  s.farWaits.any (fun w => w.tile == c.tile && w.ctx == some c.ctx && decide (w.seq < seq))

/-- Whether a table operation of a context is in flight, or a far access of one without its reply: its accesses are class B
(R48). -/
def State.tableBefore (s : State) (c : CtxRef) (seq : Nat) : Bool :=
  s.tbl.ops.any (fun o => o.tile == c.tile && o.ctx == c.ctx && o.held.isNone && decide (o.seq < seq))
    || s.farWaits.any (fun w => w.tile == c.tile && w.stream == tableKey c.ctx.val && decide (w.seq < seq))

/-- The table operations of a context go with it into its save record and out of it, their far accesses too (R138). -/
def State.holdTable (s : State) (t : TileId) (old new : Nat) (x : TblSt) : State :=
  { s with tbl := x, farWaits := s.farWaits.map (fun w => if w.tile = t ∧ w.stream = old then { w with stream := new } else w) }

/-- Whether every write that a context issued before a place in program order is performed, in every class: the release of R50. -/
def State.released (s : State) (c : CtxRef) (seq : Nat) : Bool :=
  !s.scalarBefore c seq && !s.engineBefore c seq VOp.writes && !s.farBefore c seq && !s.tableBefore c seq

/-- Whether every access that a context issued so far is performed (R154, R324). -/
def State.allPerformed (s : State) (c : CtxRef) : Bool :=
  let seq := (s.tile c.tile).seq
  !s.scalarBefore c seq && !s.engineBefore c seq (fun o => o.cls.isSome) && !s.farBefore c seq && !s.tableBefore c seq

/-- Whether every engine operation that a context issued has completed (R49): its vector context's queue, its sends and
transfers, and far accesses. -/
def State.enginesDrained (s : State) (c : CtxRef) : Bool :=
  let T := s.tile c.tile
  s.ownQueue c == [] && !T.tokq.any (fun q => q.ctx == some c.ctx) && !T.xfers.any (fun x => x.ctx == c.ctx)
    && !s.farBefore c T.seq

end Sys2Proof.Machine
end

