-- ==== Sys2Proof/Machine/Grid.lean ====
section
/-! DEFINITION. What the vector instructions compute (R183 to R207): a function of the register file and of the configuration
captured at issue. Programs of prologues and epilogues execute the same functions (R250). -/

namespace Sys2Proof.Machine

/-- The configuration an instruction captured at issue (R188). -/
structure VCap where
  vcfg : Word
  vlr : Word
  vlc : Word
  deriving DecidableEq, Repr

def VCap.rows (k : VCap) : Nat := Word.bits k.vlr 0 6
def VCap.cols (k : VCap) : Nat := Word.bits k.vlc 0 6
def VCap.msel (k : VCap) : Nat := 20 + Word.bits k.vcfg 2 3
def VCap.mz (k : VCap) : Bool := Word.bit k.vcfg 5
def VCap.isat (k : VCap) : Bool := Word.bit k.vcfg 6

/-- The positions inside VLR × VLC, row-major. -/
def VCap.positions (k : VCap) : List (Nat × Nat) :=
  (List.range k.rows).flatMap (fun r => (List.range k.cols).map (fun c => (r, c)))

/-- The mask of an instruction: all ones when M = 0 (R187). -/
def VFile.maskOf (v : VFile) (k : VCap) (m : Bool) : Nat := if m then v.mask k.msel else 2 ^ 1024 - 1

/-- Whether a position is selected by a mask (R186). -/
def selected (mask : Nat) (p : Nat × Nat) : Bool := mask.testBit (p.1 * 32 + p.2)

/-- The active positions of an instruction (R187). -/
def VFile.active (v : VFile) (k : VCap) (m : Bool) : List (Nat × Nat) :=
  let mask := v.maskOf k m
  k.positions.filter (selected mask)

/-- What an instruction writes to a grid: results at the active positions, zeros at the masked-off ones under MZ; and the
VSTAT bits the active ones set (R187). -/
def VFile.results (v : VFile) (k : VCap) (m : Bool) (f : Nat × Nat → Res) : List ((Nat × Nat) × Nat) × Nat :=
  let mask := v.maskOf k m
  k.positions.foldr (fun p a =>
    if selected mask p then let r := f p; ((p, r.bits) :: a.1, a.2 ||| r.flags)
    else if k.mz then ((p, 0) :: a.1, a.2)
    else a) ([], 0)

/-- A mask register's bits with results written (R187, R191). -/
def maskWrite (old : Nat) (l : List ((Nat × Nat) × Nat)) : Nat :=
  l.foldl (fun a e =>
    let i := e.1.1 * 32 + e.1.2
    if e.2 % 2 = 1 then a ||| 2 ^ i else if a.testBit i then a - 2 ^ i else a) old

/-! ### Element operations -/

/-- Whether a binary operation writes a Q register (R191). -/
def isCompare (op f : Nat) : Bool :=
  op == 9 || op == 10 || (op == 8 && decide (f ≤ 5)) || (op == 11 && decide (f ≤ 4))

/-- A truth value as a result. -/
def resBool (b : Bool) : Res := Res.ok b.toNat

/-- A binary operation on float elements; `d` is the element of rd (R191, R193). -/
def floatBin (g : FFmt) (op a b d : Nat) : Res :=
  let x := g.decode a
  let y := g.decode b
  match op with
  | 0 => g.add a b
  | 1 => g.sub a b
  | 2 => g.mul a b
  | 3 => g.fma a b d
  | 4 => Res.ok (g.minMax false a b)
  | 5 => Res.ok (g.minMax true a b)
  | 6 => g.div a b
  | 7 => Res.ok (g.sgnj a b)
  | 8 => resBool (eqVal x y)
  | 9 => resBool (ltVal x y)
  | 10 => resBool (ltVal x y || eqVal x y)
  | _ => resBool (x == .nan || y == .nan)

/-- A binary operation on signed elements (R191, R194). -/
def signedBin (w : Nat) (isat : Bool) (op a b d : Nat) : Res :=
  let x := signed w a
  let y := signed w b
  match op with
  | 0 => putWrap w isat (x + y)
  | 1 => putWrap w isat (x - y)
  | 2 => putWrap w isat (x * y)
  | 3 => putWrap w isat (signed w d + x * y)
  | 4 => Res.ok (unsigned w (min x y))
  | 5 => Res.ok (unsigned w (max x y))
  | 6 => Res.ok (idiv w a b)
  | 7 => Res.ok (irem w a b)
  | 8 => resBool (decide (x = y))
  | 9 => resBool (decide (x < y))
  | 10 => resBool (decide (x ≤ y))
  | _ => Res.ok (unsigned w (x / (2 ^ (b % w) : Nat)))

/-- A binary operation on unsigned elements (R191, R194). -/
def unsignedBin (w op a b : Nat) : Res :=
  let ones := 2 ^ w - 1
  match op with
  | 0 => Res.ok (a &&& b)
  | 1 => Res.ok (a ||| b)
  | 2 => Res.ok (a ^^^ b)
  | 3 => Res.ok (a * 2 ^ (b % w) % 2 ^ w)
  | 4 => Res.ok (min a b)
  | 5 => Res.ok (max a b)
  | 6 => Res.ok (if b = 0 then ones else a / b)
  | 7 => Res.ok (if b = 0 then a else a % b)
  | 8 => Res.ok (a &&& (ones - b))
  | 9 => resBool (decide (a < b))
  | 10 => resBool (decide (a ≤ b))
  | _ => Res.ok (a / 2 ^ (b % w))

/-- A binary operation on elements of format F. -/
def binElem (f w : Nat) (isat : Bool) (op a b d : Nat) : Res :=
  if f < 5 then floatBin (fmtOf f) op a b d
  else if f = 5 then signedBin w isat op a b d
  else unsignedBin w op a b

/-- The approximated function of a unary code (R195). -/
def approxOf : Nat → Approx
  | 4 => .rsqrt | 6 => .exp | 7 => .exp2 | 8 => .log | 9 => .log2 | 10 => .tanh | 11 => .sigmoid | 12 => .gelu
  | 13 => .silu | 14 => .erf | 15 => .sin | _ => .cos

/-- Whether a format accepts a unary code (R195). -/
def unaryOk (f code : Nat) : Bool :=
  code ≤ 2 || code == 21 || (decide (3 ≤ code ∧ code ≤ 20) && decide (f < 5)) || (decide (23 ≤ code ∧ code ≤ 25) && decide (5 ≤ f))

/-- A unary function of a float element (R195, R196). A MOV copies the bits. -/
def floatUn (g : FFmt) (code a : Nat) : Res :=
  match code with
  | 0 => Res.ok a
  | 1 => Res.ok (g.withSign a (!a.testBit (g.eb + g.mb)))
  | 2 => Res.ok (g.withSign a false)
  | 3 => g.sqrt a
  | 5 => g.recip a
  | 17 => g.toInt .down a
  | 18 => g.toInt .up a
  | 19 => g.toInt .even a
  | 20 => g.toInt .zero a
  | _ => g.approx (approxOf code) a

/-- A unary function of an integer element (R195). -/
def intUn (w : Nat) (isat : Bool) (code a : Nat) : Res :=
  match code with
  | 0 => Res.ok a
  | 1 => putWrap w isat (-(signed w a))
  | 2 => putWrap w isat ((signed w a).natAbs)
  | 23 => Res.ok (2 ^ w - 1 - a)
  | 24 => Res.ok (popBits w a)
  | _ => Res.ok (clzBits w a)

/-- NEG and ABS of unsigned elements give the low bits; no unsigned arithmetic saturates (R191). -/
def unElem (f w : Nat) (isat : Bool) (code a : Nat) : Res :=
  if f < 5 then floatUn (fmtOf f) code a
  else if f = 5 then intUn w isat code a
  else if code = 2 then Res.ok a else intUn w false code a

/-- The element that an operand mode reads (R190). -/
def VFile.operand (v : VFile) (sm reg w : Nat) (scalar : Word) (p : Nat × Nat) : Nat :=
  match sm with
  | 0 => v.elem reg w p.1 p.2
  | 1 => v.elem reg w 0 p.2
  | 2 => v.elem reg w p.1 0
  | _ => scalar.toNat % 2 ^ w

/-! ### Instructions -/

/-- OP 0 to 11 (R191). -/
def VFile.binary (v : VFile) (k : VCap) (i : VWord) (scalar : Word) : VFile :=
  let w := fmtWidth i.f k.vcfg
  let (l, fl) := v.results k i.m (fun p =>
    binElem i.f w k.isat i.op (v.elem i.rs1 w p.1 p.2) (v.operand i.sm i.rs2 w scalar p)
      (if i.op = 3 then v.elem i.rd w p.1 p.2 else 0))
  let v := if isCompare i.op i.f then v.putMask i.rd (maskWrite (v.mask i.rd) l) else v.putGrid i.rd w l
  v.flag fl 0

/-- OP 15 (R195 to R197). -/
def VFile.unary (v : VFile) (k : VCap) (i : VWord) (scalar : Word) : VFile :=
  let w := fmtWidth i.f k.vcfg
  let (l, fl) := v.results k i.m (fun p =>
    if i.rs2 = 21 then Res.ok (v.operand i.sm i.rs1 w scalar (p.2, p.1))
    else unElem i.f w k.isat i.rs2 (v.operand i.sm i.rs1 w scalar p))
  (v.putGrid i.rd w l).flag fl 0

/-- The reduction of elements of format F: 0 SUM, 1 MAX, 2 MIN, 3 SUMSQ (R202). -/
def reduceElems (f w kind : Nat) (l : List Nat) : Res :=
  if f < 5 then
    let g := fmtOf f
    match kind with
    | 0 => g.deliver (sumVals (l.map g.decode)).val
    | 3 => g.deliver (sumVals (l.map (fun a => sqVal (g.decode a)))).val
    | _ =>
      match l with
      | [] => Res.ok (g.infBits (kind == 1)).bits
      | a :: t => Res.ok (t.foldl (g.minMax (kind == 1)) (if g.isNan a then g.nan else a))
  else
    let sgn := f == 5
    let xs := l.map (getInt w sgn)
    match kind with
    | 0 => putInt w sgn (xs.foldl (· + ·) 0)
    | 3 => putInt w sgn (xs.foldl (fun a x => a + x * x) 0)
    | 1 => Res.ok (unsigned w (xs.foldl max (intLo w sgn)))
    | _ => Res.ok (unsigned w (xs.foldl min (intHi w sgn)))

/-- The results of a reduction along rows (axis 1) or columns (axis 2), for the first `lines` lines (R201). -/
def VFile.reduceLines (v : VFile) (k : VCap) (m : Bool) (f axis kind reg lines : Nat) : List (Nat × Res) :=
  let w := fmtWidth f k.vcfg
  let act := v.active k m
  (List.range lines).map fun i =>
    (i, reduceElems f w kind
      ((act.filter (fun p => (if axis = 1 then p.1 else p.2) == i)).map (fun p => v.elem reg w p.1 p.2)))

/-- OP 12 (R201, R202). -/
def VFile.reduce (v : VFile) (k : VCap) (i : VWord) : VFile :=
  let w := fmtWidth i.f k.vcfg
  let rs := v.reduceLines k i.m i.f i.sm i.rs2 i.rs1 (if i.sm = 1 then k.rows else k.cols)
  (v.putGrid i.rd w (rs.map (fun e => (if i.sm = 1 then (e.1, 0) else (0, e.1), e.2.bits)))).flag
    (rs.foldl (fun a e => a ||| e.2.flags) 0) 0

/-- OP 13 (R203), and the number of out-of-range indices. -/
def VFile.shuffle (v : VFile) (k : VCap) (i : VWord) : VFile × Nat :=
  let w := fmtWidth i.f k.vcfg
  let idx := fun (p : Nat × Nat) => v.elem i.rs2 16 p.1 p.2
  let lim := min 32 (if i.sm = 1 then k.cols else k.rows)
  let bad := ((v.active k i.m).filter (fun p => decide (lim ≤ idx p))).length
  let (l, _) := v.results k i.m (fun p =>
    Res.ok (if lim ≤ idx p then 0 else if i.sm = 1 then v.elem i.rs1 w p.1 (idx p) else v.elem i.rs1 w (idx p) p.2))
  ((v.putGrid i.rd w l).flag (if bad = 0 then 0 else fLR) bad, bad)

/-- The position number of the first element for which no other is better (R204, kinds 4 and 5). -/
def firstBest (better : Nat × Nat → Nat × Nat → Bool) : List (Nat × Nat) → Option (Nat × Nat)
  | [] => none
  | p :: t =>
    match firstBest better t with
    | none => some p
    | some q => if better q p then some q else some p

/-- OP 14 (R204): the summary, and the VSTAT bits it sets. -/
def VFile.summary (v : VFile) (k : VCap) (i : VWord) : Word × Nat :=
  let w := fmtWidth i.f k.vcfg
  let rng := v.active k i.m
  let number := fun (o : Option (Nat × Nat)) =>
    match o with
    | some p => BitVec.ofNat 64 (p.1 * 32 + p.2)
    | none => Word.ones
  let q := v.mask i.rs1
  let sets := rng.filter (selected q)
  let el := fun (p : Nat × Nat) => v.elem i.rs1 w p.1 p.2
  let g := fmtOf i.f
  let less := fun (p q : Nat × Nat) =>
    if i.f < 5 then ltVal (g.decode (el p)) (g.decode (el q))
    else decide (getInt w (i.f == 5) (el p) < getInt w (i.f == 5) (el q))
  let nums := rng.filter (fun p => !(decide (i.f < 5) && g.isNan (el p)))
  match i.rs2 with
  | 0 => (BitVec.ofNat 64 sets.length, 0)
  | 1 => (if sets.length = 0 then 0 else 1, 0)
  | 2 => (if sets.length = rng.length then 1 else 0, 0)
  | 3 => (number sets.head?, 0)
  | 4 => (number (firstBest (fun a b => less b a) nums), 0)
  | 5 => (number (firstBest less nums), 0)
  | _ =>
    let r := if i.f < 5 then
        let x := sumVals (rng.map (fun p => g.decode (el p)))
        if x.nan then valToInt 64 true .even .nan
        else if x.pinf ≠ 0 ∧ x.ninf ≠ 0 then valToInt 64 true .even .nan
        else valToInt 64 true .even x.val.1
      else putInt 64 true (rng.foldl (fun a p => a + getInt w (i.f == 5) (el p)) 0)
    (BitVec.ofNat 64 r.bits, r.flags)

/-- Whether a vector word is a defined encoding with accepted registers (R184, R190, R191, R195, R201, R203, R204). -/
def vWordOk (i : VWord) (vcfg : Word) : Bool :=
  let w := fmtWidth i.f vcfg
  if i.f = 7 then false
  else if i.op ≤ 11 then
    gridOk i.rs1 w && (i.sm == 3 || gridOk i.rs2 w) && (if isCompare i.op i.f then isQ i.rd else gridOk i.rd w)
  else if i.op = 15 then unaryOk i.f i.rs2 && (i.sm == 3 || gridOk i.rs1 w) && gridOk i.rd w
  else if i.op = 12 then (i.sm == 1 || i.sm == 2) && decide (i.rs2 ≤ 3) && gridOk i.rs1 w && gridOk i.rd w
  else if i.op = 13 then (i.sm == 1 || i.sm == 2) && isT i.rs2 && gridOk i.rs1 w && gridOk i.rd w
  else i.sm == 0 && (if i.rs2 ≤ 3 then isQ i.rs1 && i.f == 6 else decide (i.rs2 ≤ 6) && gridOk i.rs1 w)

/-- A vector word but VSUM executed on a register file; with it, the number of out-of-range lanes. -/
def VFile.exec (v : VFile) (k : VCap) (i : VWord) (scalar : Word) : VFile × Nat :=
  if i.op ≤ 11 then (v.binary k i scalar, 0)
  else if i.op = 12 then (v.reduce k i, 0)
  else if i.op = 13 then v.shuffle k i
  else (v.unary k i scalar, 0)

/-! ### Conversion (R198 to R200) -/

/-- A VCVT format: a float grid, an integer grid, packed INT4, or an MX format by its element. -/
inductive CFmt where
  | float (g : FFmt)
  | int (w : Nat) (sgn : Bool)
  | int4
  | mx (g : FFmt)
  | mxint
  deriving DecidableEq, Repr

/-- The format of a code (R198). -/
def cfmtOf : Nat → Option CFmt
  | 0 => some (.float fp32) | 1 => some (.float bf16) | 2 => some (.float fp16) | 3 => some (.float e4m3)
  | 4 => some (.float e5m2) | 5 => some (.int 8 true) | 6 => some (.int 16 true) | 7 => some (.int 32 true)
  | 8 => some (.int 64 true) | 9 => some (.int 8 false) | 10 => some (.int 16 false) | 11 => some (.int 32 false)
  | 12 => some (.int 64 false) | 13 => some .int4 | 16 => some (.mx e4m3) | 17 => some (.mx e5m2)
  | 18 => some (.mx e3m2) | 19 => some (.mx e2m3) | 20 => some (.mx e2m1) | 21 => some .mxint
  | _ => none

/-- Whether a format is an MX format. -/
def CFmt.isMx : CFmt → Bool
  | .mx _ => true
  | .mxint => true
  | _ => false

/-- The element width of a format: 4, 6 or 8 for the packed ones (R185). -/
def CFmt.width : CFmt → Nat
  | .float g => g.width
  | .int w _ => w
  | .int4 => 4
  | .mx g => g.width
  | .mxint => 8

/-- Whether a format is packed in one T register (R185). -/
def CFmt.packed : CFmt → Bool
  | .int4 => true
  | c => c.isMx

/-- Whether a register may hold a format (R184, R185). -/
def CFmt.regOk (c : CFmt) (r : Nat) : Bool := if c.packed then isT r else gridOk r c.width

/-- A row of a T register as a number. -/
def VFile.rowNum (v : VFile) (reg r : Nat) : Nat := v.num (reg * 2048 + r * 64) 64

/-- The shared scale of an MX row: byte 63. -/
def VFile.scale (v : VFile) (reg r : Nat) : Nat := (Mem.get v.image (reg * 2048 + r * 64 + 63)).toNat

/-- The value of an element of an MX code before its scale. -/
def CFmt.elemVal : CFmt → Nat → FVal
  | .mx g, b => g.decode b
  | .mxint, b => dyadic (signed 8 b) (-6)
  | _, _ => .nan

/-- A value times a power of two. -/
def FVal.scaleBy (v : FVal) (x : Int) : FVal :=
  match v with
  | .fin n m e => .fin n m (e + x)
  | v => v

/-- The value of element (r, c) of a register in a format (R198 to R200). -/
def VFile.valueAt (v : VFile) (c : CFmt) (reg : Nat) (p : Nat × Nat) : FVal :=
  match c with
  | .float g => g.decode (v.elem reg g.width p.1 p.2)
  | .int w sgn => dyadic (getInt w sgn (v.elem reg w p.1 p.2)) 0
  | .int4 => dyadic (signed 4 (bitsOf (v.rowNum reg p.1) (4 * p.2) 4)) 0
  | _ =>
    if v.scale reg p.1 = 255 then .nan
    else (c.elemVal (bitsOf (v.rowNum reg p.1) (c.width * p.2) c.width)).scaleBy ((v.scale reg p.1 : Int) - 127)

/-- A value delivered in a format that is not MX (R199). -/
def CFmt.put (c : CFmt) (r : RM) (v : FVal) : Res :=
  match c with
  | .float g => g.put r v
  | .int w sgn => valToInt w sgn r v
  | _ => valToInt 4 true r v

/-- The largest exponent of an MX element format (R200). -/
def CFmt.emax : CFmt → Int
  | .mx g => if g = e4m3 then 8 else if g = e5m2 then 15 else if g = e3m2 then 4 else 2
  | _ => 0

/-- An element quantised to an MX element format: to nearest even, saturating with SAT (R200). -/
def CFmt.quant (c : CFmt) (x : Int) (v : FVal) : Res :=
  match c, v.scaleBy (-x) with
  | .mxint, .fin n m e =>
    let k := roundNat .even n m (e + 6)
    { bits := unsigned 8 (signedMant n (min 127 k)), flags := if 127 < k then fSAT else 0 }
  | .mx g, .fin n m e =>
    let r := g.round .even n m e
    if r.flags &&& (fOF ||| fSAT) ≠ 0 then { bits := g.signBit n + g.maxFin, flags := fSAT } else Res.ok r.bits
  | _, _ => Res.ok 0

/-- The floor of the binary logarithm of a finite value that is not 0. -/
def FVal.log2 : FVal → Int
  | .fin _ m e => e + topBit m
  | _ => 0

/-- A row of values (none: inactive) encoded as an MX block: the scale byte, the codes and the flags (R200). -/
def CFmt.encodeRow (c : CFmt) (l : List (Option FVal)) : Nat × List Nat × Nat :=
  let act := l.filterMap id
  let nz := act.filter (fun v => v.isFin && !v.isZero)
  if act.any (fun v => !v.isFin) then (0xFF, l.map (fun _ => 0), 0)
  else
    match nz with
    | [] => (0, l.map (fun _ => 0), 0)
    | v :: t =>
      let top := t.foldl (fun a w => max a w.log2) v.log2
      let x := max (-127) (min 127 (top - c.emax))
      let q := l.map (fun o => match o with | some v => c.quant x v | none => Res.ok 0)
      ((x + 127).toNat, q.map (·.bits), q.foldl (fun a r => a ||| r.flags) 0)

/-- Codes of `w` bits packed from bit 0 (R185). -/
def packBits (w : Nat) : List Nat → Nat
  | [] => 0
  | a :: t => a % 2 ^ w + 2 ^ w * packBits w t

/-- A packed MX row of 64 bytes (R185). -/
def mxRowBytes (w scale : Nat) (codes : List Nat) : List Byte := leBytes 63 (packBits w codes) ++ leBytes 1 scale

/-- VCVT (R198 to R200). -/
def VFile.convert (v : VFile) (k : VCap) (m : Bool) (rd rs1 : Nat) (dst src : CFmt) (rm : RM) : VFile :=
  let mask := v.maskOf k m
  if dst.isMx then
    (List.range k.rows).foldl (fun a r =>
      let vals := (List.range 32).map fun c =>
        if c < k.cols ∧ selected mask (r, c) then some (v.valueAt src rs1 (r, c)) else none
      let (sc, codes, fl) := dst.encodeRow vals
      (a.put (rd * 2048 + r * 64) (mxRowBytes dst.width sc codes)).flag fl 0) v
  else
    let (l, fl) := v.results k m (fun p => dst.put rm (v.valueAt src rs1 p))
    if dst = .int4 then
      ((List.range k.rows).foldl (fun a r =>
        let old := v.rowNum rd r
        let codes := (List.range 32).map fun c =>
          match l.find? (fun e => e.1 == (r, c)) with
          | some e => e.2
          | none => bitsOf old (4 * c) 4
        a.put (rd * 2048 + r * 64) (leBytes 64 (packBits 4 codes))) v).flag fl 0
    else (v.putGrid rd dst.width l).flag fl 0

/-- Whether VCVT's fields are a defined encoding (R198). -/
def cvtOk (rd rs1 dfmt sfmt : Nat) : Bool :=
  match cfmtOf dfmt, cfmtOf sfmt with
  | some d, some s =>
    dfmt != sfmt && d.regOk rd && s.regOk rs1 && (!d.isMx || decide (sfmt ≤ 2)) && (!s.isMx || decide (dfmt ≤ 2))
  | _, _ => false

/-- The rounding mode of a code (R199). -/
def rmOf : Nat → RM
  | 0 => .even | 1 => .zero | 2 => .down | _ => .up

/-- VCVT by its codes. -/
def VFile.cvt (v : VFile) (k : VCap) (m : Bool) (rd rs1 dfmt sfmt rm : Nat) : VFile :=
  match cfmtOf dfmt, cfmtOf sfmt with
  | some d, some s => v.convert k m rd rs1 d s (rmOf rm)
  | _, _ => v

/-! ### Mask logic (R207) -/

/-- The 1,024 bits that VMLOGIC writes. -/
def maskLogic (k : VCap) (lop a b : Nat) : Nat :=
  let ones := 2 ^ 1024 - 1
  match lop with
  | 0 => a &&& b
  | 1 => a ||| b
  | 2 => a ^^^ b
  | 3 => a &&& (ones - b)
  | 4 => ones - a
  | 5 => ones
  | 6 => 0
  | _ => k.positions.foldl (fun x p => x ||| 2 ^ (p.1 * 32 + p.2)) 0

def VFile.mlogic (v : VFile) (k : VCap) (rd rs1 rs2 lop : Nat) : VFile :=
  v.putMask rd (maskLogic k lop (v.mask rs1) (v.mask rs2))

end Sys2Proof.Machine
end

