-- ==== Sys2Proof/Machine/Pot.lean ====
section
/-! DEFINITION. Pot descriptors and their exact arithmetic (R85 to R91): conversion of inputs, absorption, saturation and
finish, on lists of integers. -/

namespace Sys2Proof.Machine

/-! ### Descriptors (R85) -/

def potKind (d : Nat) : Nat := bitsOf d 0 3
def potWidth (d : Nat) : Nat := if d.testBit 3 then 128 else 64
def potScale (d : Nat) : Int := signed 8 (bitsOf d 4 8)
def potElems (d : Nat) : Nat := bitsOf d 12 8 + 1
def potIn (d : Nat) : Nat := bitsOf d 20 3
def potOut (d : Nat) : Nat := bitsOf d 23 3
def potFin (d : Nat) : Nat := bitsOf d 26 2

/-- Whether a descriptor is well formed (R85). -/
def potOk (d : Nat) : Bool :=
  let k := potKind d
  if bitsOf d 28 4 ≠ 0 ∨ 5 < k ∨ potFin d = 3 then false
  else if k = 0 then d == 0
  else if k = 5 then d == 5 + bitsOf d 12 8 * 2 ^ 12
  else if potFin d = 1 then k == 1 || k == 2
  else if potFin d = 2 then k == 2
  else true

/-- The size of an input element in bytes (R85). -/
def potInSize (d : Nat) : Nat :=
  match potIn d with
  | 0 => 4 | 1 => 2 | 2 => 2 | 3 => 1 | 4 => 1 | 5 => 4 | 6 => 2 | _ => 1

/-- Payload units of a pot token (R73). -/
def potUnits (d : Nat) : Nat := ceilDiv (potElems d * potInSize d) 16

/-- The KIND that an operation requires (R85). -/
def opKind (op : Nat) : Nat :=
  match op with
  | 0x08 => 1 | 0x09 => 2 | 0x0A => 3 | _ => 4

/-- The bytes of one row of a pot, and of the pot's whole area (R85, R260). A STAT slot's area follows its expected count. -/
def potRowSize (d : Nat) : Nat := roundUp (potElems d * (potWidth d / 8)) 64
def potArea (d expected : Nat) : Nat :=
  match potKind d with
  | 0 => 0
  | 2 => 2 * potRowSize d
  | 5 => roundUp (max (16 * expected * ceilDiv (potElems d) 2) (16 * potElems d + 48)) 64
  | _ => potRowSize d

/-! ### Conversion (R86) -/

/-- An input element as a value. -/
def potInput (d b : Nat) : FVal :=
  match potIn d with
  | 0 => fp32.decode b
  | 1 => bf16.decode b
  | 2 => fp16.decode b
  | 3 => e4m3.decode b
  | 4 => e5m2.decode b
  | 5 => dyadic (signed 32 b) 0
  | 6 => dyadic (signed 16 b) 0
  | _ => dyadic (signed 8 b) 0

/-- A converted input: the integer, and whether it saturated or was NaN. -/
structure PotIn where
  s : Int
  sat : Bool
  nan : Bool
  deriving DecidableEq, Repr

/-- An element converted to round-to-nearest-even(x × 2^-E) (R86). -/
def potConvert (d : Nat) (v : FVal) : PotIn :=
  let lim : Int := (2 ^ (potWidth d - 1) : Nat) - 1
  match v with
  | .nan => { s := 0, sat := false, nan := true }
  | .inf n => { s := if n then -lim else lim, sat := true, nan := false }
  | .fin n m e =>
    let k := roundNat .even n m (e - potScale d)
    if lim < (k : Int) then { s := if n then -lim else lim, sat := true, nan := false }
    else { s := signedMant n k, sat := false, nan := false }

/-- The elements of a payload, converted. -/
def potInputs (d : Nat) (payload : List Byte) : List PotIn :=
  (List.range (potElems d)).map fun j => potConvert d (potInput d (leAt payload (j * potInSize d) (potInSize d)))

/-! ### Rows -/

/-- A row of a pot read as signed integers of the pot's width. -/
def potRow (d : Nat) (bytes : List Byte) : List Int :=
  (List.range (potElems d)).map fun j => signed (potWidth d) (leAt bytes (j * (potWidth d / 8)) (potWidth d / 8))

/-- A row of integers as bytes. -/
def potRowBytes (d : Nat) (l : List Int) : List Byte :=
  l.flatMap fun x => leBytes (potWidth d / 8) (unsigned (potWidth d) x)

/-- The start value of a row's elements: MAX and MIN hold the least and the greatest integer that a conversion gives,
so that the first value replaces it. -/
def potInit (d : Nat) : Int :=
  let lim : Int := (2 ^ (potWidth d - 1) : Nat) - 1
  match potKind d with
  | 3 => -lim
  | 4 => lim
  | _ => 0

/-- Two elements combined: modular addition, or the maximum or minimum (R87, R98). -/
def potCombine (d : Nat) (a b : Int) : Int :=
  match potKind d with
  | 3 => max a b
  | 4 => min a b
  | _ => signed (potWidth d) (unsigned (potWidth d) (a + b))

/-- A magnitude bound raised, stopping at its maximum (R89). -/
def boundAdd (d a b : Nat) : Nat := min (2 ^ potWidth d - 1) (a + b)

/-! ### Finish (R90, R91) -/

/-- The float format of OUTFMT 0 to 4. -/
def outFmt (o : Nat) : FFmt :=
  match o with
  | 0 => fp32 | 1 => bf16 | 2 => fp16 | 3 => e4m3 | _ => e5m2

/-- The bytes of an element of OUTFMT. -/
def outSize (o : Nat) : Nat :=
  match o with
  | 0 => 4 | 1 => 2 | 2 => 2 | 3 => 1 | 4 => 1 | 5 => 4 | _ => 8

/-- A quotient rounded to the nearest integer, ties to even. -/
def roundQuot (n d : Nat) : Nat :=
  let k := n / d
  let r := n % d
  if d < 2 * r ∨ (2 * r = d ∧ k % 2 = 1) then k + 1 else k

/-- num / den × 2^e rounded once to OUTFMT; an exact zero gives +0 (R90). -/
def finishRound (o : Nat) (num : Int) (den : Nat) (e : Int) : Nat :=
  let m := num.natAbs
  let neg := decide (num < 0)
  if o < 5 then
    if m = 0 then 0
    else
      let f := outFmt o
      let k := f.mb + 3 + topBit den
      let n := m * 2 ^ k
      (f.round .even neg (2 * (n / den) + (if n % den = 0 then 0 else 1)) (e - k - 1)).bits
  else
    let w := if o = 5 then 32 else 64
    let q := if 0 ≤ e then roundQuot (m * 2 ^ e.toNat) den else roundQuot m (den * 2 ^ (-e).toNat)
    (putInt w true (signedMant neg q)).bits

/-- The bits of every element of an exceptional row (R91): canonical NaN, or the most negative integer. -/
def finishBad (o : Nat) : Nat := if o < 5 then (outFmt o).nan else 2 ^ ((if o = 5 then 32 else 64) - 1)

/-- A row of OUTFMT elements as bytes. -/
def outRow (o : Nat) (l : List Nat) : List Byte := l.flatMap (leBytes (outSize o))

/-- The finished row of a pot that is not RAW, from its rows, N and whether it is exceptional (R90, R91). -/
def finishRow (d n : Nat) (bad : Bool) (s1 s2 : List Int) : List Byte :=
  let o := potOut d
  let e := potScale d
  let size := potElems d * outSize o
  let rows := fun (a b : List Nat) =>
    if potFin d = 2 then padTo (roundUp size 64) (outRow o a) ++ outRow o b else outRow o a
  if bad then rows (s1.map (fun _ => finishBad o)) (s1.map (fun _ => finishBad o))
  else if n = 0 then rows (s1.map (fun _ => 0)) (s1.map (fun _ => 0))
  else
    match potFin d with
    | 0 => outRow o (s1.map (fun s => finishRound o s 1 e))
    | 1 => outRow o (s1.map (fun s => finishRound o s n e))
    | _ => rows (s1.map (fun s => finishRound o s n e))
        ((s1.zip s2).map (fun p => finishRound o ((n : Int) * p.2 - p.1 * p.1) (n * n) (2 * e)))

end Sys2Proof.Machine
end

