-- ==== Sys2Proof/Machine/Program.lean ====
section
/-! DEFINITION. Prologue and epilogue programs (R249 to R252, R256): descriptors, their checks, and the run of the entries on
the working tiles. -/

namespace Sys2Proof.Machine

/-! ### Descriptor fields (R249) -/

def pgNinst (b : List Byte) : Nat := bitsOf (leAt b 0 8) 0 6
def pgKind (b : List Byte) : Nat := bitsOf (leAt b 0 8) 6 1
def pgOutfmt (b : List Byte) : Nat := bitsOf (leAt b 0 8) 7 3
def pgAccw (b : List Byte) : Bool := (leAt b 0 8).testBit 10
def pgRed (b : List Byte) : Nat := bitsOf (leAt b 0 8) 11 2
def pgRedop (b : List Byte) : Nat := bitsOf (leAt b 0 8) 13 2
def pgStatm (b : List Byte) : Nat := bitsOf (leAt b 0 8) 15 2
def pgSmask (b : List Byte) : Bool := (leAt b 0 8).testBit 17
def pgOutva (b : List Byte) : Nat := leAt b 0x08 8
def pgOutstride (b : List Byte) : Nat := leAt b 0x10 4
def pgBlkstride (b : List Byte) : Nat := leAt b 0x14 4
def pgRedva (b : List Byte) : Nat := leAt b 0x18 8
def pgStatdst (b : List Byte) : Nat := bitsOf (leAt b 0x20 8) 0 44
def pgIdxbase (b : List Byte) : Nat := bitsOf (leAt b 0x20 8) 44 16
def pgStatpot (b : List Byte) : Nat := leAt b 0x28 4
def pgSuit (b : List Byte) : Suit := Fin.ofNat 4 (leAt b 0x2C 4)
def pgConst (b : List Byte) (k : Nat) : Word := BitVec.ofNat 64 (leAt b (0x40 + 8 * k) 8)
def pgEntry (b : List Byte) (i : Nat) : Nat := leAt b (0xC0 + 8 * i) 8

/-! ### Entries (R250) -/

/-- A program entry: a vector word, VCVT or VMLOGIC. -/
inductive PEntry where
  | word (w : VWord)
  | cvt (rd rs1 dfmt sfmt rm : Nat) (m : Bool)
  | mlogic (rd rs1 rs2 lop : Nat)
  deriving DecidableEq, Repr

/-- Registers that a program may read, and may write (R250). -/
def pgReadable (r : Nat) : Bool := decide (r ≤ 17 ∨ (20 ≤ r ∧ r ≤ 27))
def pgWritable (r : Nat) : Bool := r == 16 || r == 17 || r == 27

/-- The registers a vector word names as sources, by operation. -/
def vWordSources (i : VWord) : List Nat :=
  if i.op ≤ 11 then (if i.sm = 3 then [i.rs1] else [i.rs1, i.rs2])
  else if i.op = 15 then (if i.sm = 3 then [] else [i.rs1])
  else if i.op = 13 then [i.rs1, i.rs2]
  else [i.rs1]

/-- An 8-byte entry decoded and checked (R250); none is MATRIX_DESC. -/
def pgDecode (vcfg : Word) (e : Nat) : Option PEntry :=
  let lo := bitsOf e 0 7
  if lo = 0x0B ∧ e < 2 ^ 32 then
    let i := vWordOf e
    let scalarOk := if (i.op ≤ 11 ∧ i.sm = 3) then decide (i.rs2 < 16)
      else if (i.op = 15 ∧ i.sm = 3) then decide (i.rs1 < 16) else true
    if i.op ≠ 14 ∧ i.f ≠ 7 ∧ vWordOk i vcfg ∧ scalarOk ∧ pgWritable i.rd ∧ (vWordSources i).all pgReadable then
      some (.word i)
    else none
  else if lo = 0x3F ∧ bitsOf e 12 3 = 4 then
    let rd := bitsOf e 7 5
    let rs1 := bitsOf e 15 5
    let rs2 := bitsOf e 20 5
    let f7 := bitsOf e 25 7
    let imm := e / 2 ^ 32
    if f7 = 2 then
      if rs2 = 0 ∧ bitsOf imm 13 19 = 0 ∧ cvtOk rd rs1 (bitsOf imm 0 5) (bitsOf imm 5 5) ∧ pgWritable rd ∧ pgReadable rs1 then
        some (.cvt rd rs1 (bitsOf imm 0 5) (bitsOf imm 5 5) (bitsOf imm 10 2) (imm.testBit 12))
      else none
    else if f7 = 3 then
      if bitsOf imm 3 29 = 0 ∧ isQ rd ∧ isQ rs1 ∧ isQ rs2 ∧ pgWritable rd then
        some (.mlogic rd rs1 rs2 (bitsOf imm 0 3))
      else none
    else none
  else none

/-- The entries of a program (R251); none where one is rejected. -/
def pgEntries (b : List Byte) (vcfg : Word) : Option (List PEntry) :=
  (List.range (pgNinst b)).foldr (fun i a =>
    match pgDecode vcfg (pgEntry b i), a with
    | some e, some l => some (e :: l)
    | _, _ => none) (some [])

/-- Whether a descriptor keeps R249 and R250 for its use (kind 1: prologue); `spades`: class 0 may be named (R76). -/
def pgOk (b : List Byte) (kind : Nat) (vcfg : Word) (spades : Bool) : Bool :=
  let w := leAt b 0 8
  let common := decide (pgNinst b ≤ 32) && pgKind b == kind && bitsOf w 18 46 == 0 && leAt b 0x30 16 == 0
    && (pgEntries b vcfg).isSome
  if kind = 1 then common && bitsOf w 7 11 == 0
  else
    common && pgOutfmt b != 5 && pgOutfmt b != 6 && pgRed b != 3 && pgStatm b != 3
    && (pgOutfmt b == 7 || (decide (pgOutva b < 2 ^ 48) && aligned (pgOutva b) 16 && aligned (pgOutstride b) 16 && aligned (pgBlkstride b) 16))
    && (pgRed b == 0 || (decide (pgRedva b < 2 ^ 48) && aligned (pgRedva b) 128))
    && (pgStatm b == 0 ||
        (bitsOf (leAt b 0x20 8) 60 4 == 0 && bitsOf (leAt b 0x28 8) 34 30 == 0 && decide (potElems (pgStatpot b) ≤ 32)
          && (if pgStatm b = 1 then potKind (pgStatpot b) == 5
              else potKind (pgStatpot b) == 1 || potKind (pgStatpot b) == 2)
          && (spades || (pgSuit b).val != 0)))

/-! ### Runs -/

/-- The working register file of a run: A0 is W, A1 is X = +0, Q7 is P = all ones (R250). -/
def workFile (v : VFile) (w : List ((Nat × Nat) × Nat)) : VFile :=
  let v := { v with image := Mem.clear (Mem.clear v.image 0x8000 0xA000) 0xC000 0xE000 }
  (v.putMask 27 (2 ^ 1024 - 1)).putGrid 16 32 w

/-- One entry executed, with the lanes it found out of range; scalar operands are constants (R250). -/
def pgStep (b : List Byte) (k : VCap) (v : VFile) : PEntry → VFile × Nat
  | .word i => v.exec k i (pgConst b (if i.op = 15 then i.rs1 else i.rs2))
  | .cvt rd rs1 d sf rm m => (v.cvt k m rd rs1 d sf rm, 0)
  | .mlogic rd rs1 rs2 lop => (v.mlogic k rd rs1 rs2 lop, 0)

/-- A program run on a working file, with the lanes out of range for VLANE (R210, R253). -/
def pgRun (b : List Byte) (k : VCap) (v : VFile) : VFile × Nat :=
  match pgEntries b k.vcfg with
  | some l => l.foldl (fun a e => let r := pgStep b k a.1 e; (r.1, a.2 + r.2)) (v, 0)
  | none => (v, 0)

/-- The registers of a vector context after a run: its own, with VSTAT as the run's entries left it (R251). -/
def afterRun (v work : VFile) : VFile := { v with stat := work.stat }

/-! ### Deferred row statistics (R259, R263) -/

/-- The softmax partial of a row from the taken values of W, as m and s (R259). -/
def softmaxPartial (l : List Nat) : Nat × Nat :=
  let vals := l.map fp32.decode
  let pinf := (vals.filter (· == .inf false)).length
  let fins := l.filter (fun b => (fp32.decode b).isFin)
  if vals.any (· == .nan) then (fp32.nan, 0)
  else if pinf ≠ 0 then (0x7F800000, (fp32.put .even (.fin false pinf 0)).bits)
  else
    match fins with
    | [] => (0xFF800000, 0)
    | a :: t =>
      let m := t.foldl (fp32.minMax true) a
      (m, (fp32.deliver (sumVals (fins.map (fun x => fp32.decode (exp32 (fp32.sub x m).bits).bits))).val).bits)

/-- The payload of a softmax STAT token: 8 bytes for each row (R259). -/
def softmaxPayload (work : VFile) (k : VCap) (smask : Bool) (rows : Nat) : List Byte :=
  let mask := work.maskOf k smask
  let l := (List.range rows).flatMap fun r =>
    let p := softmaxPartial ((k.positions.filter (fun q => q.1 == r && selected mask q)).map (fun q => work.elem 16 32 q.1 q.2))
    leBytes 4 p.1 ++ leBytes 4 p.2
  padTo (16 * ceilDiv rows 2) l

/-- An FP32 value in a pot descriptor's input format, with its flags (R199, R263, R267). -/
def infmt (d x : Nat) : Res :=
  let v := fp32.decode x
  match potIn d with
  | 5 => valToInt 32 true .even v
  | 6 => valToInt 16 true .even v
  | 7 => valToInt 8 true .even v
  | o => (outFmt o).put .even v
def infmtBits (d x : Nat) : Nat := (infmt d x).bits

/-- The payload of a moment token of a column (R263): W(r, c) in the pot's input format. -/
def momentPayload (work : VFile) (d rows c : Nat) : List Byte :=
  padTo (16 * potUnits d)
    ((List.range rows).flatMap (fun r => leBytes (potInSize d) (infmtBits d (work.elem 16 32 r c))))

/-- The flags of the conversions of a block's moments (R199, R263). -/
def momentFlags (work : VFile) (d rows cols : Nat) : Nat :=
  (List.range cols).foldl (fun a c => (List.range rows).foldl (fun a r => a ||| (infmt d (work.elem 16 32 r c)).flags) a) 0

/-- One step of the merge of softmax partials in ascending index (R260). -/
def mergeStep (a : Option (Nat × Nat)) (p : Nat × Nat) : Option (Nat × Nat) :=
  if !(fp32.decode p.1).isFin then a
  else
    match a with
    | none => some p
    | some (m, s) =>
      if ltVal (fp32.decode m) (fp32.decode p.1) then
        some (p.1, (fp32.add (fp32.mul s (exp32 (fp32.sub m p.1).bits).bits).bits p.2).bits)
      else some (m, (fp32.add s (fp32.mul p.2 (exp32 (fp32.sub p.1 m).bits).bits).bits).bits)

/-- The merged statistics of a row: M, S, and whether the row counts as NaN or as empty (R260). -/
def mergeRow (l : List (Nat × Nat)) : (Nat × Nat) × Bool × Bool :=
  if l.any (fun p => fp32.isNan p.1) then ((fp32.nan, 0), true, false)
  else
    let infs := l.filter (fun p => fp32.decode p.1 == .inf false)
    if infs ≠ [] then
      ((0x7F800000, (fp32.deliver (sumVals (infs.map (fun p => fp32.decode p.2))).val).bits), false, false)
    else
      match l.foldl mergeStep none with
      | some p => (p, false, false)
      | none => ((0xFF800000, 0), false, true)

end Sys2Proof.Machine
end

