-- ==== Sys2Proof/Machine/Gather.lean ====
section
/-! DEFINITION. The gather engine and the intersect unit (R147 to R182), with the edge transform (R264 to R267). -/

namespace Sys2Proof.Machine

/-! ### The stream descriptor (R153) -/

def gdFmt (b : List Byte) : Nat := bitsOf (leAt b 0 4) 0 2
def gdCn (b : List Byte) : Bool := decide (2 ≤ gdFmt b)
def gdWide (b : List Byte) : Bool := (leAt b 0 4).testBit 2
def gdFtest (b : List Byte) : Nat := bitsOf (leAt b 0 4) 3 2
def gdFout (b : List Byte) : Bool := (leAt b 0 4).testBit 5
def gdRten (b : List Byte) : Bool := (leAt b 0 4).testBit 7
def gdRadepth (b : List Byte) : Nat := bitsOf (leAt b 0 4) 8 8
def gdWfmt (b : List Byte) : Nat := bitsOf (leAt b 0 4) 16 3
def gdRowsel (b : List Byte) : Bool := (leAt b 0 4).testBit 19
def gdV0 (b : List Byte) : Nat := leAt b 0x08 8
def gdV1 (b : List Byte) : Nat := leAt b 0x10 8
def gdIndex (b : List Byte) : Nat := leAt b 0x18 8
def gdNbr (b : List Byte) : Nat := leAt b 0x20 8
def gdRows (b : List Byte) : Nat := leAt b 0x28 8
def gdRowcnt (b : List Byte) : Nat := leAt b 0x30 8
def gdStride (b : List Byte) : Nat := leAt b 0x38 4
def gdWgt (b : List Byte) : Nat := leAt b 0x40 8
def gdEfeat (b : List Byte) : Nat := leAt b 0x48 8
def gdFront (b : List Byte) : Nat := leAt b 0x50 8
def gdFbase (b : List Byte) : Nat := leAt b 0x58 8
def gdFlen (b : List Byte) : Nat := leAt b 0x60 8
def gdRoute (b : List Byte) : Nat := leAt b 0x68 8
def gdExpmask (b : List Byte) : Nat := leAt b 0x70 8
def gdMap (b : List Byte) : Nat := leAt b 0x80 8
def gdPotdesc (b : List Byte) : Nat := leAt b 0x88 4
def gdOp (b : List Byte) : BitVec 6 := BitVec.ofNat 6 (leAt b 0x8C 4)
def gdSuit (b : List Byte) : Suit := Fin.ofNat 4 (bitsOf (leAt b 0x8C 4) 6 2)
def gdBlkshift (b : List Byte) : Nat := bitsOf (leAt b 0x8C 4) 8 5
def gdXform (b : List Byte) : Nat := leAt b 0x90 8

/-- The window in edges beyond the last record released (R159). -/
def gdWindow (b : List Byte) : Nat := min (gdRadepth b + 1) (gdRing b - 1)
/-- The size of a neighbour entry in CSR and CSC (R148). -/
def gdEntry (b : List Byte) : Nat := if gdWide b then 8 else 4

/-- Whether a field is a 48-bit value. -/
def is48 (x : Nat) : Bool := decide (x < 2 ^ 48)

/-- Whether the emitted tokens of an edge path carry pot values (R171). -/
def gdPot (b : List Byte) : Bool := gdOp b != opArrive

/-- Whether the edge-path fields are well formed (R171). -/
def gdEdgeOk (b : List Byte) : Bool :=
  is48 (gdMap b) && is48 (gdXform b) && decide (gdBlkshift b ≤ 20) && bitsOf (leAt b 0x8C 4) 13 19 == 0
  && ([opArrive, opPotAdd, opPotAddSq, opPotMax, opPotMin].contains (gdOp b))
  && (!gdPot b || (potOk (gdPotdesc b) && potKind (gdPotdesc b) == opKind (gdOp b).toNat && decide (potUnits (gdPotdesc b) ≤ 16)
      && aligned (gdXform b) 64))

/-- Whether a stream descriptor is well formed on a tile (R153, R154); a SUIT of 0 is the monitor's without SPADES (R76). The bits
above V0, V1, ROWCNT, FBASE and FLEN at [47:0], and above ROWSTRIDE, are taken as reserved bits that must be 0 (DEDUCED, log 90). -/
def State.gdOk (s : State) (t : TileId) (b : List Byte) (spades : Bool) : Bool :=
  leAt b 4 4 == 0 && leAt b 0x3C 4 == 0 && leAt b 0x7E 2 == 0 && leAt b 0x98 8 == 0
  && !(gdCn b && gdWide b) && decide (gdWfmt b ≤ 5 ∧ gdRowu b ≤ 64 ∧ gdEfu b ≤ 16)
  && is48 (gdV0 b) && is48 (gdV1 b) && is48 (gdIndex b) && is48 (gdNbr b) && is48 (gdRows b) && is48 (gdRowcnt b)
  && aligned (gdIndex b) 8 && aligned (gdNbr b) (if gdCn b then 64 else gdEntry b) && aligned (gdRows b) 16
  && aligned (gdStride b) 16 && decide (gdRowu b * 16 ≤ gdStride b)
  && (gdWfmt b == 0 || is48 (gdWgt b)) && (gdEfu b == 0 || is48 (gdEfeat b))
  && (gdFtest b == 0 || (is48 (gdFront b) && aligned (gdFront b) 8 && is48 (gdFbase b) && is48 (gdFlen b)))
  && (!gdRten b || is48 (gdRoute b))
  && aligned (gdStageoff b) 64 && aligned (gdStagesize b) 64 && decide (2 ≤ gdRing b)
  && s.inScratch t (gdStageoff b) (gdStagesize b)
  && (!gdEpath b || (gdEdgeOk b && (spades || gdSuit b != 0)))

/-! ### The edge transform (R264 to R267) -/

def xfStages (b : List Byte) : List Nat := (List.range 4).map (fun i => bitsOf (leAt b 0 2) (4 * i) 4)
def xfRfmt (b : List Byte) : Nat := bitsOf (leAt b 0 4) 16 3
def xfEfmt (b : List Byte) : Nat := bitsOf (leAt b 0 4) 19 3
def xfNin (b : List Byte) : Nat := bitsOf (leAt b 0 4) 22 8 + 1
def xfQfmt (b : List Byte) : Nat := bitsOf (leAt b 0 4) 30 2

/-- The size of an element of RFMT and EFMT. -/
def xfSize (f : Nat) : Nat := (outFmt f).width / 8

/-- Whether an edge-transform descriptor is well formed for a stream (R264). -/
def xfOk (b d : List Byte) : Bool :=
  let st := xfStages b
  let lo := fp32.decode (leAt b 0x20 4)
  let hi := fp32.decode (leAt b 0x24 4)
  let l := if st.any (fun c => c == 13 || c == 14) then 1 else xfNin b
  leAt b 4 4 == 0 && is48 (leAt b 8 8) && is48 (leAt b 0x10 8) && leAt b 0x37 1 == 0 && leAt b 0x38 8 == 0
  && aligned (leAt b 8 8) 4 && aligned (leAt b 0x10 8) 4
  && st.all (fun c => c != 15) && decide (xfRfmt b ≤ 4 ∧ xfEfmt b ≤ 4 ∧ xfQfmt b ≤ 2)
  && decide (xfNin b * xfSize (xfRfmt b) ≤ gdRowu d * 16)
  && (!st.contains 3 || decide (xfNin b * xfSize (xfEfmt b) ≤ gdEfu d * 16))
  && !(st.contains 2 && gdWfmt d == 0)
  && lo != .nan && hi != .nan && !ltVal hi lo
  && l == potElems (gdPotdesc d)

/-- Whether DROP keeps element j of the edge with ordinal e (R266). -/
def xfKeep (b : List Byte) (e j : Nat) : Bool :=
  let mul := fun (x y : Nat) => x * y % 2 ^ 64
  let h := leAt b 0x28 8 ^^^ mul (leAt b 0x30 4) 0x9E3779B97F4A7C15
  let h := h ^^^ mul (e * 256 + j) 0xBF58476D1CE4E5B9
  let h := mul (h ^^^ h >>> 30) 0xBF58476D1CE4E5B9
  let h := mul (h ^^^ h >>> 27) 0x94D049BB133111EB
  let h := h ^^^ h >>> 31
  decide (leAt b 0x34 3 ≤ h >>> 40)

/-- QUANT of a vector of FP32 elements (R265): the elements, and how many saturated. MXFP4 takes blocks of 32. `n` bounds
the blocks. -/
def xfQuantMx : Nat → List Nat → List Nat × Nat
  | 0, _ => ([], 0)
  | n + 1, l =>
    if l = [] then ([], 0)
    else
      let c := CFmt.mx e2m1
      let vals := (l.take 32).map fp32.decode
      let (sc, codes, _) := c.encodeRow (vals.map some)
      let x : Int := (sc : Int) - 127
      let out := codes.map (fun k => if sc = 255 then fp32.nan else (fp32.put .even ((c.elemVal k).scaleBy x)).bits)
      let sats := if sc = 255 then 0 else (vals.filter (fun v => (c.quant x v).flags != 0)).length
      let r := xfQuantMx n (l.drop 32)
      (out ++ r.1, sats + r.2)

/-- QUANT to E4M3 or E5M2: rounded and widened back; a value beyond E4M3 saturates. -/
def xfQuantF (g : FFmt) (l : List Nat) : List Nat × Nat :=
  let r := l.map (fun x => cvtFloat fp32 g .even x)
  (r.map (fun q => (cvtFloat g fp32 .even q.bits).bits), if g = e4m3 then (r.filter (fun q => q.flags &&& fOF != 0)).length else 0)

/-- What the stages of an edge transform work on: the vector, elements dropped and saturated. -/
structure XfSt where
  x : List Nat
  dropped : Nat
  sats : Nat

/-- An approximated function of a stage. -/
def xfFun (c : Nat) : Approx := if c = 6 then .gelu else if c = 7 then .silu else .sigmoid

/-- One stage (R265): `x0` the row, `w` the weight, `f` the edge feature, `bias` and `att` the vectors, `e` the ordinal. -/
def xfStage (b : List Byte) (x0 f bias att : List Nat) (w e : Nat) (st : XfSt) (c : Nat) : XfSt :=
  let pos := fun (x : Nat) => ltVal (.fin false 0 0) (fp32.decode x)
  let nan := fun (x : Nat) => fp32.isNan x
  let each := fun (g : Nat → Nat → Nat) => { st with x := st.x.mapIdx g }
  match c with
  | 1 => each (fun j x => (fp32.add x (bias.getD j 0)).bits)
  | 2 => each (fun _ x => (fp32.mul x w).bits)
  | 3 => each (fun j x => (fp32.add x (f.getD j 0)).bits)
  | 4 => each (fun _ x => if nan x then fp32.nan else if pos x then x else 0)
  | 5 => each (fun _ x => if nan x then fp32.nan else if pos x then x else (fp32.mul (leAt b 0x18 4) x).bits)
  | 6 | 7 | 8 => each (fun _ x => (fp32.approx (xfFun c) x).bits)
  | 9 => each (fun _ x => if nan x then fp32.nan else fp32.minMax false (fp32.minMax true x (leAt b 0x20 4)) (leAt b 0x24 4))
  | 10 => each (fun j x => (fp32.add x (x0.getD j 0)).bits)
  | 11 =>
    let y := st.x.mapIdx (fun j x => if xfKeep b e j then (fp32.mul x (leAt b 0x1C 4)).bits else 0)
    { st with x := y, dropped := st.dropped + ((List.range st.x.length).filter (fun j => !xfKeep b e j)).length }
  | 12 =>
    let r := if xfQfmt b = 2 then xfQuantMx 8 st.x else xfQuantF (if xfQfmt b = 0 then e4m3 else e5m2) st.x
    { st with x := r.1, sats := st.sats + r.2 }
  | 13 =>
    let v := sumVals (st.x.mapIdx (fun j x => (mulVal (fp32.decode x) (fp32.decode (att.getD j 0))).1))
    { st with x := [(fp32.deliver v.val).bits] }
  | 14 => { st with x := [(fp32.deliver (sumVals (st.x.map fp32.decode)).val).bits] }
  | _ => st

/-- Elements of a float format widened to FP32. -/
def widenRow (f n : Nat) (l : List Byte) : List Nat :=
  (List.range n).map (fun j => (cvtFloat (outFmt f) fp32 .even (leAt l (j * xfSize f) (xfSize f))).bits)

/-! ### GX-CN frames (R149 to R151) -/

/-- The deltas of a frame: the neighbours after one, or none where the frame is malformed. -/
def cnDeltas : List Byte → Nat → Nat → Nat → Nat → Option (List Nat)
  | [], left, _, _, _ => if left = 0 then some [] else none
  | b :: t, left, prev, acc, k =>
    if left = 0 then (if b = 0 ∧ t.all (· == 0) then some [] else none)
    else if 7 ≤ k then none
    else
      let acc := acc + b.toNat % 128 * 2 ^ (7 * k)
      if 128 ≤ b.toNat then cnDeltas t left prev acc (k + 1)
      else if 2 ^ 48 ≤ prev + acc then none
      else (cnDeltas t (left - 1) (prev + acc) 0 0).map (fun l => (prev + acc) :: l)

/-- A decoded frame. -/
structure CnFrame where
  nbrs : List Nat
  ord : Nat
  last : Bool
  deriving DecidableEq, Repr

/-- The frame of 64 bytes at a place in its list: `first`, and the neighbours of the list left (2^24 - 1: unknown). A LAST frame
whose COUNT runs past DEG is malformed, as one that ends before it: R151 does not name that case (the model's choice, log 90). -/
def cnFrame (b : List Byte) (first : Bool) (left : Nat) : Option CnFrame :=
  let c := leAt b 11 1
  let n := bitsOf c 0 6
  let last := c.testBit 6
  if n = 0 ∨ 49 < n ∨ c.testBit 7 ≠ first ∨ leAt b 12 4 ≠ 0 then none
  else if left ≠ 0xFFFFFF ∧ ((last ∧ n ≠ left) ∨ (last = false ∧ left ≤ n)) then none
  else (cnDeltas (b.drop 16) (n - 1) (leAt b 0 6) 0 0).map (fun l => { nbrs := leAt b 0 6 :: l, ord := leAt b 6 5, last := last })

/-! ### The engine's reads -/

/-- Why a stream's step fails: an engine fault, or a job fault with the list vertex and ordinal where known (R181). -/
inductive GErr where
  | eng (e : EFault)
  | job (r : Reason) (vertex ord : Option Nat)

/-- What a step works on: the state, the data that peers returned for far pages, and the 64-byte requests of the step that are
not settled yet, and all of them. -/
structure GS where
  s : State
  far : List Byte
  reqs : Nat := 0
  total : Nat := 0

/-- A step of the gather engine or the intersect unit. -/
abbrev GM (α : Type) := ExceptT GErr (StateM GS) α

/-- The 64-byte requests of a range. -/
def reqsOf (va n : Nat) : Nat := if n = 0 then 0 else (va + n - 1) / 64 - va / 64 + 1

/-- A read of a virtual range; `counted`: one that the stack cache counts (R166). -/
def gReadBytes (t : TileId) (p : Priv) (fb : FarBy) (va n : Nat) (counted : Bool) : GM (List Byte) := do
  let g ← get
  match g.s.engineRead t p fb va n g.far counted with
  | (.error e, s) => set ({ g with s := s } : GS); throw (.eng e)
  | (.ok r, s) => set ({ g with s := s, far := r.far } : GS); return r.data

/-- Requests of a stream issued. -/
def gIssue (n : Nat) : GM Unit := modify (fun g => { g with reqs := g.reqs + n, total := g.total + n })

/-- A read of a stream: its requests count in GROWS or GSQUASH only (R166, R177). -/
def gRead (t : TileId) (p : Priv) (fb : FarBy) (va n : Nat) : GM (List Byte) := do
  gIssue (reqsOf va n)
  gReadBytes t p fb va n false

/-- A read of the intersect unit, which no run-ahead makes. -/
def iRead (t : TileId) (p : Priv) (fb : FarBy) (va n : Nat) : GM (List Byte) := gReadBytes t p fb va n true

/-- The requests of a list or an edge settled: counted in GROWS as committed or in GSQUASH as squashed (R166, R177). -/
def gSettle (t : TileId) (r : TileReg) : GM Unit := modify (fun g => { g with s := g.s.bump t r g.reqs, reqs := 0 })

/-- The state changed. -/
def gMod (f : State → State) : GM Unit := modify (fun g => { g with s := f g.s })

/-- Whether a vertex is active by the frontier bitmap (R156). -/
def gActive (t : TileId) (x : Stream) (fb : FarBy) (v : Nat) : GM Bool := do
  let d := x.desc
  if gdFbase d ≤ v ∧ v < gdFbase d + gdFlen d then
    let k := v - gdFbase d
    let b ← gRead t x.priv fb (gdFront d + k / 8) 1
    return (leVal b).testBit (k % 8)
  else return gdFout d

/-- An edge weight as FP32 (R152). -/
def gWeight (t : TileId) (x : Stream) (fb : FarBy) (ord : Nat) : GM Nat := do
  let f := gdWfmt x.desc
  let n := if f = 1 then 4 else if f = 4 then 1 else 2
  if f = 0 then return 0
  else
    let va := gdWgt x.desc + ord * n
    let b ← gRead t x.priv fb va n
    let v := if f ≤ 3 then cvtFloat (outFmt (f - 1)) fp32 .even (leVal b) else fp32.put .even (dyadic (signed (8 * n) (leVal b)) 0)
    return v.bits

/-! ### Steps of the walk (R155 to R159, R168) -/

/-- A list opened: the LIST test, then its index entries (R148, R149, R156). The requests of a list that fails LIST are squashed. -/
def gOpenList (t : TileId) (x : Stream) (fb : FarBy) : GM Stream := do
  let d := x.desc
  let v := x.vertex
  let skip : Stream := { x with vertex := v + 1 }
  let ok ← if gdFtest d % 2 = 1 then gActive t x fb v else pure true
  if ok = false then
    gMod (·.bumpLo (.tile t .gskip))
    gSettle t .gsquash
    return skip
  else if gdCn d then
    let b ← gRead t x.priv fb (gdIndex d + 8 * v) 8
    let w := leVal b
    gSettle t .grows
    if bitsOf w 40 24 = 0 then return skip
    else return { x with inList := true, cur := bitsOf w 0 40, stop := bitsOf w 40 24, idx := 0, first := true }
  else
    let b ← gRead t x.priv fb (gdIndex d + 8 * v) 16
    let o0 := leAt b 0 8
    let o1 := leAt b 8 8
    gSettle t .grows
    if 2 ^ 40 ≤ o0 ∨ 2 ^ 40 ≤ o1 ∨ o1 < o0 then throw (.job .gatherForm (some v) none)
    else if o0 = o1 then return skip
    else return { x with inList := true, cur := o0, stop := o1, first := true }

/-- The next edge of the open list: neighbour, ordinal, and the walk past it. A frame, or a 64-byte block of entries, is one request
as the walk enters it (log 89). -/
def gNextEdge (t : TileId) (x : Stream) (fb : FarBy) : GM (Nat × Nat × Stream) := do
  let d := x.desc
  let v := x.vertex
  if gdCn d then
    gIssue (if x.idx = 0 then 1 else 0)
    let b ← gReadBytes t x.priv fb (gdNbr d + 64 * x.cur) 64 false
    match cnFrame b x.first x.stop with
    | none => throw (.job .gatherForm (some v) none)
    | some f =>
      let x' := if x.idx + 1 < f.nbrs.length then { x with idx := x.idx + 1 }
        else if f.last then { x with inList := false, vertex := v + 1 }
        else { x with cur := x.cur + 1, idx := 0, first := false,
                      stop := if x.stop = 0xFFFFFF then x.stop else x.stop - f.nbrs.length }
      return (f.nbrs.getD x.idx 0, f.ord + x.idx, x')
  else
    let va := gdNbr d + gdEntry d * x.cur
    gIssue (if x.first ∨ va % 64 < gdEntry d then 1 else 0)
    let b ← gReadBytes t x.priv fb va (gdEntry d) false
    let n := leVal b
    if 2 ^ 48 ≤ n then throw (.job .gatherForm (some v) (some x.cur))
    else
      return (n, x.cur, if x.cur + 1 < x.stop then { x with cur := x.cur + 1, first := false } else { x with inList := false, vertex := v + 1 })

/-- The tests of an edge after LIST (R156, R157): the expert index of one that continues. -/
def gTests (t : TileId) (x : Stream) (fb : FarBy) (n ord : Nat) : GM (Option Nat) := do
  let d := x.desc
  let ok ← if 2 ≤ gdFtest d then gActive t x fb n else pure true
  if ok = false then return none
  else if gdRten d then
    let b ← gRead t x.priv fb (gdRoute d + n) 1
    let r := leVal b
    if r.testBit 6 then throw (.job .gatherForm (some x.vertex) (some ord))
    else if r.testBit 7 = false ∧ (gdExpmask d).testBit (bitsOf r 0 6) then return some (bitsOf r 0 6)
    else return none
  else return some 0xFF

/-- The row and the edge feature of a committed edge (R158, R168). -/
def gParts (t : TileId) (x : Stream) (fb : FarBy) (n ord : Nat) : GM (List Byte × List Byte) := do
  let d := x.desc
  let rv := if gdRowsel d then x.vertex else n
  let row ← gRead t x.priv fb (gdRows d + rv * gdStride d) (16 * gdRowu d)
  let ef ← gRead t x.priv fb (gdEfeat d + ord * 16 * gdEfu d) (16 * gdEfu d)
  return (row, ef)

/-- A committed edge of a record stream placed in the ring (R158, R159). The bytes past the edge feature up to the record's size are
0, as the model's choice (log 90). Its requests are settled as the record is returned or squashed. -/
def gRecord (t : TileId) (x y : Stream) (fb : FarBy) (n ord ex : Nat) : GM Stream := do
  let d := x.desc
  let (row, ef) ← gParts t x fb n ord
  let w ← gWeight t x fb ord
  let rec32 := leBytes 6 n ++ leBytes 2 ex ++ leBytes 8 x.vertex ++ leBytes 8 (ord % 2 ^ 40) ++ leBytes 4 w ++ leBytes 4 x.delivered
  let off := gdStageoff d + x.delivered % gdRing d * gdRecord d
  gMod (·.write (sramPa t off) (padTo (gdRecord d) (rec32 ++ row ++ ef)))
  let g ← get
  set { g with reqs := 0 }
  return { y with delivered := x.delivered + 1, reqs := x.reqs ++ [g.reqs] }

/-- A vector of FP32 elements read for a stage, where a stage uses it. -/
def gVector (t : TileId) (x : Stream) (fb : FarBy) (stage va n : Nat) : GM (List Nat) := do
  if (xfStages x.xf).contains stage then
    let b ← gRead t x.priv fb va (4 * n)
    return (List.range n).map (fun j => leAt b (4 * j) 4)
  else return []

/-- The payload of a pot token: the transform of the edge's row (R265 to R267). -/
def gTransform (t : TileId) (x : Stream) (fb : FarBy) (row ef : List Byte) (w ord : Nat) : GM (List Byte) := do
  let b := x.xf
  let n := xfNin b
  let x0 := widenRow (xfRfmt b) n row
  let f := widenRow (xfEfmt b) n ef
  let bias ← gVector t x fb 1 (leAt b 8 8) n
  let att ← gVector t x fb 13 (leAt b 0x10 8) n
  let r := (xfStages b).foldl (xfStage b x0 f bias att w ord) { x := x0, dropped := 0, sats := 0 }
  gMod fun s => ((s.bumpLo (.tile t .xform)).bumpHi (.tile t .xform) r.dropped).bump t .xqsat r.sats
  let pd := gdPotdesc x.desc
  return padTo (16 * potUnits pd) (r.x.flatMap (fun e => leBytes (potInSize pd) (infmtBits pd e)))

/-- A committed edge of an edge path: its map entry, the transform, and the token (R170, R171). -/
def gEmit (t : TileId) (x y : Stream) (fb : FarBy) (n ord : Nat) : GM Stream := do
  let d := x.desc
  let dst := if gdFmt d % 2 = 0 then n else x.vertex
  let ma := gdMap d + dst / 2 ^ gdBlkshift d * 8
  let m ← gRead t x.priv fb ma 8
  let w := leVal m
  if w.testBit 63 = false then
    gMod (·.bump t .gedrop)
    gSettle t .grows
    return y
  else
    let slot := bitsOf w 24 20 + dst % 2 ^ gdBlkshift d
    if bitsOf w 44 19 ≠ 0 ∨ 2 ^ 20 ≤ slot then throw (.job .gatherRange (some x.vertex) (some ord))
    else
      let (arg, payload) ← (if gdPot d then do
          let (row, ef) ← gParts t x fb n ord
          let wt ← gWeight t x fb ord
          let p ← gTransform t x fb row ef wt ord
          pure (gdPotdesc d, p)
        else pure (1, []))
      gMod fun s =>
        let k := s.tokenTo t (bitsOf w 0 24 + slot * 2 ^ 24) (gdOp d) (gdSuit d) arg payload
        (s.queueSend t none (.token k (.bytes payload))).bump t .gedges
      gSettle t .grows
      return y

/-- One step of a stream: the end of the range, a list opened or skipped, or one edge. An edge waits while the window or
the token unit is full (R159, R172). -/
def gStep (t : TileId) (x : Stream) (fb : FarBy) : GM Stream := do
  let d := x.desc
  if x.inList = false then
    if gdV1 d ≤ x.vertex then return { x with fin := true } else gOpenList t x fb
  else
    let (n, ord, y) ← gNextEdge t x fb
    let r ← gTests t x fb n ord
    match r with
    | none =>
      gMod (·.bumpHi (.tile t .gskip))
      gSettle t .gsquash
      return y
    | some ex =>
      let rv := if gdRowsel d then x.vertex else n
      if gdRowu d ≠ 0 ∧ gdRowcnt d ≤ rv then throw (.job .gatherRange (some x.vertex) (some ord))
      else if gdEpath d then gEmit t x y fb n ord
      else gRecord t x y fb n ord ex

/-- A stream at its end once its last list is walked (R179). -/
def Stream.ends (x : Stream) : Stream := { x with fin := x.fin || (!x.inList && decide (gdV1 x.desc ≤ x.vertex)) }

/-- Whether a stream can take its next step: the window or the token unit has room, and fewer requests than REQCAP are in flight
(R159, R172, R180). -/
def State.gRoom (s : State) (t : TileId) (x : Stream) : Bool :=
  if Word.bits (s.tileReg t .gthcfg) 0 11 ≤ s.gOutNow t then false
  else if x.inList = false then true
  else if gdEpath x.desc then s.tokRoom t
  else decide (x.delivered < x.released + gdWindow x.desc)

/-- GOUT's maximum raised to the requests in flight, which a step's own are until they return within it (R177). -/
def State.gOut (s : State) (t : TileId) (q : Nat) : State :=
  s.modReg (.tile t .gout) (fun w =>
    Word.setBits w 32 11 (max (Word.bits w 32 11) (min (s.gOutNow t + q) (Word.bits (s.tileReg t .gthcfg) 0 11))))

/-- GOUT as it reads: the requests outstanding now beside the maximum (R177). -/
def State.goutShow (s : State) (t : TileId) : Word := Word.setBits (s.tileReg t .gout) 0 11 (s.gOutNow t)

/-- GATHER_RETURN: the requests of a stream's next step return, and the step is taken (R155 to R172). `far`: the data that
peers returned for far pages. -/
def execGatherReturn (t : TileId) (n : Nat) (far : List Byte) (s : State) : Out :=
  .next (
    match Tab.find? (s.tile t).streams n with
    | none => s
    | some x =>
      match x.owner with
      | none => s
      | some c =>
        if s.computeOn = false ∨ s.stopping t ∨ x.fin ∨ s.gRoom t x = false then s
        else
          let fb : FarBy := { ctx := some c, seq := x.seq, suit := (s.ctx { tile := t, ctx := c }).suit, stream := n }
          let i : FaultInfo := { engine := some .gather, stream := some n, vertex := some x.vertex, extra := n }
          match (gStep t x fb).run { s := s, far := far } with
          | (.ok y, g) =>
            ((g.s.modTile t (fun T => { T with streams := Tab.set T.streams n y.ends })).gOut t g.total).progress t
          | (.error (.eng e), g) => g.s.raiseEngine t (some c) e i
          | (.error (.job r v o), g) => g.s.raiseTile t r { i with ctx := some c, addr := v.getD 0, vertex := v, ordinal := o })

/-! ### Instructions (R154, R160 to R164) -/

/-- The encoding word of a gather instruction. -/
def gWord (f3 f7 : Nat) (f : RFields) : Nat := rWord 0x5B f3 f7 f

/-- The stream number that a GOPEN takes: the spec lets it take any free one (log 22). -/
def State.freeStream (s : State) (t : TileId) : Option Nat :=
  s.choose 0 ((List.range 64).filter (fun n => (Tab.find? (s.tile t).streams n).isNone))

/-- GOPEN (R154). With no stream free, or twelve held by the task, it answers -1 and reads nothing. -/
def execGopen (c : CtxRef) (f : RFields) (far : List Byte) (s : State) : Out :=
  .next (s.issue c 4 fun s =>
    if f.rs2 ≠ 0 then s.illegal c (gWord 0 0 f)
    else if s.allPerformed c = false then s.stallRetry c
    else
      let T := s.tile c.tile
      let mine := (T.streams.filter (fun p => p.2.owner == some c.ctx)).length
      match s.freeStream c.tile with
      | none => s.retireX c f.rd Word.ones
      | some n =>
        if 12 ≤ mine then s.retireX c f.rd Word.ones
        else
          let va := (s.getX c f.rs1).toNat
          let bad := fun (s : State) => (s.raiseTile c.tile .gatherDesc { ctx := some c.ctx, addr := va, extra := n, engine := some .gather, stream := some n }).retire c
          s.withDesc c 4 .gather va (s.readDesc c va 160 32 far) fun s b =>
            if s.gdOk c.tile b (s.spadesOk c) = false then bad s
            else
              let use := gdEpath b && gdPot b
              s.withDesc c 4 .gather (gdXform b) (if use then s.readDesc c (gdXform b) 64 64 (far.drop 160) else (.ok [], s)) fun s xf =>
                if use ∧ xfOk xf b = false then bad s
                else
                  let k := s.ctx c
                  let x : Stream :=
                    { desc := b, xf := xf, owner := some c.ctx, handler := k.inIrq, seq := (s.tile c.tile).seq, priv := k.priv,
                      vertex := gdV0 b, inList := false, cur := 0, stop := 0, idx := 0, first := false,
                      fin := decide (gdV1 b ≤ gdV0 b), drain := false, delivered := 0, returned := 0, released := 0, reqs := [] }
                  ({ s with free := s.free + 1 }.modTile c.tile (fun T => { T with streams := Tab.set T.streams n x })).retireX c f.rd (BitVec.ofNat 64 n))

/-- The stream that a handle names for a context's task (R163). -/
def State.handle (s : State) (c : CtxRef) (r : XReg) : Option (Nat × Stream) :=
  let n := (s.getX c r).toNat
  match Tab.find? (s.tile c.tile).streams n with
  | some x => if x.owner = some c.ctx then some (n, x) else none
  | none => none

/-- A stream replaced, and one aborted: the requests of records not returned are squashed, and the stream is free once its
requests in flight have returned (R162, R166, R180). -/
def State.setStream (s : State) (t : TileId) (n : Nat) (x : Stream) : State :=
  s.modTile t (fun T => { T with streams := Tab.set T.streams n x })
def State.abortStream (s : State) (t : TileId) (n : Nat) (x : Stream) : State :=
  let out := s.streamOut t n
  let s := s.modTile t (fun T =>
    let left := if out = 0 then Tab.erase T.streams n else Tab.set T.streams n { x with owner := none, aborted := true, reqs := [] }
    { T with streams := left })
  s.bump t .gsquash (x.reqs.foldl (· + ·) 0)

/-- Every stream of a context that a test picks aborted (R162). -/
def State.abortStreams (s : State) (c : CtxRef) (p : Stream → Bool) : State :=
  ((s.tile c.tile).streams.filter (fun q => q.2.owner == some c.ctx && p q.2)).foldl (fun s q => s.abortStream c.tile q.1 q.2) s

/-- GNEXT (R161). -/
def execGnext (c : CtxRef) (f : RFields) (s : State) : Out :=
  .next (s.issue c 4 fun s =>
    match f.rs2 == 0, s.handle c f.rs1 with
    | true, some (n, x) =>
      let x := { x with released := x.returned }
      let s := s.setStream c.tile n x
      if gdEpath x.desc then s.retireX c f.rd (if x.fin then Word.ones else Word.ones - 1)
      else if x.returned < x.delivered then
        let off := gdStageoff x.desc + x.returned % gdRing x.desc * gdRecord x.desc
        let s := s.setStream c.tile n { x with returned := x.returned + 1, reqs := x.reqs.tail }
        ((s.bump c.tile .gedges).bump c.tile .grows (x.reqs.headD 0)).retireX c f.rd (BitVec.ofNat 64 off)
      else if x.fin then s.retireX c f.rd Word.ones
      else if Word.bit (s.ctx c).gctl 0 then s.retireX c f.rd (Word.ones - 1)
      else s.stallRetry c
    | _, _ => s.illegal c (gWord 0 1 f))

/-- GCLOSE (R162). -/
def execGclose (c : CtxRef) (f : RFields) (s : State) : Out :=
  .next (s.issue c 4 fun s =>
    match f.rs2 == 0 && f.rd == 0, s.handle c f.rs1 with
    | true, some (n, x) => ((s.abortStream c.tile n x).retire c).progress c.tile
    | _, _ => s.illegal c (gWord 0 2 f))

/-- GCLOSE.W (R162): on an edge-path stream it first waits for the end of the range. -/
def execGcloseW (c : CtxRef) (f : RFields) (s : State) : Out :=
  .next (s.issue c 4 fun s =>
    match f.rs2 == 0 && f.rd == 0, s.handle c f.rs1 with
    | true, some (n, x) =>
      if gdEpath x.desc ∧ x.fin = false then (s.setStream c.tile n { x with drain := true }).stallRetry c
      else ((s.abortStream c.tile n x).retire c).progress c.tile
    | _, _ => s.illegal c (gWord 0 3 f))

/-- The GSTREAM word of a stream with `out` requests in flight (R179). -/
def gstreamWord (x : Stream) (out : Nat) : Word :=
  BitVec.ofNat 64 (1 + (x.owner.isNone && !x.aborted).toNat * 2 + (x.drain || x.aborted).toNat * 4 + x.fin.toNat * 8
    + (match x.owner with | some c => c.val | none => 0) * 2 ^ 4 + min 256 (x.delivered - x.released) * 2 ^ 9 + out % 2 ^ 11 * 2 ^ 18)

/-- GSTAT (R164). -/
def execGstat (c : CtxRef) (f : RFields) (s : State) : Out :=
  .next (s.issue c 4 fun s =>
    match f.rs2 == 0, s.handle c f.rs1 with
    | true, some (n, x) => s.retireX c f.rd (gstreamWord x (s.streamOut c.tile n))
    | _, _ => s.illegal c (gWord 0 4 f))

/-! ### The intersect unit (R173 to R175) -/

def idKind (b : List Byte) (o : Nat) : Nat := bitsOf (leAt b o 8) 0 2
def idWide (b : List Byte) (o : Nat) : Bool := (leAt b o 8).testBit 2
def idVtx (b : List Byte) (o : Nat) : Nat := leAt b (o + 8) 8
def idVa1 (b : List Byte) (o : Nat) : Nat := leAt b (o + 0x10) 8
def idVa2 (b : List Byte) (o : Nat) : Nat := leAt b (o + 0x18) 8
def idLo (b : List Byte) : Nat := leAt b 0x40 8
def idHi (b : List Byte) : Nat := leAt b 0x48 8
def idOut (b : List Byte) : Nat := leAt b 0x50 8
def idMax (b : List Byte) : Nat := leAt b 0x58 4

/-- Whether an intersect descriptor is well formed (R173). -/
def idOk (b : List Byte) : Bool :=
  let list := fun (o : Nat) =>
    idKind b o != 3 && decide (leAt b o 8 < 8) && !(idKind b o == 1 && idWide b o) && is48 (idVtx b o) && is48 (idVa1 b o)
      && (idKind b o == 2 || is48 (idVa2 b o))
  list 0 && list 0x20 && is48 (idLo b) && is48 (idHi b) && is48 (idOut b) && aligned (idOut b) 8 && leAt b 0x5C 4 == 0

/-- ISECT at issue (R174, R175): queued behind the tile's running one, at most eight waiting. -/
def execIsect (c : CtxRef) (f : RFields) (far : List Byte) (s : State) : Out :=
  .next (s.issue c 4 fun s =>
    if f.rs2 ≠ 0 then s.illegal c (gWord 1 0 f)
    else if 9 ≤ (s.tile c.tile).isects.length ∨ s.allPerformed c = false then s.stallRetry c
    else
      s.withDesc c 4 .isect (s.getX c f.rs1).toNat (s.readDesc c (s.getX c f.rs1).toNat 96 32 far) fun s b =>
        if idOk b = false then
          (s.raiseTile c.tile .gatherDesc { ctx := some c.ctx, addr := (s.getX c f.rs1).toNat, engine := some .isect }).retire c
        else
          let q : Isect := { ctx := c.ctx, rd := f.rd, priv := (s.ctx c).priv, seq := (s.tile c.tile).seq, desc := b }
          (s.modTile c.tile (fun T => { T with isects := T.isects ++ [q], seq := T.seq + 1 })).stallResult c)

/-- Elements of an array read up to and including the first above `hi`; each is at least its predecessor (R174). `v` is the list
vertex, if the array is a vertex's, whose entries begin with the ordinal `ord`; `n` counts the elements left. -/
def iArray (t : TileId) (q : Isect) (fb : FarBy) (wide : Bool) (hi : Nat) (v : Option Nat) : Nat → Nat → Nat → Nat → GM (List Nat)
  | 0, _, _, _ => pure []
  | n + 1, va, ord, prev => do
    let size := if wide then 8 else 4
    let b ← iRead t q.priv fb va size
    let x := leVal b
    let at_ := v.map (fun _ => ord)
    if 2 ^ 48 ≤ x then throw (.job .gatherForm v at_)
    else if x < prev then throw (.job .gatherOrder v at_)
    else if hi < x then return [x]
    else
      let r ← iArray t q fb wide hi v n (va + size) (ord + 1) x
      return x :: r

/-- The elements of a GX-CN list, frame by frame; `fuel` bounds the frames. -/
def iFrames (t : TileId) (q : Isect) (fb : FarBy) (hi base v : Nat) : Nat → Nat → Nat → Bool → Nat → GM (List Nat)
  | 0, _, _, _, _ => pure []
  | fuel + 1, frame, left, first, prev => do
    let b ← iRead t q.priv fb (base + 64 * frame) 64
    match cnFrame b first left with
    | none => throw (.job .gatherForm (some v) none)
    | some f =>
      let low := f.nbrs.takeWhile (fun x => decide (x ≤ hi))
      if f.nbrs.headD 0 < prev then throw (.job .gatherOrder (some v) (some f.ord))
      else if low.length < f.nbrs.length ∨ f.last then return low
      else
        let r ← iFrames t q fb hi base v fuel (frame + 1) (if left = 0xFFFFFF then left else left - f.nbrs.length) false
          (f.nbrs.getLastD 0)
        return low ++ r

/-- One list of an ISECT read (R174). -/
def iList (t : TileId) (q : Isect) (fb : FarBy) (o : Nat) : GM (List Nat) := do
  let b := q.desc
  let hi := idHi b
  let v := idVtx b o
  if idKind b o = 2 then iArray t q fb (idWide b o) hi none v (idVa1 b o) 0 0
  else if idKind b o = 1 then
    let e ← iRead t q.priv fb (idVa1 b o + 8 * v) 8
    let w := leVal e
    if bitsOf w 40 24 = 0 then return []
    else iFrames t q fb hi (idVa2 b o) v (2 ^ 40) (bitsOf w 0 40) (bitsOf w 40 24) true 0
  else
    let e ← iRead t q.priv fb (idVa1 b o + 8 * v) 16
    let o0 := leAt e 0 8
    let o1 := leAt e 8 8
    if 2 ^ 40 ≤ o0 ∨ 2 ^ 40 ≤ o1 ∨ o1 < o0 then throw (.job .gatherForm (some v) none)
    else iArray t q fb (idWide b o) hi (some v) (o1 - o0) (idVa2 b o + (if idWide b o then 8 else 4) * o0) o0 0

/-- The matches of two sorted lists: equal elements pair off (R174). `fuel` bounds the steps. -/
def iMerge : Nat → List Nat → List Nat → List Nat
  | 0, _, _ => []
  | _ + 1, [], _ => []
  | _ + 1, _, [] => []
  | n + 1, a :: s, b :: t =>
    if a = b then a :: iMerge n s t else if a < b then iMerge n s (b :: t) else iMerge n (a :: s) t

/-- The match list of an ISECT. -/
def iMatches (t : TileId) (q : Isect) (fb : FarBy) : GM (List Nat) := do
  if idHi q.desc < idLo q.desc then return []
  else
    let a ← iList t q fb 0
    let b ← iList t q fb 0x20
    let keep := fun (l : List Nat) => l.filter (fun x => decide (idLo q.desc ≤ x ∧ x ≤ idHi q.desc))
    return iMerge (a.length + b.length) (keep a) (keep b)

/-- ISECT_COMPLETE: the tile's running ISECT completes (R174, R175). -/
def execIsectComplete (t : TileId) (far : List Byte) (s : State) : Out :=
  .next (
    match (s.tile t).isects with
    | [] => s
    | q :: rest =>
      if s.computeOn = false ∨ s.stopping t then s
      else
        let c : CtxRef := { tile := t, ctx := q.ctx }
        let fb : FarBy := { ctx := some q.ctx, seq := q.seq, suit := (s.ctx c).suit }
        let done := fun (s : State) => (s.modTile t (fun T => { T with isects := rest })).progress t
        let i : FaultInfo := { engine := some .isect, ctx := some q.ctx }
        match (iMatches t q fb).run { s := s, far := far } with
        | (.error (.eng e), g) => done (g.s.raiseEngine t (some q.ctx) e i)
        | (.error (.job r v o), g) => done (g.s.raiseTile t r { i with addr := v.getD 0, vertex := v, ordinal := o })
        | (.ok l, g) =>
          let out := (l.take (idMax q.desc)).flatMap (leBytes 8)
          match g.s.engineWrite t q.priv fb (idOut q.desc) out with
          | (.error e, s) => done (s.raiseEngine t (some q.ctx) e i)
          | (.ok _, s) =>
            done ((s.bumpLo (.tile t .gisect)).modCtx c (fun k => ((k.setX q.rd (BitVec.ofNat 64 l.length)).retire 4).wake)))

/-- A context's ISECT abandoned by a trap or a pre-emption; it will execute again (R175). -/
def State.abandonIsect (s : State) (c : CtxRef) : State :=
  if (s.tile c.tile).isects.any (fun q => q.ctx == c.ctx) then
    let s := s.modTile c.tile (fun T => { T with isects := T.isects.filter (fun q => q.ctx != c.ctx) })
    (s.bumpHi (.tile c.tile .gisect)).modCtx c (fun k => k.wake)
  else s

end Sys2Proof.Machine
end

