-- ==== Sys2Proof/Machine/Csr.lean ====
section
/-! DEFINITION. The CSRs (R28, R31, R58 to R64, R570): their values, their writable fields, and what a write does. -/

namespace Sys2Proof.Machine

/-! ### Standard machine CSRs (R59) -/

/-- mstatus: MIE, MPIE, MPP and the constant UXL of a 64-bit U-mode (PRESUMED from RISC-V, log 44). -/
def Ctx.mstatus (k : Ctx) : Word :=
  BitVec.ofNat 64 (k.mie1.toNat * 2 ^ 3 + k.mpie.toNat * 2 ^ 7 + (if k.mpp = .m then 3 else 0) * 2 ^ 11 + 2 * 2 ^ 32)

/-- mstatus written; MPP holds only M or U. -/
def Ctx.setMstatus (k : Ctx) (w : Word) : Ctx :=
  let p := Word.bits w 11 2
  { k with mie1 := Word.bit w 3, mpie := Word.bit w 7, mpp := if p = 3 then .m else if p = 0 then .u else k.mpp }

/-- misa: RV64IMAC and the X bit. -/
def misaValue : Word := 0x8000000000801105

/-- The interrupt causes of R66 as bits of mie and mip. -/
def causeBits : Nat := maskBits 16 6

/-- mtvec written: a reserved MODE keeps the old one (R12, R59). -/
def writeMtvec (old new : Word) : Word :=
  if Word.bits new 0 2 ≤ 1 then new else Word.setBits new 0 2 (Word.bits old 0 2)

/-- Whether the timer of a context is at or beyond its deadline (R64). -/
def State.timerDue (s : State) (k : Ctx) : Bool := decide (k.mtimecmp.toNat ≤ s.now)

/-! ### CSRs of a vector context (R208, R209, R243, R257) -/

/-- The writable fields of the vector CSRs. -/
def vcsrFields (n : Nat) : List FieldSpec :=
  match n with
  | 0x800 => [fld 0 2 .rw, fld 2 3 .rw, fld 5 1 .rw, fld 6 1 .rw]
  | 0x801 | 0x802 => [fldIn 0 6 .rw 1 32]
  | 0x810 =>
    let ok := fun (v : Nat) => [1, 2, 3, 4, 5, 16, 17, 18, 19, 20, 21].contains v
    [{ lo := 0, n := 5, acc := .rw, ok := ok }, { lo := 5, n := 5, acc := .rw, ok := ok }, fld 10 1 .rw, fld 11 1 .rw,
     fld 12 1 .rw, fld 13 1 .rw]
  | 0x811 => [fld 0 32 .rw]
  | 0x812 => [fld 0 6 .rw, fld 7 1 .rw]
  | 0x818 => [fld 0 1 .rw]
  | _ => []

/-- A vector CSR; none for an unassigned number. -/
def VCtx.csr (v : VCtx) (n : Nat) : Option Word :=
  match n with
  | 0x800 => some v.vcfg | 0x801 => some v.vlr | 0x802 => some v.vlc | 0x810 => some v.mxcfg | 0x811 => some v.mxrmask
  | 0x812 => some v.mxpred | 0x818 => some v.epicfg | 0xCE8 => some v.file.stat
  | 0xCEC => some (Tab.get 0 v.file.acc 0) | 0xCED => some (Tab.get 0 v.file.acc 1) | 0xCEE => some (Tab.get 0 v.file.acc 2)
  | 0xCEF => some (Tab.get 0 v.file.acc 3)
  | _ => none

/-- A vector CSR set to a value. -/
def VCtx.putCsr (v : VCtx) (n : Nat) (w : Word) : VCtx :=
  match n with
  | 0x800 => { v with vcfg := w } | 0x801 => { v with vlr := w } | 0x802 => { v with vlc := w } | 0x810 => { v with mxcfg := w }
  | 0x811 => { v with mxrmask := w } | 0x812 => { v with mxpred := w } | 0x818 => { v with epicfg := w }
  | _ => v

/-- Whether a CSR is reached through the binding (R36). -/
def isVcsr (n : Nat) : Bool := decide (0x800 ≤ n ∧ n < 0x820) || n == 0xCE8 || decide (0xCEC ≤ n ∧ n ≤ 0xCEF)

/-! ### Dealer views (R140) -/

/-- DDEPTH: the depth of a tile's hand per suit, each field saturating. -/
def Tile.depthOf (T : Tile) (u : Suit) : Nat := ((T.hand ++ T.spilled).filter (fun h => h.suit == u)).length
def Tile.ddepth (T : Tile) : Word :=
  BitVec.ofNat 64 ((List.finRange 4).foldl (fun a (u : Suit) => a + min 0xFFFF (T.depthOf u) * 2 ^ (16 * u.val)) 0)

/-- DCTX: PARKED contexts, and save records in use. -/
def Tile.dctx (T : Tile) : Word :=
  let parked := (List.finRange 32).foldl (fun a (c : CtxId) => if (T.ctx c).st = .parked then a + 2 ^ c.val else a) 0
  BitVec.ofNat 64 (parked + T.saved.length % 64 * 2 ^ 32 + (T.saved.filter (fun x => x.vrec.isSome)).length % 16 * 2 ^ 38)

/-- The register of a quad's DSUIT counter. -/
def dsuitReg (u : Suit) : QuadReg :=
  match u with
  | 0 => .dsuit0 | 1 => .dsuit1 | 2 => .dsuit2 | 3 => .dsuit3

/-! ### Reads -/

/-- The per-tile counters that CSRs show, from a first number. -/
def csrTileRegs (n : Nat) : Option TileReg :=
  if 0xCD0 ≤ n ∧ n ≤ 0xCDD then
    ([.meldocc, .potocc, .kittydepth, .tokin, .tokout, .fires, .prearm, .cuts, .kdiv, .evict, .potsat, .potnan, .kearly, .drops] :
      List TileReg)[n - 0xCD0]?
  else if 0xCE0 ≤ n ∧ n ≤ 0xCE6 then
    ([.gedges, .grows, .gskip, .gsquash, .gedrop, .gisect, .gout] : List TileReg)[n - 0xCE0]?
  else if 0xCE9 ≤ n ∧ n ≤ 0xCEB then ([.vinstr, .vbusy, .vlane] : List TileReg)[n - 0xCE9]?
  else if 0xCF0 ≤ n ∧ n ≤ 0xCF6 then
    ([.sigout, .waits, .wakes, .tgate, .xfers, .saudit, .barr] : List TileReg)[n - 0xCF0]?
  else if 0xCF8 ≤ n ∧ n ≤ 0xCFB then ([.elook, .embdrop, .emptybag, .erephit] : List TileReg)[n - 0xCF8]?
  else
    match n with
    | 0xC00 => some .cycle | 0xCC1 => some .ddepthmax | 0xCC2 => some .dbusy | 0xCC3 => some .ddeals | 0xCC4 => some .dpre
    | 0xCC5 => some .daff | 0xCC7 => some .dspill
    | _ => none

/-- The quad registers that CSRs show. -/
def csrQuadRegs (n : Nat) : Option QuadReg :=
  match n with
  | 0xCC8 => some .dsuit0 | 0xCC9 => some .dsuit1 | 0xCCA => some .dsuit2 | 0xCCB => some .dsuit3 | 0xCCD => some .dguard
  | 0xCCE => some .ddefer
  | _ => none

/-- The CSRs of a control-core context and its tile (R570); none for an unassigned number. -/
def State.csrOwn (s : State) (c : CtxRef) (n : Nat) : Option Word :=
  let k := s.ctx c
  let t := c.tile
  match csrTileRegs n, csrQuadRegs n with
  | some r, _ => some (if r = .gout then s.goutShow t else s.tileReg t r)
  | none, some r => some (s.quadReg (quadOfTile t) r)
  | none, none =>
    match n with
    | 0x300 => some k.mstatus | 0x301 => some misaValue | 0x304 => some k.mie | 0x305 => some (s.tile t).mtvec | 0x306 => some 7
    | 0x340 => some k.mscratch | 0x341 => some k.mepc | 0x342 => some k.mcause | 0x343 => some k.mtval | 0x344 => some k.mip
    | 0x7C0 => some (BitVec.ofNat 64 (c.ctx.val + tileNum t * 2 ^ 5
        + (match k.vctx with | some v => v.val * 2 ^ 15 + 2 ^ 17 | none => 0)))
    | 0x7C1 => some (s.tileReg t .mjob) | 0x7C2 => some (s.tileReg t .jptbase) | 0x7C3 => some 0 | 0x7C4 => some k.mtimecmp
    | 0x7D0 => some k.mdirq | 0x7D1 => some (Tab.get 0 k.mdirqw 0) | 0x7D2 => some (Tab.get 0 k.mdirqw 1)
    | 0x7D3 => some (Tab.get 0 k.mdirqw 2) | 0x7D4 => some (Tab.get 0 k.mdirqw 3) | 0x7D5 => some k.mdirqpc
    | 0x820 => some k.gctl | 0x830 => some k.tkarg | 0x840 => some k.sigcfg
    | 0xC01 => some (BitVec.ofNat 64 s.now) | 0xC02 => some k.instret
    | 0xCC0 => some (s.tile t).ddepth | 0xCC6 => some (s.tile t).dctx | 0xCCC => some k.tasksrc
    | 0xCDE => some k.taskn | 0xCDF => some k.taskpot
    | 0xF14 => some (BitVec.ofNat 64 (tileNum t * 32 + c.ctx.val))
    | _ => if 0x848 ≤ n ∧ n ≤ 0x84F then some (Tab.get 0 k.saud (Fin.ofNat 8 (n - 0x848))) else none

/-- Whether a privilege mode may reach a CSR number: bits [9:8] name the lowest mode (R58). -/
def csrPriv (p : Priv) (n : Nat) : Bool := p == .m || bitsOf n 8 2 == 0

/-- What an access to a CSR finds: its value, a wait for the vector instructions before it (R208), or no such CSR for the
context. -/
inductive CsrRead where
  | val (w : Word)
  | wait
  | illegal
  deriving DecidableEq, Repr

def State.csrRead (s : State) (c : CtxRef) (n : Nat) : CsrRead :=
  if csrPriv (s.ctx c).priv n = false then .illegal
  else if isVcsr n then
    match (s.ctx c).vctx with
    | none => .illegal
    | some v =>
      match (s.vctx c.tile v).csr n with
      | none => .illegal
      | some w => if 0xC00 ≤ n ∧ (s.vctx c.tile v).queue ≠ [] then .wait else .val w
  else
    match s.csrOwn c n with
    | some w => .val w
    | none => .illegal

/-! ### Writes -/

/-- A write of a word to an assigned CSR outside the read-only number range (R12, R13, R59 to R64). Read-only registers
ignore it. -/
def State.csrWrite (s : State) (c : CtxRef) (n : Nat) (w : Word) : State :=
  let m := fun (f : Ctx → Ctx) => s.modCtx c f
  if isVcsr n then
    match (s.ctx c).vctx with
    | some v =>
      match (s.vctx c.tile v).csr n with
      | some old => s.modVctx c.tile v (fun V => V.putCsr n (fieldsWrite (vcsrFields n) false old w))
      | none => s
    | none => s
  else
    match n with
    | 0x300 => m (fun k => k.setMstatus w)
    | 0x304 => m (fun k => { k with mie := BitVec.ofNat 64 (w.toNat &&& causeBits) })
    | 0x305 => if (s.tile c.tile).mtvecLock then s else s.modTile c.tile (fun T => { T with mtvec := writeMtvec T.mtvec w })
    | 0x340 => m (fun k => { k with mscratch := w })
    | 0x341 => m (fun k => { k with mepc := Word.setBit w 0 false })
    | 0x342 => m (fun k => { k with mcause := w })
    | 0x343 => m (fun k => { k with mtval := w })
    | 0x344 => m (fun k => { k with mip := BitVec.ofNat 64 ((w.toNat &&& maskBits 16 5) ||| (k.mip.toNat &&& maskBits 21 1)) })
    | 0x7C2 => s.writeReg (.tile c.tile .jptbase) w
    | 0x7C3 => s.modTile c.tile (fun T => { T with tlb := T.tlb.filter (fun e => e.slot != s.jslot c.tile) })
    | 0x7C4 => m (fun k => let k := { k with mtimecmp := w }; { k with mip := Word.setBit k.mip 21 (s.timerDue k) })
    | 0x820 => m (fun k => { k with gctl := fieldsWrite [fld 0 1 .rw] false k.gctl w })
    | 0x830 => m (fun k => { k with tkarg := fieldsWrite [fld 0 32 .rw] false k.tkarg w })
    | 0x840 => m (fun k => { k with sigcfg := fieldsWrite [fld 0 1 .rw] false k.sigcfg w })
    | _ => s

end Sys2Proof.Machine
end

