-- ==== Sys2Proof/Machine/Clock.lean ====
section
/-! DEFINITION. The global timebase and its sources (R493, R494, R401): offsets measured, steering, and steps. -/

namespace Sys2Proof.Machine

/-- Whether the I3C function of the call lines is in effect (R520, R524). -/
def State.i3cFunction (s : State) : Bool := Word.bit (s.stewReg .cpcfg) 0 && !Word.bit (s.stewReg .cpfault) 24

/-- The time source in use (R494): 1 the Espex parent, 2 the IEEE 1588 master, 3 the chassis 1 PPS, whose seconds come over I3C and which
is no source without it (R520); 0 none. -/
def State.bestSrc (s : State) : Nat :=
  let w := s.portReg 0 .timecfg
  if Word.bit w 4 ∧ s.portUp (Fin.ofNat 16 (Word.bits w 0 4)) then 1
  else if s.power.ptpOk then 2
  else if s.power.ppsOk && s.i3cFunction then 3
  else 0

/-- TIMESTAT.SRC brought up to date. -/
def State.updateSrc (s : State) : State := s.modReg (.stew .timestat) (fun w => Word.setBits w 0 2 s.bestSrc)

/-- The full range of STEER (R493). -/
def steerMax : Nat := 655

/-- An offset of a source measured, in nanoseconds (R494, R497): recorded if the source is the one in use. The steward slews
by STEER: at its full range past 1 ms after B14, which sets UNLOCK; otherwise by a value within the range that the spec
leaves to it (a free value, log 48). -/
def State.measured (s : State) (src : Nat) (off : Int) : State :=
  let s := s.updateSrc
  if s.bestSrc ≠ src ∨ src = 0 then s
  else
    let far := s.b14Passed && decide (1000000 < off.natAbs)
    let sat : Int := max (-(2 ^ 31)) (min (2 ^ 31 - 1) off)
    let s := s.modReg (.stew .timestat) fun w =>
      let w := Word.setBits (Word.setBit w 2 (decide (off.natAbs ≤ 1000))) 32 32 (unsigned 32 sat)
      if far then Word.setBit w 3 true else w
    let free := Config.free s.free % (2 * steerMax + 1)
    let steer : Int := if far then (if 0 < off then (steerMax : Int) else -(steerMax : Int)) else (free : Int) - steerMax
    let s := if far then s else { s with free := s.free + 1 }
    s.modReg (.stew .timesteer) (fun w => Word.setBits w 0 16 (unsigned 16 steer))

/-- Whether TIMESET is accepted: before B15 of a cold or module start (R497). -/
def State.timesetOk (s : State) : Bool := s.boot.active && decide (s.boot.base ≤ 1 ∧ s.boot.step < 15)

/-- TIMESET: the timebase stepped (R494, R497). -/
def execTimeset (ns : Word) (s : State) : Out := .next (if s.timesetOk then { s with timebase := ns.toNat * 2 ^ 16 } else s)

/-- PPS_LOSS: no valid second pulse for 2 s; the source falls to the next (R498). -/
def execPpsLoss (s : State) : Out := .next ({ s with power := { s.power with ppsOk := false } } : State).updateSrc

/-- PTP_MASTER_LOST: the IEEE 1588 master stops being available; the source falls to the next (R494). -/
def execPtpMasterLost (s : State) : Out := .next ({ s with power := { s.power with ptpOk := false } } : State).updateSrc

end Sys2Proof.Machine
end

