-- ==== Sys2Proof/Machine/Integer.lean ====
section
/-! DEFINITION. The integer arithmetic of RV64IMC with Zba and Zbb (R27), and the arithmetic of AMOs (R30). -/

namespace Sys2Proof.Machine

/-- A Boolean result in a register. -/
def boolWord (b : Bool) : Word := if b then 1 else 0

/-- The low 32 bits of a word, sign-extended. -/
def sext32 (w : Word) : Word := (w.setWidth 32).signExtend 64

/-- The low 32 bits of a word, zero-extended. -/
def zext32 (w : Word) : Word := (w.setWidth 32).setWidth 64

/-- DIV and REM of 64 bits, with RISC-V's results for a zero divisor and for overflow. -/
def divS (a b : Word) : Word := if b = 0 then Word.ones else BitVec.sdiv a b
def divU (a b : Word) : Word := if b = 0 then Word.ones else a / b
def remS (a b : Word) : Word := if b = 0 then a else BitVec.srem a b
def remU (a b : Word) : Word := if b = 0 then a else a % b

/-- The upper 64 bits of a product of integers. -/
def mulHigh (x y : Int) : Word := BitVec.ofInt 64 (x * y / 2 ^ 64)

/-- Register-register operations on 64 bits. -/
def aluEval (op : AluOp) (a b : Word) : Word :=
  match op with
  | .add => a + b
  | .sub => a - b
  | .sll => a <<< (b.toNat % 64)
  | .slt => boolWord (a.slt b)
  | .sltu => boolWord (a.ult b)
  | .xor => a ^^^ b
  | .srl => a >>> (b.toNat % 64)
  | .sra => a.sshiftRight (b.toNat % 64)
  | .or => a ||| b
  | .and => a &&& b
  | .mul => a * b
  | .mulh => mulHigh a.toInt b.toInt
  | .mulhsu => mulHigh a.toInt b.toNat
  | .mulhu => mulHigh a.toNat b.toNat
  | .div => divS a b
  | .divu => divU a b
  | .rem => remS a b
  | .remu => remU a b
  | .sh1add => (a <<< 1) + b
  | .sh2add => (a <<< 2) + b
  | .sh3add => (a <<< 3) + b
  | .addUw => zext32 a + b
  | .sh1addUw => (zext32 a <<< 1) + b
  | .sh2addUw => (zext32 a <<< 2) + b
  | .sh3addUw => (zext32 a <<< 3) + b
  | .andn => a &&& ~~~b
  | .orn => a ||| ~~~b
  | .xnor => ~~~(a ^^^ b)
  | .max => if a.slt b then b else a
  | .maxu => if a.ult b then b else a
  | .min => if a.slt b then a else b
  | .minu => if a.ult b then a else b
  | .rol => a.rotateLeft (b.toNat % 64)
  | .ror => a.rotateRight (b.toNat % 64)

/-- Register-register operations on 32 bits, the result sign-extended. -/
def aluWEval (op : AluWOp) (a b : Word) : Word :=
  let x : BitVec 32 := a.setWidth 32
  let y : BitVec 32 := b.setWidth 32
  let sh := y.toNat % 32
  let r : BitVec 32 :=
    match op with
    | .addw => x + y
    | .subw => x - y
    | .sllw => x <<< sh
    | .srlw => x >>> sh
    | .sraw => x.sshiftRight sh
    | .mulw => x * y
    | .divw => if y = 0 then 0xFFFFFFFF else BitVec.sdiv x y
    | .divuw => if y = 0 then 0xFFFFFFFF else x / y
    | .remw => if y = 0 then x else BitVec.srem x y
    | .remuw => if y = 0 then x else x % y
    | .rolw => x.rotateLeft sh
    | .rorw => x.rotateRight sh
  r.signExtend 64

/-- Operations with a 12-bit immediate, which is sign-extended. -/
def aluIEval (op : AluIOp) (a : Word) (imm : BitVec 12) : Word :=
  let b : Word := imm.signExtend 64
  match op with
  | .addi => a + b
  | .slti => boolWord (a.slt b)
  | .sltiu => boolWord (a.ult b)
  | .xori => a ^^^ b
  | .ori => a ||| b
  | .andi => a &&& b
  | .addiw => sext32 (a + b)

/-- Shifts and rotates by an immediate; the 32-bit forms use its low five bits. -/
def shiftEval (op : ShiftOp) (a : Word) (n : Fin 64) : Word :=
  let x : BitVec 32 := a.setWidth 32
  match op with
  | .slli => a <<< n.val
  | .srli => a >>> n.val
  | .srai => a.sshiftRight n.val
  | .rori => a.rotateRight n.val
  | .slliUw => zext32 a <<< n.val
  | .slliw => (x <<< (n.val % 32)).signExtend 64
  | .srliw => (x >>> (n.val % 32)).signExtend 64
  | .sraiw => (x.sshiftRight (n.val % 32)).signExtend 64
  | .roriw => (x.rotateRight (n.val % 32)).signExtend 64

/-- One-operand operations of Zbb. -/
def unaryEval (op : UnOp) (a : Word) : Word :=
  match op with
  | .clz => BitVec.ofNat 64 (clzBits 64 a.toNat)
  | .ctz => BitVec.ofNat 64 (ctzBits 64 a.toNat)
  | .cpop => BitVec.ofNat 64 (popBits 64 a.toNat)
  | .clzw => BitVec.ofNat 64 (clzBits 32 a.toNat)
  | .ctzw => BitVec.ofNat 64 (ctzBits 32 a.toNat)
  | .cpopw => BitVec.ofNat 64 (popBits 32 a.toNat)
  | .sextB => sext 8 a.toNat
  | .sextH => sext 16 a.toNat
  | .zextH => BitVec.ofNat 64 (Word.bits a 0 16)
  | .orcB => BitVec.ofNat 64 ((List.range 8).foldl (fun r i => r + (if Word.bits a (8 * i) 8 = 0 then 0 else 0xFF * 2 ^ (8 * i))) 0)
  | .rev8 => BitVec.ofNat 64 (leVal (Word.bytes a).reverse)

/-- Whether a branch is taken. -/
def brTaken (op : BrOp) (a b : Word) : Bool :=
  match op with
  | .beq => a == b
  | .bne => a != b
  | .blt => a.slt b
  | .bge => !a.slt b
  | .bltu => a.ult b
  | .bgeu => !a.ult b

/-- The bytes of an access width. -/
def widthBytes : Width → Nat
  | .b => 1 | .h => 2 | .w => 4 | .d => 8

/-- The value a load of a width leaves in its register. -/
def loadExtend (w : Width) (uns : Bool) (x : Nat) : Word :=
  if uns then BitVec.ofNat 64 (x % 2 ^ (8 * widthBytes w)) else sext (8 * widthBytes w) x

/-- The value an AMO stores, on `n` bits: old value, then operand. -/
def amoEval (op : AmoOp) (n old v : Nat) : Nat :=
  let a := old % 2 ^ n
  let b := v % 2 ^ n
  match op with
  | .swap => b
  | .add => (a + b) % 2 ^ n
  | .xor => a ^^^ b
  | .and => a &&& b
  | .or => a ||| b
  | .min => if signed n a ≤ signed n b then a else b
  | .max => if signed n a ≤ signed n b then b else a
  | .minu => min a b
  | .maxu => max a b

/-- The code of an AMO in a FARAMO packet (R390). -/
def amoCode : AmoOp → Nat
  | .swap => 0 | .add => 1 | .xor => 2 | .and => 3 | .or => 4 | .min => 5 | .max => 6 | .minu => 7 | .maxu => 8

/-- The AMO of a FARAMO code (R390). -/
def amoOf? : Nat → Option AmoOp
  | 0 => some .swap | 1 => some .add | 2 => some .xor | 3 => some .and | 4 => some .or | 5 => some .min
  | 6 => some .max | 7 => some .minu | 8 => some .maxu
  | _ => none

end Sys2Proof.Machine
end

