-- ==== Sys2Proof/Machine/Meld.lean ====
section
/-! DEFINITION. The meld store (R78 to R102): acceptance of tokens, slots and their transitions, pots, the cut, the kitty, and
the commands of a token's arrival. -/

namespace Sys2Proof.Machine

/-! ### Slots and capacity (R80, R99, R113) -/

/-- The slot that a token names (R80, R95). -/
def tokName (k : Token) : SlotName :=
  match k.shard with
  | some r => if k.op = opPotMerge then .prog k.slot else .shard r
  | none => .prog k.slot

/-- The resident entry of a name. -/
def Tile.findSlot (T : Tile) (n : SlotName) : Option (Nat × Slot) := List.find? (fun p => p.2.name == n) T.slots

/-- An entry just taken for a name, on its own tile (R80, R124). -/
def Slot.fresh (n : SlotName) (last : TileId) : Slot :=
  { name := n, st := .preArmed, suit := 0, last := last, entry := 0, setmask := 0, cut := false, sat := false, nan := false,
    km1 := 0, expected := 0, received := 0, n := 0, desc := 0, ptr := none, satcnt := 0, opw := [], m := 0, m2 := 0,
    backlog := [], stats := [], remain := [], rot := 0, merging := [], firedAt := 0, waited := false, reloaded := false }

/-- A slot entry set, and an entry freed. -/
def State.setSlot (s : State) (t : TileId) (i : Nat) (e : Slot) : State :=
  (s.modTile t (fun T => { T with slots := Tab.set T.slots i e })).loseResv (sramPa t (s.slotBase t + 128 * i)) 128
def State.freeSlot (s : State) (t : TileId) (i : Nat) : State :=
  (s.modTile t (fun T => { T with slots := Tab.erase T.slots i })).loseResv (sramPa t (s.slotBase t + 128 * i)) 128

/-- The entry that a name takes: its own RETIRED one, else a FREE one, else a RETIRED one reclaimed (R80). The lowest
number is taken (the mapping is internal). -/
def State.entryFor (s : State) (t : TileId) (n : SlotName) : Option (Nat × Slot) :=
  let T := s.tile t
  match T.findSlot n with
  | some (i, e) => some (i, Slot.fresh n e.last)
  | none =>
    match firstBelow (s.slotCap t) (fun i => (Tab.find? T.slots i).isNone) with
    | some i => some (i, Slot.fresh n t)
    | none =>
      (firstBelow (s.slotCap t) (fun i => match Tab.find? T.slots i with | some e => e.st == .retired | none => false)).map
        (fun i => (i, Slot.fresh n t))

/-- The pot rows in use: offset and size. -/
def Tile.potRows (T : Tile) : List (Nat × Nat) :=
  T.slots.filterMap (fun p => match p.2.ptr with
    | some o => some (o, potArea p.2.desc p.2.expected)
    | none => none)

/-- A free place of `n` bytes in the pot area: the lowest (R99; allocation is the implementation's). -/
def State.potAlloc (s : State) (t : TileId) (n : Nat) : Option Nat :=
  let rows := (s.tile t).potRows
  let base := s.potBase t
  let fits := fun o => decide (o + n ≤ base + s.potSize t) && rows.all (fun r => !overlaps o n r.1 r.2)
  ((base :: rows.map (fun r => r.1 + r.2)).filter fits).foldl (fun (b : Option Nat) o =>
    match b with | none => some o | some x => some (min x o)) none

/-- MELDOCC, POTOCC and KITTYDEPTH brought up to date (R113). -/
def State.occupancy (s : State) (t : TileId) : State :=
  let T := s.tile t
  let occ := (T.slots.filter (fun p => p.2.st != .retired)).length
  let pots := (T.potRows.foldl (fun a r => a + r.2) 0) / 64
  let upd := fun (v : Nat) (w : Word) => Word.setBits (Word.setBits w 0 32 v) 32 16 (max (Word.bits w 32 16) v)
  let s := s.modReg (.tile t .meldocc) (upd occ)
  let s := s.modReg (.tile t .potocc) (upd pots)
  s.setReg (.tile t .kittydepth) (BitVec.ofNat 64 T.kitty.length)

/-! ### Faults (R115) -/

/-- What a fault of the meld store gives: the slot name, and the operation. -/
def meldInfo (slot : BitVec 20) (op : BitVec 6) : FaultInfo := { addr := slot.toNat, extra := op.toNat, op := some op.toNat }

/-- A fault of the meld store: it names the slot and the operation. -/
def State.meldFault (s : State) (t : TileId) (r : Reason) (slot : BitVec 20) (op : BitVec 6) : State :=
  s.raiseTile t r (meldInfo slot op)

/-! ### The kitty (R100 to R102, R118) -/

/-- The bytes that the kitty share's contents take: a token its own size, an evicted slot its record and row, a spilled
hand entry 16 (R72, R118; the layout is the implementation's). -/
def KItem.size : KItem → Nat
  | .token _ k _ => 16 + k.payload.length
  | .slot _ row => 128 + row.length
def Tile.kittyUse (T : Tile) : Nat := T.kitty.foldl (fun a k => a + k.size) 0 + 16 * T.spilled.length

/-- Whether the kitty share has room for `n` more bytes. -/
def State.kittyRoom (s : State) (t : TileId) (n : Nat) : Bool :=
  decide ((s.tile t).kittyUse + n ≤ Word.bits (s.tileReg t .kittysize) 0 32 * 4096)

/-- A free place for `n` bytes in an area of `size` bytes: a 64-byte boundary, and how many of the bytes lie within (log 85). -/
def State.freePlace (s : State) (size n : Nat) : Nat × Nat × State :=
  let off := 64 * (Config.free s.free % (size / 64))
  (off, min n (size - off), { s with free := s.free + 1 })

/-- Bytes on their way to or from the kitty buffered in the tile's kitty staging (R369); the write ends reservations there (R30).
Place and content are the implementation's (R116): free values (log 85). -/
def State.stageKitty (s : State) (t : TileId) (n : Nat) : State :=
  if n = 0 ∨ s.ksSize t < 64 then s
  else
    let (off, k, s) := s.freePlace (s.ksSize t) n
    let (b, s) := s.freeBytes k
    s.write (sramPa t (s.ksBase t + off)) b

/-- Bytes of kitty traffic moved: through staging, and written to the tile's share of the kitty in DRAM or read from it (R100,
R101). A read that consumes poison is the tile's job's DRAM_UE (R348). -/
def State.moveKitty (s : State) (t : TileId) (n : Nat) (out : Bool) : State :=
  let s := s.stageKitty t n
  let size := Word.bits (s.tileReg t .kittysize) 0 32 * 4096
  if n = 0 ∨ size < 64 then s
  else
    let (off, k, s) := s.freePlace size n
    let pa := (s.tileReg t .kittybase).toNat + off
    if out then
      let (b, s) := s.freeBytes k
      s.writeAt pa b
    else
      match s.readAt pa k with
      | (some _, s) => s
      | (none, s) => s.raiseTile t .dramUe { addr := pa, found := some 0 }

/-- A token put into the kitty share; a full share raises KITTY_FULL (R102). -/
def State.toKitty (s : State) (t : TileId) (k : Token) (early : Bool) : State :=
  let it : KItem := .token (tokName k) k early
  if s.kittyRoom t it.size then (s.modTile t (fun T => { T with kitty := T.kitty ++ [it] })).moveKitty t it.size true
  else s.meldFault t .kittyFull k.slot k.op

/-- The name of a kitty item. -/
def KItem.name : KItem → SlotName
  | .token n _ _ => n
  | .slot e _ => e.name

/-- Whether the kitty holds the evicted entry of a name. -/
def Tile.evicted (T : Tile) (n : SlotName) : Bool :=
  T.kitty.any (fun k => match k with | .slot e _ => e.name == n | _ => false)

/-! ### Tokens that the meld store sends (R71, R95) -/

/-- The mesh ingress of a die: a token for an excluded, folded or invalid tile is dropped and counted in TKDEAD; when
its job runs, TOKEN_MISROUTE is raised (R79). -/
def State.meshIn (s : State) (k : Token) : State :=
  let dead := match tileOf? k.dtile.toNat with
    | some t => s.tileExcl t || (s.tile t).folded
    | none => true
  if dead then
    let d : DieId := Fin.ofNat 4 (k.dtile.toNat / 256)
    let s := s.modReg (.die d .tkdead) (· + 1)
    if (s.job k.jslot).st = .running then
      s.raise k.jslot .tokenMisroute { meldInfo k.slot k.op with unit := .die d }
    else s
  else { s with mesh := s.mesh ++ [k] }

/-- A token that a tile's meld store originates for another tile (R71, R95). -/
def State.meldSend (s : State) (t dst : TileId) (k : Token) : State :=
  (({ s with } : State).bump t .tokout).meshIn
    { k with ddev := s.devId, dtile := BitVec.ofNat 10 (tileNum dst), jslot := s.jslot t,
             epoch := BitVec.ofNat 8 (Word.bits (s.tileReg t .mjob) 8 8), rsv := false, xid := 0, xseq := 0,
             plen := BitVec.ofNat 5 (k.payload.length / 16) }

/-! ### The cut (R93 to R97) -/

/-- The cut degree D (R93). -/
def State.cutDeg (s : State) (t : TileId) : Nat :=
  let d := Word.bits (s.tileReg t .cutcfg) 0 32
  if d = 0 then 2 ^ 32 - 1 else d

/-- The tiles that hold a cut slot's shards: the placement hash (R97). -/
def State.shardTiles (s : State) (t : TileId) (slot : Nat) : List TileId :=
  let h := (slot * 0x9E3779B1 + tileNum t * 0x85EBCA77) % 2 ^ 32
  let base := h / 2 ^ 16 % 144
  ((List.range 144).filterMap (fun i =>
    let o := (base + 61 * i) % 144
    tileOfOrd? (t.die.val * 144 + o))).filter (fun u => !s.tileExcl u)

/-- The tile of shard j. -/
def State.shardTile (s : State) (t : TileId) (slot j : Nat) : TileId :=
  let l := s.shardTiles t slot
  l.getD (j % l.length) t

/-- The arming SPAWN of a shard (R95). -/
def armingSpawn (e : Slot) (r : ShardRef) (count : Nat) : Token :=
  { ddev := 0, dtile := 0, slot := r.slot, op := opSpawn, suit := e.suit, jslot := 0, epoch := 0, plen := 1, rsv := false,
    arg := BitVec.ofNat 32 count, xid := 0, xseq := 0,
    payload := leBytes 8 (e.entry % 2 ^ 16 + bitsOf count 32 6 * 2 ^ 16 + e.desc * 2 ^ 32) ++ leBytes 8 0,
    shard := some r }

/-- The number of shards, and the count that shard j expects (R95). -/
def shardCount (e' d : Nat) : Nat := min 64 (max 2 (ceilDiv e' d))
def shardExpect (e' k j : Nat) : Nat := (e' + k - 1 - j) / k

/-- The next shard in rotation that still has count to fill (R96). -/
def nextShard (remain : List Nat) (rot : Nat) : Option Nat :=
  ((List.range remain.length).map (fun i => (rot + i) % remain.length)).find? (fun j => decide (remain.getD j 0 ≠ 0))

/-- The count of a token (R73). -/
def tokCount (k : Token) : Nat :=
  if k.op = opSpawn then 0 else if k.op = opArrive then k.arg.toNat else 1

/-- A count forwarded to the shards, an ARRIVE split where it exceeds a shard's (R96). `fuel` bounds the split. -/
def State.forward : Nat → State → TileId → BitVec 20 → Slot → Token → Nat → State × Slot
  | 0, s, _, _, e, _, _ => (s, e)
  | fuel + 1, s, t, slot, e, k, need =>
    if need = 0 then (s, e)
    else
      match nextShard e.remain e.rot with
      | none => (s, e)
      | some j =>
        let take := min need (e.remain.getD j 0)
        let r : ShardRef := { tile := t, slot := slot, j := Fin.ofNat 64 j }
        let k' := { k with shard := some r, arg := if k.op = opArrive then BitVec.ofNat 32 take else k.arg }
        let s := s.meldSend t (s.shardTile t slot.toNat j) k'
        let e := { e with remain := modAt e.remain j (fun x => x - take), rot := (j + 1) % e.remain.length }
        State.forward fuel s t slot e k (need - take)

/-- Whether a slot's KIND may be cut (R93). -/
def cuttable (desc : Nat) : Bool := decide (potKind desc ≤ 4)

/-- A slot cut: it keeps what it has absorbed and waits for its shards' merges; the shards are armed, and the tokens
that waited in the backlog stay for forwarding (R95, R96). -/
def State.cutSlot (s : State) (t : TileId) (slot : BitVec 20) (e : Slot) (static : Bool) : State × Slot :=
  let e' := e.expected - e.received
  let k := shardCount e' (s.cutDeg t)
  let s := if static then s.bumpLo (.tile t .cuts) else s.bumpHi (.tile t .cuts)
  let s := (List.range k).foldl (fun s j =>
    let r : ShardRef := { tile := t, slot := slot, j := Fin.ofNat 64 j }
    s.meldSend t (s.shardTile t slot.toNat j) (armingSpawn e r (shardExpect e' k j))) s
  (s, { e with cut := true, km1 := k - 1, expected := e.received + k,
               remain := (List.range k).map (shardExpect e' k), rot := 0 })

/-! ### Absorption (R82, R83, R86 to R88, R92) -/

/-- What becomes of a token at its slot: taken, diverted for want of a pot row, or a job fault. -/
inductive Take where
  | ok (s : State) (e : Slot)
  | divert
  | fault (r : Reason)

/-- A pot row allocated and started (R85, R87). -/
def State.startPot (s : State) (t : TileId) (e : Slot) (desc : Nat) : Option (State × Slot) :=
  match s.potAlloc t (potArea desc e.expected) with
  | none => none
  | some o =>
    let row := padTo (potRowSize desc) (potRowBytes desc (List.replicate (potElems desc) (potInit desc)))
    let data := if potKind desc = 5 then List.replicate (potArea desc e.expected) 0
      else padTo (potArea desc e.expected) row
    some (s.write (sramPa t o) data, { e with desc := desc, ptr := some o })

/-- The rows of a slot's pot. -/
def State.potS1 (s : State) (t : TileId) (e : Slot) : List Int :=
  potRow e.desc (s.bytes (sramPa t (e.ptr.getD 0)) (potRowSize e.desc))
def State.potS2 (s : State) (t : TileId) (e : Slot) : List Int :=
  if potKind e.desc = 2 then potRow e.desc (s.bytes (sramPa t (e.ptr.getD 0) + potRowSize e.desc) (potRowSize e.desc)) else []

/-- The rows of a slot's pot written back. -/
def State.putPot (s : State) (t : TileId) (e : Slot) (s1 s2 : List Int) : State :=
  let s := s.write (sramPa t (e.ptr.getD 0)) (potRowBytes e.desc s1)
  if potKind e.desc = 2 then s.write (sramPa t (e.ptr.getD 0) + potRowSize e.desc) (potRowBytes e.desc s2) else s

/-- A value token added into the pot of its slot (R86 to R89). -/
def State.addPot (s : State) (t : TileId) (e : Slot) (payload : List Byte) : State × Slot :=
  let xs := potInputs e.desc payload
  let s := s.sramSeen t (sramPa t (e.ptr.getD 0)) (potRowSize e.desc * (if potKind e.desc = 2 then 2 else 1))
  let s1 := ((s.potS1 t e).zip xs).map (fun p => potCombine e.desc p.1 p.2.s)
  let s2 := ((s.potS2 t e).zip xs).map (fun p => signed (potWidth e.desc) (unsigned (potWidth e.desc) (p.1 + p.2.s * p.2.s)))
  let top := xs.foldl (fun a x => max a x.s.natAbs) 0
  let sats := (xs.filter (fun x => x.sat)).length
  (s.putPot t e s1 s2,
   { e with n := min (2 ^ 40 - 1) (e.n + 1), m := boundAdd e.desc e.m top,
            m2 := if potKind e.desc = 2 then boundAdd e.desc e.m2 (top * top) else e.m2,
            sat := e.sat || decide (sats ≠ 0), satcnt := min (2 ^ 32 - 1) (e.satcnt + sats),
            nan := e.nan || xs.any (fun x => x.nan) })

/-- Payload units of a STAT token of a slot (R259). -/
def statUnits (desc : Nat) : Nat := ceilDiv (potElems desc) 2

/-- A counted token absorbed by an uncut slot, or a SET by a cut home, its count apart (R82, R83, R92). A STAT leaves N as it is:
R88 does not say whether it is a value token (the model's choice, log 86). -/
def State.absorbBody (s : State) (t : TileId) (e : Slot) (k : Token) : Take :=
  let armed := decide (e.st = .armed)
  if k.op = opSet then
    let w := k.arg.toNat % 4
    if e.setmask.testBit w then .fault .slotSetTwice
    else .ok s { e with setmask := e.setmask + 2 ^ w, opw := Tab.set e.opw (Fin.ofNat 4 w) (BitVec.ofNat 64 (leAt k.payload 0 8)) }
  else if k.op = opArrive then .ok s e
  else if k.op = opStat then
    let idx := k.arg.toNat % 2 ^ 16
    if (armed ∧ potKind e.desc ≠ 5) ∨ (armed = false ∧ e.desc ≠ 0) then .fault .potMismatch
    else if armed ∧ k.plen.toNat ≠ statUnits e.desc then .fault .tokenForm
    else if e.stats.any (fun p => p.1 == idx) ∨ (armed ∧ e.expected ≤ idx) then .fault .statIndex
    else
      let s := match e.ptr with
        | some o => s.write (sramPa t (o + idx * 16 * k.plen.toNat)) k.payload
        | none => s
      .ok s { e with stats := e.stats ++ [(idx, k.payload)] }
  else
    let d := k.arg.toNat
    if potKind d ≠ opKind k.op.toNat then .fault .potMismatch
    else if e.desc = d then let r := s.addPot t e k.payload; .ok r.1 r.2
    else if e.desc ≠ 0 ∨ armed ∨ e.stats ≠ [] then .fault .potMismatch
    else
      match s.startPot t e d with
      | none => .divert
      | some (s, e) => let r := s.addPot t e k.payload; .ok r.1 r.2

/-- A counted token absorbed, its count added (R82). -/
def State.absorb (s : State) (t : TileId) (e : Slot) (k : Token) : Take :=
  if e.st = .armed ∧ e.expected < e.received + tokCount k then .fault .slotOvercount
  else
    match s.absorbBody t e k with
    | .ok s e => .ok s { e with received := e.received + tokCount k }
    | r => r

/-- A counted token at a cut home: a SET absorbed and replaced by an ARRIVE of 1, everything else forwarded (R96). -/
def State.cutToken (s : State) (t : TileId) (e : Slot) (k : Token) : Take :=
  let need := tokCount k
  if e.remain.foldl (· + ·) 0 < need then .fault .slotOvercount
  else if k.op ≠ opSet ∧ k.op ≠ opArrive ∧ (k.op = opStat ∨ k.arg.toNat ≠ e.desc ∨ potKind k.arg.toNat ≠ opKind k.op.toNat) then
    .fault .potMismatch
  else if k.op = opSet then
    match s.absorbBody t e k with
    | .ok s e =>
      let r := State.forward 65 s t k.slot e { k with op := opArrive, arg := 1, payload := [], plen := 0 } 1
      .ok r.1 r.2
    | r => r
  else let r := State.forward 65 s t k.slot e k need; .ok r.1 r.2

/-! ### Firing (R82, R89 to R92, R260) -/

/-- A slot's pot finished: the record's flags, the counters, and the finished row over the start of the pot row. -/
def State.finishPot (s : State) (t : TileId) (e : Slot) : State × Slot :=
  let d := e.desc
  match e.ptr with
  | none => (s, e)
  | some o =>
    if potKind d = 5 then
      let r := potElems d
      let parts := fun (row : Nat) =>
        (List.range e.expected).filterMap (fun i =>
          (e.stats.find? (fun p => p.1 == i)).map (fun p => (leAt p.2 (8 * row) 4, leAt p.2 (8 * row + 4) 4)))
      let rows := (List.range r).map (fun row => mergeRow (parts row))
      let data := rows.flatMap (fun x => leBytes 4 x.1.1 ++ leBytes 4 x.1.2 ++ leBytes 8 0)
      let s := s.write (sramPa t o) data
      let s := s.bumpLo (.tile t .rowstat) (rows.filter (fun x => x.2.2)).length
      (s.bumpHi (.tile t .rowstat) (rows.filter (fun x => x.2.1)).length, e)
    else
      let lim := 2 ^ (potWidth d - 1) - 1
      let sat := e.sat || decide (lim < e.m) || decide (lim < e.m2)
      let e := if sat then { e with sat := true, satcnt := min (2 ^ 32 - 1) (e.satcnt + 1) } else e
      let s := if sat then s.bump t .potsat else s
      let s := if e.nan then s.bumpLo (.tile t .potnan) else s
      let empty := decide (e.n = 0) && !sat && !e.nan
      let s := if empty then s.bumpHi (.tile t .potnan) else s
      if potOut d = 7 then
        (if empty then s.write (sramPa t o) (List.replicate (potArea d e.expected) 0) else s, e)
      else
        (s.write (sramPa t o) (finishRow d e.n (sat || e.nan) (s.potS1 t e) (s.potS2 t e)), e)

/-- The depth of a tile's hand per suit, and DDEPTHMAX raised to it (R140). -/
def Tile.depth (T : Tile) (u : Suit) : Nat :=
  ((T.hand ++ T.spilled).filter (fun h => h.suit == u)).length
def State.depthMax (s : State) (t : TileId) : State :=
  s.modReg (.tile t .ddepthmax) fun w =>
    (List.finRange 4).foldl (fun w (u : Suit) =>
      Word.setBits w (16 * u.val) 16 (max (Word.bits w (16 * u.val) 16) (min 0xFFFF ((s.tile t).depth u)))) w

/-- A ready item put into its tile's hand; a full hand spills an item of the lowest suit to the kitty share; which of
several is not promised (R118). A full share is KITTY_FULL for the item that spills; the OP is that of the token that made the slot
fire (R102, R115). -/
def State.handAdd (s : State) (t : TileId) (h : HandItem) (op : BitVec 6) : State :=
  let T := s.tile t
  let s :=
    if T.hand.length < 1024 then s.modTile t (fun T => { T with hand := T.hand ++ [h] })
    else
      let all := T.hand ++ [h]
      let low := all.foldl (fun a x => max a x.suit.val) 0
      let (out?, s) := s.pick (all.filter (fun x => x.suit.val == low))
      let out := out?.getD h
      if s.kittyRoom t 16 then
        let s := s.modTile t (fun T => { T with hand := eraseFirst (· == out) (T.hand ++ [h]), spilled := T.spilled ++ [out] })
        (s.bumpLo (.tile t .dspill)).moveKitty t 16 true
      else
        let name : BitVec 20 := match Tab.find? T.slots out.idx with
          | some e => (match e.name with | .prog n => n | .shard r => r.slot)
          | none => 0
        s.meldFault t .kittyFull name op
  s.depthMax t

/-- POT.MERGE of a shard that has absorbed its count (R98). -/
def State.sendMerge (s : State) (t : TileId) (e : Slot) (r : ShardRef) : State :=
  let u0 := leBytes 4 (tileNum t) ++ leBytes 4 ((e.ptr.getD 0) % 2 ^ 24)
    ++ leBytes 8 (e.n % 2 ^ 40 + e.sat.toNat * 2 ^ 40 + e.nan.toNat * 2 ^ 41)
  s.meldSend t r.tile
    { ddev := 0, dtile := 0, slot := r.slot, op := opPotMerge, suit := e.suit, jslot := 0, epoch := 0, plen := 3, rsv := false,
      arg := BitVec.ofNat 32 e.desc, xid := 0, xseq := 0, payload := u0 ++ leBytes 16 e.m ++ leBytes 16 e.m2,
      shard := some r }

/-- A slot whose count is complete: FIRED, its pot finished and its item in the hand; a shard sends its merge instead
(R82, R98). A shard is not counted in FIRES: R113 includes shards for MELDOCC only (the model's choice, log 86). -/
def State.fire (s : State) (t : TileId) (i : Nat) (e : Slot) (op : BitVec 6) : State :=
  match e.name with
  | .shard r => (s.setSlot t i { e with st := .fired }).sendMerge t e r
  | .prog _ =>
    let (s, e) := s.finishPot t e
    let s := s.bump t .fires
    let e := { e with st := .fired, firedAt := (s.tileReg t .cycle).toNat, waited := false }
    (s.setSlot t i e).handAdd t { idx := i, suit := e.suit } op

/-- An entry put back after it took a token: fired where its count is complete. -/
def State.settle (s : State) (t : TileId) (i : Nat) (e : Slot) (op : BitVec 6) : State :=
  if e.st = .armed ∧ e.received = e.expected then s.fire t i e op else s.setSlot t i e

/-! ### SPAWN (R74, R82, R93) -/

def spEntry (k : Token) : Nat := leAt k.payload 0 2
def spExpect (k : Token) : Nat := bitsOf (leAt k.payload 2 2) 0 6 * 2 ^ 32 + k.arg.toNat
def spDesc (k : Token) : Nat := leAt k.payload 4 4
def spMask (k : Token) : Nat := bitsOf (leAt k.payload 8 1) 0 4

/-- The operand words that a SPAWN carries, in ascending index (R74). -/
def spWords (k : Token) : List (Fin 4 × Word) :=
  (onesOf 4 (spMask k)).mapIdx (fun j w => (Fin.ofNat 4 w, BitVec.ofNat 64 (leAt k.payload (16 + 8 * j) 8)))

/-- A SPAWN at a slot that is not armed: fresh, or PRE-ARMED and reconciled (R82, R83, R92, R93). -/
def State.spawnSlot (s : State) (t : TileId) (e : Slot) (k : Token) : Take :=
  let ex := spExpect k
  let d := spDesc k
  let stat := decide (potKind d = 5)
  if stat ∧ (31 < potElems d - 1 ∨ s.cutDeg t ≤ ex - e.received) then .fault .tokenForm
  else if ex < e.received then .fault .slotOvercount
  else if (e.desc ≠ 0 ∧ e.desc ≠ d) ∨ (e.stats ≠ [] ∧ stat = false) then .fault .potMismatch
  else if e.stats.any (fun p => p.2.length != 16 * statUnits d) then .fault .tokenForm
  else if e.stats.any (fun p => decide (ex ≤ p.1)) then .fault .statIndex
  else if e.setmask &&& spMask k ≠ 0 then .fault .slotSetTwice
  else
    let e := { e with st := .armed, expected := ex, entry := spEntry k, suit := k.suit, setmask := e.setmask ||| spMask k,
                      opw := (spWords k).foldl (fun t p => Tab.set t p.1 p.2) e.opw }
    let r := if d ≠ 0 ∧ e.ptr = none then s.startPot t e d else some (s, { e with desc := d })
    match r with
    | none => .divert
    | some (s, e) =>
      let s := match e.ptr with
        | some o => e.stats.foldl (fun s p => s.write (sramPa t (o + p.1 * p.2.length)) p.2) s
        | none => s
      if e.isShard = false ∧ s.cutDeg t ≤ e.expected - e.received ∧ cuttable d then
        let r := s.cutSlot t k.slot e true
        .ok r.1 r.2
      else .ok s e

/-! ### Arrival (R78, R79, R82, R94, R98) -/

/-- The tokens of a slot's backlog absorbed in order, or forwarded where the slot is cut (R94, R96). -/
def State.drainBacklog : List Token → State → TileId → Slot → Take
  | [], s, _, e => .ok s e
  | k :: rest, s, t, e =>
    match (if e.cut then s.cutToken t { e with backlog := rest } k else s.absorb t { e with backlog := rest } k) with
    | .ok s e => State.drainBacklog rest s t e
    | .divert => .ok s { e with backlog := k :: rest }
    | .fault r => .fault r

/-- Whether a backlog calls for a dynamic cut (R94). -/
def State.dynamicCut (s : State) (t : TileId) (e : Slot) : Bool :=
  let b := Word.bits (s.tileReg t .cutcfg) 32 16
  decide (b ≠ 0 ∧ e.st = .armed ∧ b < e.backlog.length ∧ b < e.expected - e.received) && !e.cut && !e.isShard
    && cuttable e.desc

/-- A counted token at an ARMED or PRE-ARMED entry. With `hold` it is received and waits in the backlog, until a later
token, the count or a cut takes the backlog (R94); a token that may need a pot row does not wait. -/
def State.takeCounted (s : State) (t : TileId) (e : Slot) (k : Token) (hold : Bool) : Take :=
  if e.cut then s.cutToken t e k
  else
    let e' := { e with backlog := e.backlog ++ [k] }
    let waiting := e'.backlog.foldl (fun a b => a + tokCount b) 0
    let plain := e.ptr.isSome || k.op == opSet || k.op == opArrive || k.op == opStat
    if s.dynamicCut t e' then
      let r := s.cutSlot t k.slot e' false
      State.drainBacklog r.2.backlog r.1 t r.2
    else if hold ∧ plain ∧ (e.st = .preArmed ∨ e.received + waiting < e.expected) then .ok s e'
    else
      match State.drainBacklog e.backlog s t e with
      | .ok s e => s.absorb t e k
      | r => r

/-- What becomes of an accepted token: its slot took it (or it raised a fault), it diverts for want of an entry or a pot row or
because its slot stands in the kitty (R100, R101), or it is held for a FIRED or RUNNING slot (R82). -/
inductive Fate where
  | taken | diverts | held
  deriving DecidableEq, Repr

/-- What taking a token led to. -/
structure Taken where
  s : State
  fate : Fate

/-! ### The task-entry cache of a dealer (R127) -/

/-- The address of a slot's task-table entry, and its key in the cache of the tile's dealer. -/
def State.entryVa (s : State) (t : TileId) (e : Slot) : Nat := Word.bits (s.tileReg t .tasktab) 3 45 * 8 + 8 * e.entry
def State.entryKey (s : State) (t : TileId) (e : Slot) : JSlot × Nat := (s.jslot t, s.entryVa t e)

/-- The entries that a dealer caches, and the one of a slot. -/
def State.entriesOf (s : State) (q : QuadId) : List ((JSlot × Nat) × Nat) := Tab.get [] s.entries q
def State.cachedEntry (s : State) (t : TileId) (e : Slot) : Option Nat :=
  ((s.entriesOf (quadOfTile t)).find? (fun x => x.1 == s.entryKey t e)).map (·.2)

/-- An entry put into the cache of a tile's dealer. Of 512 entries a full cache keeps the newest; the size and what it gives up are
the implementation's (log 88). -/
def State.cacheEntry (s : State) (t : TileId) (e : Slot) (w : Nat) : State :=
  let q := quadOfTile t
  { s with entries := Tab.set s.entries q ((s.entryKey t e, w) :: ((s.entriesOf q).filter (fun x => x.1 != s.entryKey t e)).take 511) }

/-- Whether a slot's task-table entry lies on a far page. -/
def State.entryFar (s : State) (t : TileId) (e : Slot) : Bool :=
  match (s.engineAddr t .u (s.entryVa t e) .read).1 with
  | .ok (_, some _) => true
  | _ => false

/-- The task-table entry of a slot: from the cache of the dealer, else read by a tile's engines and cached (R84, R120, R127).
`far`: the data of a far page. -/
def State.taskEntry (s : State) (t : TileId) (e : Slot) (far : List Byte) : Except EFault Nat × State :=
  match s.cachedEntry t e with
  | some w => (.ok w, s)
  | none =>
    match s.engineRead t .u { ctx := none, seq := 0, suit := e.suit } (s.entryVa t e) 8 far with
    | (.error x, s) => (.error x, s)
    | (.ok r, s) => (.ok (leVal r.data), s.cacheEntry t e (leVal r.data))

/-- The entry of a slot that a SPAWN arms requested (R127): a failure is none of the job's yet. One on a far page is read when its
data come with the deal (log 88). -/
def State.requestEntry (s : State) (t : TileId) (e : Slot) : State :=
  if e.isShard ∨ s.entryFar t e then s else (s.taskEntry t e []).2

/-- A counted token or a SPAWN done at its entry, or the fault it raises. -/
def State.tookAt (s : State) (t : TileId) (k : Token) (i : Nat) (pre : Bool) (r : Take) : Taken :=
  match r with
  | .ok u e =>
    let u := (if pre then u.bump t .prearm else u).settle t i e k.op
    { s := if k.op = opSpawn then u.requestEntry t e else u, fate := .taken }
  | .divert => { s := s, fate := .diverts }
  | .fault r => { s := s.meldFault t r k.slot k.op, fate := .taken }

/-- A token whose name has no entry, or a RETIRED one. -/
def State.takeFresh (s : State) (t : TileId) (k : Token) : Taken :=
  let n := tokName k
  if k.op = opPotMerge ∨ (s.tile t).evicted n then { s := s, fate := .diverts }
  else
    match s.entryFor t n with
    | none => { s := s, fate := .diverts }
    | some (i, e) =>
      if k.op = opSpawn then s.tookAt t k i false (s.spawnSlot t e k) else s.tookAt t k i true (s.takeCounted t e k false)

/-- An accepted token handed to its slot (R82). A POT.MERGE at its home begins the read of the shard's row (R98). -/
def State.meldTake (s : State) (t : TileId) (k : Token) (hold : Bool) : Taken :=
  match (s.tile t).findSlot (tokName k) with
  | some (i, e) =>
    match e.st with
    | .fired | .running => { s := s, fate := .held }
    | .armed =>
      if k.op = opSpawn then { s := s.meldFault t .slotSpawnTwice k.slot k.op, fate := .taken }
      else if k.op = opPotMerge then
        { s := s.setSlot t i { e with merging := e.merging ++ k.shard.toList }, fate := .taken }
      else s.tookAt t k i false (s.takeCounted t e k hold)
    | .preArmed =>
      if k.op = opSpawn then
        match s.spawnSlot t e k with
        | .ok s' e' => s.tookAt t k i false (State.drainBacklog e'.backlog s' t e')
        | r => s.tookAt t k i false r
      else if k.op = opPotMerge then { s := s, fate := .diverts }
      else s.tookAt t k i false (s.takeCounted t e k hold)
    | .retired => s.takeFresh t k
  | none => s.takeFresh t k

/-- What became of a token carried out: one that diverts goes to the kitty and counts in KDIV (R100), one that is held goes there
and counts in KEARLY (R82). `was`: what it waited as in the kitty before, and has been counted as. -/
def State.meldFate (s : State) (t : TileId) (k : Token) (f was : Fate) : State :=
  match f with
  | .taken => s
  | .diverts => (if was = .diverts then s else s.bump t .kdiv).toKitty t k false
  | .held => (if was = .held then s else s.bump t .kearly).toKitty t k true

/-- An accepted token, diverted to the kitty where it finds no room (R100). -/
def State.meldToken (s : State) (t : TileId) (k : Token) (hold : Bool) : State :=
  let r := s.meldTake t k hold
  (r.s.meldFate t k r.fate .taken).occupancy t

/-- The operations that are defined (R73). -/
def opDefined (op : BitVec 6) : Bool :=
  [opSpawn, opSet, opArrive, opPotAdd, opPotAddSq, opPotMax, opPotMin, opPotMerge, opStat].contains op

/-- Whether a token is well formed (R72 to R74, R85, R93). -/
def tokWellFormed (k : Token) : Bool :=
  let pl := k.plen.toNat
  !k.rsv && decide (pl ≤ 16) && k.payload.length == 16 * pl &&
  (if k.op = opSpawn then
    pl == 1 + ceilDiv (popBits 4 (spMask k)) 2 && bitsOf (leAt k.payload 0 4) 22 10 == 0 && bitsOf (leAt k.payload 8 8) 4 60 == 0
      && potOk (spDesc k) && decide (spExpect k ≤ 64 * (2 ^ 32 - 1))
  else if k.op = opSet then pl == 1 && decide (k.arg.toNat < 4)
  else if k.op = opArrive then pl == 0 && k.arg != 0
  else if k.op = opStat then pl != 0
  else if k.op = opPotMerge then pl == 3 && potOk k.arg.toNat
  else potOk k.arg.toNat && pl == potUnits k.arg.toNat)

/-- Whether a STAT token has the PLEN that its slot's rows require (R72, R73, R259); a slot that is not armed yet has no descriptor,
and its SPAWN is held to the tokens (R82). -/
def State.statFits (s : State) (t : TileId) (k : Token) : Bool :=
  k.op != opStat ||
  (match (s.tile t).findSlot (tokName k) with
    | some (_, e) => e.st != .armed || potKind e.desc != 5 || k.plen.toNat == statUnits e.desc
    | none => true)

/-- The checks of an arriving token in order, and the token to its slot (R78). A token for a STOPPED slot is dropped as
stale (R436). -/
def State.acceptToken (s : State) (t : TileId) (k : Token) (foreign hold : Bool) : State :=
  let w := s.tileReg t .mjob
  let drops := fun (lo : Nat) => s.modReg (.tile t .drops) (fun w => Word.addBits w lo 16 1)
  let info : FaultInfo := { meldInfo k.slot k.op with unit := .tile t, tile := some t }
  if Word.bits w 8 8 ≠ k.epoch.toNat ∨ (s.job k.jslot).st = .stopped then drops 0
  else if Word.bit w 2 = false ∨ Word.bits w 0 2 ≠ k.jslot.val then (drops 16).raise k.jslot .tokenMisroute info
  else if opDefined k.op = false ∨ (k.op = opPotMerge ∧ foreign) then (drops 32).raise k.jslot .tokenOp info
  else if tokWellFormed k = false ∨ s.statFits t k = false then (drops 32).raise k.jslot .tokenForm info
  else (s.bump t .tokin).meldToken t k hold

/-- The arrival of a token at the tile its DTILE names. A token in flight on the mesh is taken off it; the meld store's
own tokens arrive only from there. -/
def State.arrive (s : State) (t : TileId) (k : Token) (op : BitVec 6) (hold : Bool) : State :=
  let flying := s.mesh.contains k
  if s.computeOn = false ∨ tileOf? k.dtile.toNat ≠ some t ∨ (k.op ≠ op ∧ opDefined k.op) ∨ (k.shard.isSome ∧ flying = false) then s
  else
    let s := { s with mesh := eraseFirst (· == k) s.mesh }
    if s.tileExcl t ∨ (s.tile t).folded then
      let s' := s.meshIn k
      s'.progress t
    else (s.acceptToken t k k.shard.isNone hold).progress t

def execSpawn (t : TileId) (k : Token) (s : State) : Out := .next (s.arrive t k opSpawn false)
def execSet (t : TileId) (k : Token) (hold : Bool) (s : State) : Out := .next (s.arrive t k opSet hold)
def execArrive (t : TileId) (k : Token) (hold : Bool) (s : State) : Out := .next (s.arrive t k opArrive hold)
def execPotAdd (t : TileId) (k : Token) (hold : Bool) (s : State) : Out := .next (s.arrive t k opPotAdd hold)
def execPotAddsq (t : TileId) (k : Token) (hold : Bool) (s : State) : Out := .next (s.arrive t k opPotAddSq hold)
def execPotMax (t : TileId) (k : Token) (hold : Bool) (s : State) : Out := .next (s.arrive t k opPotMax hold)
def execPotMin (t : TileId) (k : Token) (hold : Bool) (s : State) : Out := .next (s.arrive t k opPotMin hold)
def execStat (t : TileId) (k : Token) (hold : Bool) (s : State) : Out := .next (s.arrive t k opStat hold)
/-- POT.MERGE: the merge reaches its home, and the read of the shard's row begins (R98). -/
def execPotMerge (t : TileId) (k : Token) (s : State) : Out := .next (s.arrive t k opPotMerge false)

/-- MERGE_ROW_READ_COMPLETE: a shard's row combined at its home, the shard freed, 1 counted (R98). -/
def execMergeRowReadComplete (r : ShardRef) (s : State) : Out :=
  let t := r.tile
  let u := s.shardTile t r.slot.toNat r.j.val
  .next (
    match (s.tile t).findSlot (.prog r.slot), (s.tile u).findSlot (.shard r) with
    | some (i, e), some (j, sh) =>
      if e.merging.contains r ∧ sh.st = .fired then
        let d := e.desc
        let s := if e.ptr.isSome ∧ sh.ptr.isSome then
            s.putPot t e (((s.potS1 t e).zip (s.potS1 u sh)).map (fun p => potCombine d p.1 p.2))
              (((s.potS2 t e).zip (s.potS2 u sh)).map (fun p => signed (potWidth d) (unsigned (potWidth d) (p.1 + p.2))))
          else s
        let s := (s.freeSlot u j).occupancy u
        let e := { e with merging := eraseFirst (· == r) e.merging, n := min (2 ^ 40 - 1) (e.n + sh.n),
                          m := boundAdd d e.m sh.m, m2 := boundAdd d e.m2 sh.m2, sat := e.sat || sh.sat,
                          nan := e.nan || sh.nan }
        if e.expected < e.received + 1 then s.meldFault t .slotOvercount r.slot opPotMerge
        else (s.settle t i { e with received := e.received + 1 } opPotMerge).occupancy t
      else s
    | _, _ => s)

/-! ### KITTY_DRAIN and replay (R82, R101) -/

/-- Tokens of one name read from the kitty and handed to their slot in arrival order; one that finds no room, or a slot FIRED or
RUNNING, goes back. `was`: what they waited as. -/
def State.replay : List Token → State → TileId → Fate → State
  | [], s, _, _ => s
  | k :: rest, s, t, was =>
    let r := (s.moveKitty t (KItem.token (tokName k) k false).size false).meldTake t k false
    State.replay rest (r.s.meldFate t k r.fate was) t was

/-- The kitty's tokens of a name, early ones or diverted ones, taken out. -/
def Tile.takeKitty (T : Tile) (n : SlotName) (early : Bool) : List Token × Tile :=
  let mine := fun (k : KItem) => match k with | .token m _ e => m == n && e == early | _ => false
  (T.kitty.filterMap (fun k => match k with | .token _ tk _ => if mine k then some tk else none | _ => none),
   { T with kitty := T.kitty.filter (fun k => !mine k) })

/-- The tokens held for a slot replayed once it has retired (R82). -/
def State.replayEarly (s : State) (t : TileId) (n : SlotName) : State :=
  let (l, T) := (s.tile t).takeKitty n true
  (State.replay l (s.modTile t (fun _ => T)) t .held).occupancy t

/-- Whether the kitty holds diverted tokens of a name. -/
def Tile.hasKitty (T : Tile) (n : SlotName) : Bool :=
  T.kitty.any (fun k => match k with | .token m _ early => m == n && !early | _ => false)

/-- An ARMED or PRE-ARMED entry evicted with its pot row, if the share has room. A reloaded one stays until it has absorbed its
kitty tokens (R101). -/
def State.evict (s : State) (t : TileId) (i : Nat) : State :=
  match Tab.find? (s.tile t).slots i with
  | some e =>
    if (e.st = .armed ∨ e.st = .preArmed) ∧ (e.reloaded = false ∨ (s.tile t).hasKitty e.name = false) then
      let s := match e.ptr with
        | some o => s.sramSeen t (sramPa t o) (potArea e.desc e.expected)
        | none => s
      let row := match e.ptr with
        | some o => s.bytes (sramPa t o) (potArea e.desc e.expected)
        | none => []
      let it : KItem := .slot e row
      if s.kittyRoom t it.size then
        (((s.freeSlot t i).modTile t (fun T => { T with kitty := T.kitty ++ [it] })).moveKitty t it.size true).bumpLo (.tile t .evict)
      else s
    else s
  | none => s

/-- An evicted entry reloaded, where an entry and a pot row are free (R101). -/
def State.reload (s : State) (t : TileId) (n : SlotName) : State :=
  let T := s.tile t
  match T.kitty.find? (fun k => match k with | .slot e _ => e.name == n | _ => false) with
  | some (.slot e row) =>
    match s.entryFor t n with
    | none => s
    | some (i, _) =>
      let place := if e.ptr.isSome then (s.potAlloc t row.length).map some else some none
      match place with
      | none => s
      | some ptr =>
        let s := (s.modTile t (fun T => { T with kitty := eraseFirst (· == .slot e row) T.kitty })).moveKitty t (128 + row.length) false
        let s := match ptr with
          | some o => s.write (sramPa t o) row
          | none => s
        (s.setSlot t i { e with ptr := ptr, reloaded := true }).bumpHi (.tile t .evict)
  | _ => s

/-- KITTY_DRAIN: entries evicted to make room, the named slot reloaded, and its kitty tokens absorbed (R101). -/
def execKittyDrain (t : TileId) (n : SlotName) (victims : List Nat) (s : State) : Out :=
  .next (
    if s.computeOn = false ∨ s.tileExcl t ∨ (s.tile t).folded then s
    else
      let held := match (s.tile t).findSlot n with
        | some (_, e) => e.st == SlotSt.fired || e.st == SlotSt.running
        | none => false
      if held then s
      else
        let s := victims.foldl (fun (s : State) (i : Nat) => match Tab.find? (s.tile t).slots i with
          | some e => if e.name = n then s else s.evict t i
          | none => s) s
        let s := s.reload t n
        if (s.tile t).evicted n then s.occupancy t
        else
          let (l, T) := (s.tile t).takeKitty n false
          ((State.replay l (s.modTile t (fun _ => T)) t .diverts).occupancy t).progress t)

end Sys2Proof.Machine
end

