-- ==== Sys2Proof/Machine/Signals.lean ====
section
/-! DEFINITION. Signal cells, waits and barriers (R304 to R323, R331 to R336): translation of virtual IDs, operations at a
cell, the completion of waits, and the instructions SIGREAD, WAIT, WCANCEL and BWAIT. -/

namespace Sys2Proof.Machine

/-! ### Cells (R305 to R308) -/

/-- A cell, and the state with one replaced by a function of it. -/
def State.cell (s : State) (d : DieId) (n : Fin 65536) : Cell := Tab.get Cell.reset s.cells (d, n)
def State.modCell (s : State) (d : DieId) (n : Fin 65536) (f : Cell → Cell) : State :=
  { s with cells := Tab.set s.cells (d, n) (f (s.cell d n)) }

def Cell.kind (c : Cell) : Nat := Word.bits c.cfg 0 2
def Cell.slot (c : Cell) : Nat := Word.bits c.cfg 2 2
def Cell.remote (c : Cell) : Bool := Word.bit c.cfg 4
def Cell.pcount (c : Cell) : Nat := Word.bits c.cfg 5 20
def Cell.par (c : Cell) : Bool := Word.bit c.cfg 25
def Cell.chas (c : Cell) : Bool := Word.bit c.cfg 26
def Cell.tricks (c : Cell) : Nat := Word.bits c.cfg 32 32
def Cell.sense (c : Cell) : Bool := Word.bit c.cfg 32
def Cell.arrived (c : Cell) : Nat := Word.bits c.value 0 20
def Cell.early (c : Cell) : Nat := Word.bits c.value 20 20
def Cell.up (c : Cell) : Bool := Word.bit c.value 40

/-- An operation performed at a die's cells, counted (R335). -/
def State.cellOp (s : State) (d : DieId) : State := s.modReg (.die d .cellops) (· + 1)

/-- The cell of a virtual ID for a job slot, by the table of a die; a kind is asked for (1 counter, 2 barrier, 0 any);
`remote`: the operation comes from another device (R307, R308). -/
def State.sigXlate (s : State) (d : DieId) (j : JSlot) (vid : BitVec 16) (kind : Nat) (remote : Bool) :
    Except Reason (DieId × Fin 65536) :=
  let w := s.dieReg d (.vid j (Fin.ofNat 65536 vid.toNat))
  let die : DieId := Fin.ofNat 4 (Word.bits w 0 2)
  let n : Fin 65536 := Fin.ofNat 65536 (Word.bits w 2 16)
  let c := s.cell die n
  if Word.bit w 18 = false ∨ c.kind = 0 ∨ c.slot ≠ j.val ∨ (remote ∧ c.remote = false) then .error .sigXlate
  else if kind ≠ 0 ∧ c.kind ≠ kind then .error .sigKind
  else .ok (die, n)

/-- A job fault of a signal operation (R339). -/
def State.sigFault (s : State) (c : CtxRef) (r : Reason) (vid : BitVec 16) : State :=
  s.raiseTile c.tile r { ctx := some c.ctx, addr := vid.toNat }

/-! ### Waits (R313 to R316) -/

/-- A registered wait: of a context, or of a saved one by its place in its tile's list. -/
inductive Waiter where
  | ctx (c : CtxRef)
  | saved (t : TileId) (i : Nat)
  deriving DecidableEq, Repr

/-- Whether a wait is registered at a cell with a kind and is not met. -/
def WaitRec.at (w : WaitRec) (d : DieId) (n : Fin 65536) (k : WaitKind) : Bool :=
  w.kind == k && w.die == d && w.cell == n && !w.met

/-- The waits of a kind registered at a cell, by tile and context (of consuming waits the order is no promise, R336). -/
def State.waiters (s : State) (d : DieId) (n : Fin 65536) (k : WaitKind) : List (Waiter × WaitRec) :=
  s.tiles.flatMap fun p =>
    (p.2.ctxs.filterMap fun q => match q.2.wait with
      | some w => if w.at d n k then some (.ctx { tile := p.1, ctx := q.1 }, w) else none
      | none => none)
    ++ (List.range p.2.saved.length).filterMap fun i => match p.2.saved[i]? with
      | some sv => (match sv.wait with
        | some w => if w.at d n k then some (.saved p.1 i, w) else none
        | none => none)
      | none => none

/-- The data cache of a tile invalidated (R47). -/
def State.flushCache (s : State) (t : TileId) : State := s.modTile t (fun T => { T with dcache := [] })

/-- A wait completed: a blocked context goes on after its instruction, with `rd` written at the end of an early hold; an
armed one has cause 17 pending; a saved one is marked (R314, R315, R318). -/
def State.completeWait (s : State) (w : Waiter) (r : WaitRec) (val : Word) : State :=
  match w with
  | .ctx c =>
    let s := s.bump c.tile .wakes
    if r.intr then
      s.modCtx c fun k => ({ k with wait := some { r with met := true } } : Ctx).pend 17
    else
      let s := s.modCtx c fun k =>
        let k := if r.kind = .early then k.setX r.rd val else k
        { k.retire 4 with st := .ready, wait := none }
      s.flushCache c.tile
  | .saved t i =>
    let s := match (s.tile t).saved[i]? with
      | some sv =>
        let a := sramPa t (s.saveBase t + sv.irec * 1024 + 0x284)
        s.write a (leBytes 1 ((s.byte a).toNat ||| 0x80))
      | none => s
    s.modTile t fun T => { T with saved := modAt T.saved i (fun sv => { sv with wait := some { r with met := true } }) }

/-- Whether a count meets a threshold (R313). -/
def meets (value threshold : Word) : Bool := decide (signed 64 threshold.toNat ≤ signed 64 value.toNat)

/-- The audit entry of a virtual ID with its net changed by an amount, among the eight: its own, else a free one; none where a
ninth ID has no entry (R332). -/
def State.auditEntry (s : State) (entry : Fin 8 → Word) (vid : BitVec 16) (amount : Int) : Option (Fin 8 × Word) × State :=
  let put := fun (i : Fin 8) (net : Nat) =>
    (i, BitVec.ofNat 64 (vid.toNat + 2 ^ 16 + unsigned 44 (signed 44 net + amount) * 2 ^ 20))
  match (List.finRange 8).find? (fun i => Word.bit (entry i) 16 && Word.bits (entry i) 0 16 == vid.toNat) with
  | some i => (some (put i (Word.bits (entry i) 20 44)), s)
  | none =>
    match s.pick ((List.finRange 8).filter (fun i => !Word.bit (entry i) 16)) with
    | (some i, s) => (some (put i 0), s)
    | (none, s) => (none, s)

/-- The net of an audit entry and of a new virtual ID changed by an amount (R332). -/
def State.audit (s : State) (c : CtxRef) (vid : BitVec 16) (amount : Int) : State :=
  let k := s.ctx c
  if Word.bit k.sigcfg 0 = false then s
  else
    match s.auditEntry (fun i => Tab.get (0 : Word) k.saud i) vid amount with
    | (some (i, w), s) => s.modCtx c (fun k => { k with saud := Tab.set k.saud i w })
    | (none, s) => s.bumpHi (.tile c.tile .saudit)

/-- The same for a saved context: SIGCFG and the entries stand in its integer record (R135, R332). -/
def State.auditSaved (s : State) (t : TileId) (irec : Nat) (vid : BitVec 16) (amount : Int) : State :=
  let a := sramPa t (s.saveBase t + irec * 1024)
  if (s.num (a + 0x200) 8).testBit 0 = false then s
  else
    match s.auditEntry (fun i => BitVec.ofNat 64 (s.num (a + 0x240 + 8 * i.val) 8)) vid amount with
    | (some (i, w), s) => s.write (a + 0x240 + 8 * i.val) (Word.bytes w)
    | (none, s) => s.bumpHi (.tile t .saudit)

/-- A consumption by a context's wait, audited unless it is a handoff (R332). -/
def State.auditConsume (s : State) (w : Waiter) (r : WaitRec) : State :=
  if r.hold then s
  else
    match w with
    | .ctx c => s.audit c r.vid (-(signed 64 r.threshold.toNat))
    | .saved t i => (match (s.tile t).saved[i]? with
      | some x => s.auditSaved t x.irec r.vid (-(signed 64 r.threshold.toNat))
      | none => s)

/-- The waits of a counter that VALUE meets, completed: first those that do not consume, then consuming waits one at a time,
in an order that is not promised (R336), while VALUE meets one. A consumption is a change of VALUE like any other, so it is
judged again (R313). `fuel` bounds the consumptions: each ends one wait. -/
def State.consumeWaits : Nat → State → DieId → Fin 65536 → State
  | 0, s, _, _ => s
  | fuel + 1, s, d, n =>
    let l := s.waiters d n .signal
    let v := (s.cell d n).value
    let s := (l.filter (fun p => !p.2.consume && meets v p.2.threshold)).foldl (fun s p => s.completeWait p.1 p.2 0) s
    match s.pick (l.filter (fun p => p.2.consume && meets v p.2.threshold)) with
    | (some (w, r), s) =>
      let s := s.modCell d n (fun c => { c with value := c.value - r.threshold })
      State.consumeWaits fuel ((s.auditConsume w r).completeWait w r 0) d n
    | (none, s) => s

/-- The waits of a counter judged after a change of VALUE (R313). -/
def State.judgeWaits (s : State) (d : DieId) (n : Fin 65536) : State :=
  State.consumeWaits ((s.waiters d n .signal).length + 1) s d n

/-- SIGNAL at a cell (R311). -/
def State.addCell (s : State) (d : DieId) (n : Fin 65536) (inc : Word) : State :=
  ((s.modCell d n (fun c => { c with value := c.value + inc })).cellOp d).judgeWaits d n

/-! ### Barriers (R318 to R322) -/

/-- Whether a round r lies behind TRICKS: the round has closed (R319). -/
def roundClosed (tricks r : Nat) : Bool :=
  let x := (tricks + 2 ^ 32 - r % 2 ^ 32) % 2 ^ 32
  decide (1 ≤ x ∧ x < 2 ^ 31)

/-- The arrival packet of a round for the parent (R320, R388). -/
def State.arrivalPacket (s : State) (d : DieId) (c : Cell) : Packet :=
  let j : JSlot := Fin.ofNat 4 c.slot
  s.packet d ptBarrv 0 false true j (s.job j).epoch (BitVec.ofNat 14 (Word.bits c.parent 0 14))
    (ohBytes { addr := c.tricks, sub := c.sense.toNat, vid := Word.bits c.parent 14 16 })

/-- The release packets of a closed round for the children (R320, R388). -/
def State.releasePackets (s : State) (d : DieId) (c : Cell) (round : Nat) : List Packet :=
  let j : JSlot := Fin.ofNat 4 c.slot
  (List.range (Word.bits c.child 48 12)).map fun i =>
    let w := s.num (Word.bits c.child 6 42 * 64 + 8 * i) 8
    s.packet d ptBrel 0 true true j (s.job j).epoch (BitVec.ofNat 14 w) (ohBytes { addr := round, vid := bitsOf w 14 16 })

/-- The chassis line of a round (R322). -/
def chasLine (round : Nat) : Fin 2 := Fin.ofNat 2 round

/-- The module releases L(r) for a complete round, once L(r - 1) is rearmed (R322). -/
def State.chasRelease (s : State) (round : Nat) : State :=
  let l := chasLine round
  let other := Tab.get ChasLine.held s.chasLines (chasLine (round + 1))
  if Tab.get ChasLine.held s.chasLines l = .held ∧ (round = 0 ∨ other = .held) then
    { s with chasLines := Tab.set s.chasLines l .released }
  else s

/-- The words of a cell as a round closes: TRICKS up, ARRIVED from EARLY, EARLY and UP 0 (R320). -/
def Cell.close (c : Cell) : Cell :=
  { c with cfg := Word.addBits c.cfg 32 32 1, value := BitVec.ofNat 64 c.early }

/-- A round closed in one step, and handled again where the next is complete (R320). `fuel` bounds the rounds: after the
second no early arrival is left. -/
def State.closeRound : Nat → State → DieId → Fin 65536 → State
  | 0, s, _, _ => s
  | fuel + 1, s, d, n =>
    let round := (s.cell d n).tricks
    let s := s.modCell d n Cell.close
    let c := s.cell d n
    let s := s.modReg (.die d .bclose) (· + 1)
    let s := (s.waiters d n .early).foldl (fun s p => s.completeWait p.1 p.2 (BitVec.ofNat 64 c.tricks)) s
    let s := ((s.waiters d n .barrier).filter (fun p => roundClosed c.tricks p.2.threshold.toNat)).foldl
      (fun s p => s.completeWait p.1 p.2 0) s
    let s := s.dramSeen (Fin.ofNat 4 c.slot) (.die d) (Word.bits c.child 6 42 * 64) (8 * Word.bits c.child 48 12)
    let s := (s.releasePackets d c round).foldl (fun s k => s.inject d k) s
    if c.arrived = c.pcount then
      if c.par then (s.modCell d n (fun c => { c with value := Word.setBit c.value 40 true })).inject d (s.arrivalPacket d c)
      else if c.chas then (s.modCell d n (fun c => { c with value := Word.setBit c.value 40 true })).chasRelease c.tricks
      else State.closeRound fuel s d n
    else s

/-- A round of a barrier that is complete: closed at once, or passed to its parent or the chassis (R320). -/
def State.roundComplete (s : State) (d : DieId) (n : Fin 65536) : State :=
  let c := s.cell d n
  if c.par then (s.modCell d n (fun c => { c with value := Word.setBit c.value 40 true })).inject d (s.arrivalPacket d c)
  else if c.chas then (s.modCell d n (fun c => { c with value := Word.setBit c.value 40 true })).chasRelease c.tricks
  else State.closeRound 3 s d n

/-- An arrival in the open round (R318): counted; none where ARRIVED would pass PCOUNT (BARRIER_OVER). -/
def State.arriveNow (s : State) (d : DieId) (n : Fin 65536) : Option State :=
  let c := s.cell d n
  if c.pcount ≤ c.arrived then none
  else
    let s := (s.modCell d n (fun c => { c with value := Word.addBits c.value 0 20 1 })).cellOp d
    some (if c.arrived + 1 = c.pcount then s.roundComplete d n else s)

/-- BARRIVE performed for a context that waits for its round number (R318). The round number of an early hold is that of the round
whose close ends it (R315; DEDUCED, log 87). -/
def State.barrive (s : State) (c : CtxRef) (vid : BitVec 16) (sense : Bool) (rd : XReg) : State :=
  let go := fun (s : State) => s.modCtx c (fun k => (k.retire 4).wake)
  match s.sigXlate c.tile.die (s.jslot c.tile) vid 2 false with
  | .error r => go (s.sigFault c r vid)
  | .ok (d, n) =>
    let b := s.cell d n
    if sense = b.sense then
      let s := s.modCtx c (fun k => ((k.setX rd (BitVec.ofNat 64 b.tricks)).retire 4).wake)
      match (s.bumpLo (.tile c.tile .barr)).arriveNow d n with
      | some s => s
      | none => s.sigFault c .barrierOver vid
    else if b.pcount ≤ b.early then go (s.sigFault c .barrierOver vid)
    else
      let s := (s.modCell d n (fun c => { c with value := Word.addBits c.value 20 20 1 })).cellOp d
      let s := (s.bumpLo (.tile c.tile .barr)).bumpHi (.tile c.tile .barr)
      s.modCtx c fun k =>
        { k with st := .waiting, stall := .none,
                 wait := some { kind := .early, vid := vid, die := d, cell := n, consume := false, intr := false, hold := false,
                                threshold := BitVec.ofNat 64 b.tricks, armed := false, met := false, rd := rd } }

/-! ### Instructions (R309) -/

/-- Whether an interruptible wait of a context is armed (R313). -/
def Ctx.armed (k : Ctx) : Bool := match k.wait with | some w => w.armed | none => false

/-- The virtual ID in rs1 (R309). -/
def State.vidOf (s : State) (c : CtxRef) (r : XReg) : BitVec 16 := BitVec.ofNat 16 (s.getX c r).toNat

/-- SIGREAD (R312): it waits for the context's earlier signal operations. -/
def execSigread (c : CtxRef) (f : RFields) (s : State) : Out :=
  .next (s.issue c 4 fun s =>
    if f.rs2 ≠ 0 then s.illegal c (rWord 0x7B 2 2 f)
    else if (s.tile c.tile).tokq.any (fun q => q.ctx == some c.ctx && (match q.kind with
        | .signal _ _ => true | .sigr _ _ _ _ => true | .barrive _ _ _ => true | _ => false)) then s.stallRetry c
    else
      match s.sigXlate c.tile.die (s.jslot c.tile) (s.vidOf c f.rs1) 0 false with
      | .error r => (s.sigFault c r (s.vidOf c f.rs1)).retire c
      | .ok (d, n) => (s.cellOp d).retireX c f.rd (s.cell d n).value)

/-- A wait registered by a context: WAITING, or armed with I = 1 (R313, R314). -/
def State.registerWait (s : State) (c : CtxRef) (w : WaitRec) : State :=
  let s := s.bumpLo (.tile c.tile .waits)
  if w.intr then (s.modCtx c (fun k => { k with wait := some { w with armed := true } })).retire c
  else s.modCtx c (fun k => { k with wait := some w, st := .waiting })

/-- A wait met at its registration (R313). -/
def State.metAtOnce (s : State) (c : CtxRef) (w : WaitRec) : State :=
  let s := (s.bumpLo (.tile c.tile .waits)).bumpHi (.tile c.tile .waits)
  if w.intr then
    let s := s.bump c.tile .wakes
    (s.modCtx c (fun k => ({ k with wait := some { w with armed := true, met := true } } : Ctx).pend 17)).retire c
  else (s.retire c).flushCache c.tile

/-- WAIT (R313, R314). -/
def execWait (c : CtxRef) (f : RFields) (s : State) : Out :=
  .next (s.issue c 4 fun s =>
    if (s.ctx c).armed ∨ 8 ≤ f.rd.val then s.illegal c (rWord 0x7B 3 0 f)
    else
      let vid := s.vidOf c f.rs1
      match s.sigXlate c.tile.die (s.jslot c.tile) vid 1 false with
      | .error r => (s.sigFault c r vid).retire c
      | .ok (d, n) =>
        let th := s.getX c f.rs2
        let w : WaitRec := { kind := .signal, vid := vid, die := d, cell := n, consume := f.rd.val.testBit 0,
                             intr := f.rd.val.testBit 1, hold := f.rd.val.testBit 2, threshold := th, armed := false,
                             met := false, rd := 0 }
        let s := s.cellOp d
        if meets (s.cell d n).value th then
          let s := if w.consume then
              let s := (s.modCell d n (fun c => { c with value := c.value - th })).judgeWaits d n
              if w.hold then s else s.audit c vid (-(signed 64 th.toNat))
            else s
          s.metAtOnce c w
        else s.registerWait c w)

/-- WCANCEL (R314). -/
def execWcancel (c : CtxRef) (f : RFields) (s : State) : Out :=
  .next (s.issue c 4 fun s =>
    if f.rs1 ≠ 0 ∨ f.rs2 ≠ 0 then s.illegal c (rWord 0x7B 3 1 f)
    else
      match (s.ctx c).wait with
      | some w =>
        if w.armed then
          let s := s.modCtx c (fun k => { k with wait := none, mip := if w.met then Word.setBit k.mip 17 false else k.mip })
          s.retireX c f.rd (if w.met then 0 else 1)
        else s.retireX c f.rd Word.ones
      | none => s.retireX c f.rd Word.ones)

/-- BWAIT (R319). -/
def execBwait (c : CtxRef) (f : RFields) (s : State) : Out :=
  .next (s.issue c 4 fun s =>
    if (s.ctx c).armed ∨ (f.rd ≠ 0 ∧ f.rd ≠ 2) then s.illegal c (rWord 0x7B 4 1 f)
    else
      let vid := s.vidOf c f.rs1
      match s.sigXlate c.tile.die (s.jslot c.tile) vid 2 false with
      | .error r => (s.sigFault c r vid).retire c
      | .ok (d, n) =>
        let r := (s.getX c f.rs2).toNat % 2 ^ 32
        let w : WaitRec := { kind := .barrier, vid := vid, die := d, cell := n, consume := false, intr := f.rd.val.testBit 1,
                             hold := false, threshold := BitVec.ofNat 64 r, armed := false, met := false, rd := 0 }
        let s := s.cellOp d
        if roundClosed (s.cell d n).tricks r then s.metAtOnce c w else s.registerWait c w)

/-- An armed wait of a context withdrawn, as TEND and the ending MRET do (R314). -/
def State.withdrawWait (s : State) (c : CtxRef) : State :=
  match (s.ctx c).wait with
  | some w =>
    if w.armed then s.modCtx c (fun k => { k with wait := none, mip := if w.met then Word.setBit k.mip 17 false else k.mip })
    else s
  | none => s

/-- The audit at the end of a task or of a deal interrupt: a departure for each entry with a net that is not 0, under the slot that
ends, which for a deal interrupt is the handler's (R332; DEDUCED, log 87). -/
def State.auditEnd (s : State) (c : CtxRef) (slot : Nat) : State :=
  let k := s.ctx c
  let dep := (List.finRange 8).filter (fun i =>
    let w := Tab.get (0 : Word) k.saud i
    Word.bit w 16 && Word.bits w 20 44 != 0)
  if Word.bit k.sigcfg 0 = false then s
  else
    dep.foldl (fun s i =>
      let vid := Word.bits (Tab.get (0 : Word) k.saud i) 0 16
      (s.bumpLo (.tile c.tile .saudit)).setReg (.die c.tile.die .saudlast)
        (BitVec.ofNat 64 (vid + slot * 2 ^ 16 + tileNum c.tile * 2 ^ 36))) s

/-! ### Chassis barrier and timeout (R322, R323) -/

/-- The cell of the device's chassis barrier, if a job has one (R321). -/
def State.chasCell (s : State) : Option (DieId × Fin 65536) :=
  (List.find? (fun p => p.2.kind == 2 && p.2.chas) s.cells).map (·.1)

/-- CHASSIS_LINE_HIGH: the line of a released round has read high for 100 ns; the round closes (R322). -/
def execChassisLineHigh (l : Fin 2) (s : State) : Out :=
  .next (match s.chasCell with
    | some (d, n) =>
      let c := s.cell d n
      if Tab.get ChasLine.held s.chasLines l = .released ∧ c.up ∧ chasLine c.tricks = l then
        State.closeRound 3 ({ s with chasLines := Tab.set s.chasLines l .high }.cellOp d) d n
      else s
    | none => s)

/-- CHASSIS_REARM: 1 µs later the line is pulled low again, and the next line may be released (R322). -/
def execChassisRearm (l : Fin 2) (s : State) : Out :=
  .next (
    if Tab.get ChasLine.held s.chasLines l = .high then
      let s := { s with chasLines := Tab.set s.chasLines l .held }
      match s.chasCell with
      | some (d, n) =>
        let c := s.cell d n
        if c.up then s.chasRelease c.tricks else s
      | none => s
    else s)

/-- BARRIER_TIMEOUT: a round is still open BARTO after the first arrival it counted (R323). -/
def execBarrierTimeout (d : DieId) (n : Fin 65536) (s : State) : Out :=
  let c := s.cell d n
  .next (
    if c.kind = 2 ∧ (c.arrived ≠ 0 ∨ c.up) then
      s.raise (Fin.ofNat 4 c.slot) .barrierTimeout { unit := .die d, addr := n.val }
    else s)

end Sys2Proof.Machine
end

