-- ==== Sys2Proof/Machine/Sends.lean ====
section
/-! DEFINITION. The token unit (R104 to R106, R309 to R311, R324 to R330): the instructions that queue sends, and
TOKEN_UNIT_SEND, which performs one. -/

namespace Sys2Proof.Machine

/-! ### TOKEN and TOKEN.I (R104, R105) -/

/-- Whether a context may send a token of an operation and suit: POT.MERGE is the meld store's, class 0 the monitor's
(R75). -/
def State.sendOk (s : State) (c : CtxRef) (op : BitVec 6) (suit : Suit) : Bool :=
  op != opPotMerge && (suit != 0 || s.spadesOk c)

/-- TOKEN. The image's header is read once the context's earlier writes are performed (DEDUCED, log 43); the token unit
reads the image again as it sends. -/
def execToken (c : CtxRef) (f : RFields) (far : List Byte) (s : State) : Out :=
  let bits := rWord 0x7B 1 0 f
  .next (s.issue c 4 fun s =>
    if f.rd ≠ 0 then s.illegal c bits
    else if s.tokRoom c.tile = false ∨ s.released c (s.tile c.tile).seq = false then s.stallRetry c
    else
      let va := (s.getX c f.rs1).toNat
      s.withDesc c 4 .token va (s.readDesc c va 16 16 far) fun s h =>
        let k := tokOf h []
        if s.sendOk c k.op k.suit = false then s.illegal c bits
        else
          match s.rowPieces c.tile (s.ctx c).priv va (16 + 16 * k.plen.toNat) .read with
          | (.error e, s) => s.exception c e.cause (BitVec.ofNat 64 e.va)
          | (.ok ps, s) =>
            let dest := if f.rs2 = 0 then none else some ((s.getX c f.rs2).toNat % 2 ^ 44)
            (s.queueSend c.tile (some c.ctx) (.token k (.image ps dest))).retire c)

/-- TOKEN.I (R105). -/
def execTokenI (c : CtxRef) (f : LFields) (s : State) : Out :=
  let bits := lWord 1 0 f
  let i := f.imm.toNat
  let op := BitVec.ofNat 6 (bitsOf i 0 6)
  let suit : Suit := Fin.ofNat 4 (bitsOf i 6 2)
  let plen := bitsOf i 8 5
  let rows := i.testBit 13
  let row := bitsOf i 14 5
  .next (s.issue c 8 fun s =>
    if f.rd ≠ 0 ∨ s.sendOk c op suit = false ∨ (rows ∧ (32 < row + ceilDiv plen 4 ∨ isT f.rs2.val = false)) then
      s.illegal c bits
    else
      let arg := if i.testBit 19 then Word.bits (s.ctx c).tkarg 0 32 else bitsOf i 20 12
      let k := { s.tokenTo c.tile (s.getX c f.rs1).toNat op suit arg [] with plen := BitVec.ofNat 5 plen }
      if rows then
        match (s.ctx c).vctx with
        | none => s.illegal c bits
        | some v =>
          if s.tokRoom c.tile then (s.queueSend c.tile (some c.ctx) (.token k (.rows v f.rs2.val row))).retire c 8
          else s.stallRetry c
      else
        let va := (s.getX c f.rs2).toNat
        if s.tokRoom c.tile = false then s.stallRetry c
        else if plen = 0 then (s.queueSend c.tile (some c.ctx) (.token k (.bytes []))).retire c 8
        else if va % 16 ≠ 0 then s.exception c 4 (BitVec.ofNat 64 va)
        else
          match s.rowPieces c.tile (s.ctx c).priv va (16 * plen) .read with
          | (.error e, s) => s.exception c e.cause (BitVec.ofNat 64 e.va)
          | (.ok ps, s) => (s.queueSend c.tile (some c.ctx) (.token k (.mem ps))).retire c 8)

/-- A token that leaves a tile: into the mesh of the device, or as a packet of its suit (R70, R79, R388). -/
def State.launch (s : State) (t : TileId) (ctx : Option CtxId) (k : Token) : State :=
  match tileOf? k.dtile.toNat with
  | none => s.raiseTile t .tokenForm { meldInfo k.slot k.op with ctx := ctx }
  | some _ =>
    let s := s.bump t .tokout
    if k.ddev = s.devId then s.meshIn k
    else s.inject t.die (s.packet t.die ptToken k.suit false false k.jslot k.epoch k.ddev (tokBytes k))

/-- A token's source read, and the token sent (R71, R106). -/
def State.sendToken (s : State) (t : TileId) (q : Send) (hdr : Token) (src : PaySrc) (far : List Byte) : State :=
  let ident := fun (s : State) (k : Token) => { k with jslot := s.jslot t, epoch := s.tileEpoch t, xid := 0, xseq := 0, shard := none }
  let fb : FarBy := { ctx := q.ctx, seq := q.seq, suit := hdr.suit }
  match src with
  | .bytes l => s.launch t q.ctx (ident s { hdr with payload := l })
  | .rows v x row =>
    let l := (s.vctx t v).file.bytes (x * 2048 + row * 64) (16 * hdr.plen.toNat)
    s.launch t q.ctx (ident s { hdr with payload := l })
  | .mem ps =>
    match s.readRows t fb [ps] far with
    | (.error e, s) => s.raiseEngine t q.ctx e { engine := some .token }
    | (.ok l, s) => s.launch t q.ctx (ident s { hdr with payload := l.headD [] })
  | .image ps dest =>
    match s.readRows t fb [ps] far with
    | (.error e, s) => s.raiseEngine t q.ctx e { engine := some .token }
    | (.ok l, s) =>
      let b := l.headD []
      let k := tokOf (slice b 0 16) (b.drop 16)
      let k := match dest with
        | some d => { k with ddev := BitVec.ofNat 14 d, dtile := BitVec.ofNat 10 (bitsOf d 14 10), slot := BitVec.ofNat 20 (bitsOf d 24 20) }
        | none => k
      s.launch t q.ctx (ident s k)

/-! ### SIGNAL, SIGNAL.R and BARRIVE (R309 to R311, R318) -/

/-- SIGNAL (R311, R332). -/
def execSignal (c : CtxRef) (f : RFields) (s : State) : Out :=
  .next (s.issue c 4 fun s =>
    if 2 ≤ f.rd.val then s.illegal c (rWord 0x7B 2 0 f)
    else if s.tokRoom c.tile = false then s.stallRetry c
    else
      let vid := s.vidOf c f.rs1
      let inc := s.getX c f.rs2
      let s := if f.rd = 0 then s.audit c vid (signed 64 inc.toNat) else s
      ((s.bump c.tile .sigout).queueSend c.tile (some c.ctx) (.signal vid inc)).retire c)

/-- The suit of a context's SIGNAL.R: that of its task, class 0 for a deal-interrupt handler and without a task (R310). -/
def State.signalSuit (s : State) (c : CtxRef) : Suit :=
  let k := s.ctx c
  if Word.bit k.tasksrc 32 ∧ k.inIrq = false then Fin.ofNat 4 (Word.bits k.tasksrc 30 2) else 0

/-- SIGNAL.R (R310): one that names this device acts as SIGNAL. -/
def execSignalR (c : CtxRef) (f : RFields) (s : State) : Out :=
  .next (s.issue c 4 fun s =>
    if f.rd ≠ 0 then s.illegal c (rWord 0x7B 2 1 f)
    else if s.tokRoom c.tile = false then s.stallRetry c
    else
      let vid := s.vidOf c f.rs1
      let inc := s.getX c f.rs2
      let dev : BitVec 14 := BitVec.ofNat 14 (Word.bits (s.getX c f.rs1) 16 14)
      let kind := if dev = s.devId then SendKind.signal vid inc else .sigr dev vid inc (s.signalSuit c)
      ((s.bump c.tile .sigout).queueSend c.tile (some c.ctx) kind).retire c)

/-- BARRIVE (R318): the context waits for its round number. With an interruptible wait armed it takes cause 2 (R313). -/
def execBarrive (c : CtxRef) (f : RFields) (s : State) : Out :=
  .next (s.issue c 4 fun s =>
    if (s.ctx c).armed then s.illegal c (rWord 0x7B 4 0 f)
    else if s.tokRoom c.tile = false then s.stallRetry c
    else
      ((s.bump c.tile .sigout).queueSend c.tile (some c.ctx)
        (.barrive (s.vidOf c f.rs1) (Word.bit (s.getX c f.rs2) 0) f.rd)).stallResult c)

/-- A signal operation performed at its cell for a tile (R307, R311). `xid`: the transfer whose signal it is (R339). -/
def State.performSignal (s : State) (t : TileId) (ctx : Option CtxId) (vid : BitVec 16) (inc : Word) (xid : Option Nat := none) :
    State :=
  match s.sigXlate t.die (s.jslot t) vid 1 false with
  | .error r => s.raiseTile t r { ctx := ctx, addr := vid.toNat, xid := xid }
  | .ok (d, n) => s.addCell d n inc

/-- The SIGR packet of a signal to another device (R310, R388). -/
def State.sigrPacket (s : State) (t : TileId) (dev : BitVec 14) (vid : BitVec 16) (inc : Word) (suit : Suit) : Packet :=
  s.packet t.die ptSigr suit false true (s.jslot t) (s.tileEpoch t) dev
    (ohBytes { vid := vid.toNat } ++ leBytes 8 inc.toNat ++ leBytes 8 0)

/-! ### XFER (R324 to R326) -/

/-- Whether a transfer descriptor is well formed (R324, R76); its SUIT 0 is the monitor's without SPADES. -/
def xferOk (b : List Byte) (spades : Bool) : Bool :=
  let w0 := leAt b 0 8
  let len := leAt b 0x20 8
  decide (bitsOf w0 0 2 ≠ 3 ∧ w0 < 32 ∧ leAt b 8 8 < 2 ^ 14 ∧ leAt b 0x10 8 < 2 ^ 48 ∧ leAt b 0x18 8 < 2 ^ 48
    ∧ 16 ≤ len ∧ len ≤ 2 ^ 20 ∧ leAt b 0x28 8 < 2 ^ 16 ∧ leAt b 0x38 8 < 2 ^ 16)
  && aligned (leAt b 0x10 8) 16 && aligned (leAt b 0x18 8) 16 && aligned len 16 && (spades || bitsOf w0 2 2 != 0)

/-- The transfer of a descriptor. -/
def xferOf (b : List Byte) (slot : Nat) (ctx : CtxId) (seq : Nat) (priv : Priv) : Xfer :=
  let w0 := leAt b 0 8
  { slot := slot, ctx := ctx, seq := seq, priv := priv, op := bitsOf w0 0 2, suit := Fin.ofNat 4 (bitsOf w0 2 2), lsen := w0.testBit 4,
    peer := BitVec.ofNat 14 (leAt b 8 8), lva := leAt b 0x10 8, rva := leAt b 0x18 8, len := leAt b 0x20 8,
    rvid := BitVec.ofNat 16 (leAt b 0x28 8), rinc := BitVec.ofNat 64 (leAt b 0x30 8), lvid := BitVec.ofNat 16 (leAt b 0x38 8),
    sent := 0, got := [] }

/-- The packets of a transfer, and the bytes of packet i (R324). -/
def xferN (x : Xfer) : Nat := ceilDiv x.len 256
def xferLen (x : Xfer) (i : Nat) : Nat := min 256 (x.len - 256 * i)

/-- The transfer ID (R389). -/
def xferXid (t : TileId) (slot : Nat) : Nat := tileOrd t * 64 + slot

/-- The transfer slot that an XFER takes: the spec lets it take any free one (log 22). -/
def State.freeXfer (s : State) (t : TileId) : Option Nat :=
  s.choose 0 ((List.range 64).filter (fun n => !(s.tile t).xfers.any (fun x => x.slot == n)))

/-- A transfer entered in its tile. -/
def State.addXfer (s : State) (t : TileId) (x : Xfer) : State :=
  { s with free := s.free + 1 }.modTile t (fun T => { T with xfers := T.xfers ++ [x] })

/-- XFER issued with a descriptor whose OP is `op`; the row does not take place for another OP (R324). -/
def State.xferIssue (s : State) (c : CtxRef) (f : RFields) (op : Nat) (far : List Byte) : State :=
  s.issue c 4 fun s =>
    if f.rd ≠ 0 ∨ f.rs2 ≠ 0 then s.illegal c (rWord 0x7B 5 0 f)
    else if s.tokRoom c.tile = false ∨ 64 ≤ (s.tile c.tile).xfers.length ∨ s.allPerformed c = false then s.stallRetry c
    else
      s.withDesc c 4 .transfer (s.getX c f.rs1).toNat (s.readDesc c (s.getX c f.rs1).toNat 64 64 far) fun s b =>
        if xferOk b (s.spadesOk c) = false then
          (s.raiseTile c.tile .xferDesc { ctx := some c.ctx, addr := (s.getX c f.rs1).toNat }).retire c
        else if bitsOf (leAt b 0 8) 0 2 ≠ op then s
        else
          match s.freeXfer c.tile with
          | none => s.stallRetry c
          | some n =>
            let x := xferOf b n c.ctx (s.tile c.tile).seq (s.ctx c).priv
            let s := s.addXfer c.tile x
            ((s.bumpLo (.tile c.tile .xfers)).queueSend c.tile (some c.ctx) (.xfer n)).retire c

def execXferPut (c : CtxRef) (f : RFields) (far : List Byte) (s : State) : Out := .next (s.xferIssue c f 0 far)
def execXferGet (c : CtxRef) (f : RFields) (far : List Byte) (s : State) : Out := .next (s.xferIssue c f 1 far)
def execXferPuts (c : CtxRef) (f : RFields) (far : List Byte) (s : State) : Out := .next (s.xferIssue c f 2 far)

/-- A transfer of a tile, and the tile with it changed. -/
def Tile.xfer? (T : Tile) (slot : Nat) : Option Xfer := T.xfers.find? (fun x => x.slot == slot)
def State.setXfer (s : State) (t : TileId) (x : Xfer) : State :=
  s.modTile t fun T => { T with xfers := T.xfers.map (fun y => if y.slot = x.slot then x else y) }

/-- Local completion of a transfer (R325): counted, and its local signal performed. -/
def State.completeXfer (s : State) (t : TileId) (x : Xfer) : State :=
  let s := s.modTile t (fun T => { T with xfers := T.xfers.filter (fun y => y.slot != x.slot) })
  let s := s.bumpHi (.tile t .xfers)
  let s := if x.lsen then s.performSignal t (some x.ctx) x.lvid 1 (some (xferXid t x.slot)) else s
  s.progress t

/-- For whom a transfer goes to far pages. -/
def xferBy (x : Xfer) : FarBy := { ctx := some x.ctx, seq := x.seq, suit := x.suit }

/-- A packet of a transfer to a peer: PUT and PUTS carry the local bytes, GET asks for the peer's (R324, R327, R388). The
signal-bearing packet of a PUTS carries RINC first. -/
def State.xferPacket (s : State) (t : TileId) (x : Xfer) (i : Nat) (data : List Byte) : Packet × Bool :=
  let n := xferN x
  let last := decide (x.op = 2 ∧ i + 1 = n)
  let h : OpHdr := { addr := x.rva + 256 * i, sub := ceilDiv (xferLen x i) 16 - 1, xid := xferXid t x.slot, xseq := i, nm1 := n - 1,
                     vid := if x.op = 2 then x.rvid.toNat else 0 }
  let body := ohBytes h ++ (if last then leBytes 8 x.rinc.toNat ++ leBytes 8 0 else []) ++ data
  let pt := if x.op = 0 then ptPut else if x.op = 1 then ptGetreq else ptPuts
  (s.packet t.die pt x.suit false last (s.jslot t) (s.tileEpoch t) x.peer body, last)

/-- The bytes that a transfer to this device writes at an address: those of the overlap of its ranges are unspecified (R326). -/
def State.copyBytes (s : State) (x : Xfer) (dst : Nat) (l : List Byte) : List Byte × State :=
  let lo := max x.lva x.rva
  let hi := min x.lva x.rva + x.len
  if hi ≤ lo ∨ hi ≤ dst ∨ dst + l.length ≤ lo then (l, s)
  else
    let (b, s) := s.freeBytes (min hi (dst + l.length) - max lo dst)
    (l.take (lo - dst) ++ b ++ l.drop (hi - dst), s)

/-- One piece of a transfer to this device copied (R326). -/
def State.copyPiece (s : State) (t : TileId) (x : Xfer) (i : Nat) (far : List Byte) : Except EFault Unit × State :=
  let n := xferLen x i
  let l := x.lva + 256 * i
  let r := x.rva + 256 * i
  let (src, sp, dst, dp) := if x.op = 1 then (r, Priv.u, l, x.priv) else (l, x.priv, r, Priv.u)
  match s.engineRead t sp (xferBy x) src n far with
  | (.error e, s) => (.error e, s)
  | (.ok d, s) =>
    let (b, s) := s.copyBytes x dst d.data
    s.engineWrite t dp (xferBy x) dst b

/-- The next packet or piece of a transfer. -/
def State.sendXfer (s : State) (t : TileId) (x : Xfer) (far : List Byte) : State :=
  let i := x.sent
  let x' := { x with sent := i + 1 }
  if x.peer = s.devId then
    match s.copyPiece t x i far with
    | (.error e, s) => s.raiseEngine t (some x.ctx) e { engine := some .transfer, xid := some (xferXid t x.slot) }
    | (.ok _, s) =>
      if i + 1 < xferN x then s.setXfer t x'
      else
        let s := if x.op = 2 then s.performSignal t (some x.ctx) x.rvid x.rinc (some (xferXid t x.slot)) else s
        s.completeXfer t x'
  else if x.op = 1 then
    let (k, sb) := s.xferPacket t x i []
    (s.setXfer t x').inject t.die k sb
  else
    match s.engineRead t x.priv (xferBy x) (x.lva + 256 * i) (xferLen x i) far with
    | (.error e, s) => s.raiseEngine t (some x.ctx) e { engine := some .transfer, xid := some (xferXid t x.slot) }
    | (.ok d, s) =>
      let (k, sb) := s.xferPacket t x i d.data
      (s.setXfer t x').inject t.die k sb

/-! ### TOKEN_UNIT_SEND (R106, R310) -/

/-- Whether a queued send may be performed: the release of R50 is complete, and for tile rows the vector instructions
before it have completed. An epilogue's token waits for the replies of its own instruction's far writes too
(R254); the done token of a table operation waits for the replies of far writes of its outputs (R282). -/
def State.sendReady (s : State) (t : TileId) (q : Send) : Bool :=
  match q.ctx with
  | none => !s.farWaits.any (fun w => w.tile == t && decide (tableKey 0 ≤ w.stream) && decide (w.seq < q.seq))
  | some c =>
    s.released { tile := t, ctx := c } q.seq && !(q.own && s.farBefore { tile := t, ctx := c } (q.seq + 1)) &&
    (match q.kind with
      | .token _ (.rows v _ _) => !(s.vctx t v).queue.any (fun o => decide (o.seq < q.seq))
      | _ => true)

/-- Whether a send stays in the queue after it has been served once: a transfer with packets left. -/
def State.sendStays (s : State) (t : TileId) (q : Send) : Bool :=
  match q.kind with
  | .xfer n => (match (s.tile t).xfer? n with
    | some x => decide (x.sent + 1 < xferN x)
    | none => false)
  | _ => false

/-- TOKEN_UNIT_SEND: the token unit performs one send of its queue, no order held between them (R77, R106). `far`: the data
that peers returned for far pages. -/
def execTokenUnitSend (t : TileId) (i : Nat) (far : List Byte) (s : State) : Out :=
  .next (
    match (s.tile t).tokq[i]? with
    | none => s
    | some q =>
      if s.computeOn = false ∨ s.stopping t ∨ s.sendReady t q = false then s
      else
        let s := if s.sendStays t q then s else s.modTile t (fun T => { T with tokq := T.tokq.eraseIdx i })
        let s := match q.kind with
          | .token hdr src => s.sendToken t q hdr src far
          | .signal vid inc => s.performSignal t q.ctx vid inc
          | .sigr dev vid inc suit => s.inject t.die (s.sigrPacket t dev vid inc suit)
          | .barrive vid sense rd => (match q.ctx with
            | some c => s.barrive { tile := t, ctx := c } vid sense rd
            | none => s)
          | .xfer n => (match (s.tile t).xfer? n with
            | some x => s.sendXfer t x far
            | none => s)
        s.progress t)

end Sys2Proof.Machine
end

