-- ==== Sys2Proof/Machine/Access.lean ====
section
/-! DEFINITION. Scalar accesses on their way (R46, R47, R363): which of a context's accesses may be performed next, and the end
of one. -/

namespace Sys2Proof.Machine

/-- Whether an access writes memory. -/
def MemKind.writes : MemKind → Bool
  | .load _ _ => false
  | .lr _ => false
  | _ => true

/-- The register that takes an access's result. -/
def MemKind.rd? : MemKind → Option XReg
  | .load rd _ => some rd
  | .lr rd => some rd
  | .amo _ rd => some rd
  | .sc rd => some rd
  | .store => none

/-- Whether two accesses touch a byte in common. -/
def MemOp.meets (a b : MemOp) : Bool :=
  a.place == b.place && decide (a.pa < b.pa + widthBytes b.width ∧ b.pa < a.pa + widthBytes a.width)

/-- Whether an access must wait for an earlier one of its context (R40, R46, R48, R363): the same bytes, two accesses of
register space, two of one peer, or a release. -/
def MemOp.after (o e : MemOp) : Bool :=
  e.ctx == o.ctx && decide (e.seq < o.seq)
    && (o.rl || e.aq || o.meets e || (o.place == Place.reg && e.place == Place.reg)
      || (match o.place, e.place with | .far a, .far b => a == b && !e.sent | _, _ => false))

/-- Whether a queued access may be performed now. -/
def State.accessReady (s : State) (t : TileId) (o : MemOp) : Bool := !(s.tile t).memq.any (fun e => o.after e)

/-- The end of an access: it leaves the queue, a register takes its result, and the contexts that waited go on. An LR or
AMO with aq invalidates the data cache (R47). -/
def State.finishAccess (s : State) (t : TileId) (o : MemOp) (v : Word) : State :=
  let s := s.modTile t (fun T => { T with memq := T.memq.filter (fun q => q.seq != o.seq) })
  let s := match o.kind.rd? with
    | some rd => s.modCtx { tile := t, ctx := o.ctx } (fun k => (k.setX rd v).wake)
    | none => s
  let s := match o.kind with
    | .lr _ => if o.aq then s.flushCache t else s
    | .amo _ _ => if o.aq then s.flushCache t else s
    | _ => s
  s.progress t

/-- The result of a load or atomic from the bytes it finds, as its register takes it. -/
def MemOp.value (o : MemOp) (old : Nat) : Word :=
  match o.kind with
  | .load _ uns => loadExtend o.width uns old
  | _ => loadExtend o.width false old

/-- Whether a context holds a reservation on the granule of an access, at a peer or here (R30). -/
def Ctx.holds (k : Ctx) (o : MemOp) : Bool :=
  match o.place with
  | .far d => k.resv == some (some d, o.pa / 64)
  | _ => k.resv == some (none, o.pa / 64)

/-- The reply of a far access taken by the access it answers (R363, R390): an LR sets the context's reservation, an SC ends
it. -/
def State.farDone (s : State) (t : TileId) (o : MemOp) (data : List Byte) : State :=
  let c : CtxRef := { tile := t, ctx := o.ctx }
  let n := widthBytes o.width
  match o.kind, o.place with
  | .load _ _, _ => s.finishAccess t o (o.value (leAt data (o.pa % 16) n))
  | .lr _, .far d =>
    (s.modCtx c (fun k => { k with resv := some (some d, o.pa / 64) })).finishAccess t o (o.value (leAt data 0 n))
  | .sc _, _ =>
    let s := if leAt data 0 8 = 0 then s.setD o.leaf else s
    (s.modCtx c (fun k => { k with resv := none })).finishAccess t o (BitVec.ofNat 64 (leAt data 0 8))
  | .amo _ _, _ => s.finishAccess t o (o.value (leAt data 0 n))
  | _, _ => s.finishAccess t o 0

end Sys2Proof.Machine
end

