-- ==== Sys2Proof/Machine/Peer.lean ====
section
/-! DEFINITION. What arrives from other devices (R388 to R391): tokens, transfers (R325 to R330), signals and barrier packets
(R310, R320), far accesses (R363 to R366, R390) and FAULT (R408). -/

namespace Sys2Proof.Machine

/-! ### Form and delivery of packets (R387 to R391, R399) -/

/-- The data units of a packet by its operation header (R389). -/
def ohUnits (k : Packet) : Nat := (ohOf k.body).sub + 1

/-- Whether a PUTS packet is the signal-bearing one (R327, R388). -/
def pkSignalBearing (k : Packet) : Bool :=
  k.ptype == ptPuts && (ohOf k.body).xseq == (ohOf k.body).nm1

/-- Whether a packet's LEN suits its type (R388); a reserved PTYPE has none that does. -/
def pkLenOk (k : Packet) : Bool :=
  let n := k.body.length / 16
  let d := ohUnits k
  if k.ptype = ptToken then decide (1 ≤ n) && n == 1 + bitsOf (leAt k.body 0 16) 62 5
  else if k.ptype = ptPut ∨ k.ptype = ptGetdata ∨ k.ptype = ptFarwr then n == 1 + d
  else if k.ptype = ptPuts then (if pkSignalBearing k then n == 2 + d else n == 1 + d)
  else if k.ptype = ptXack ∨ k.ptype = ptGetreq ∨ k.ptype = ptFarrd ∨ k.ptype = ptBarrv ∨ k.ptype = ptBrel then n == 1
  else if k.ptype = ptFarrsp then n == 1 || n == 1 + d
  else if k.ptype = ptFaramo ∨ k.ptype = ptSigr ∨ k.ptype = ptFault then n == 2
  else if k.ptype = ptEmbreq ∨ k.ptype = ptEmbrsp then decide (2 ≤ n)
  else if k.ptype = ptEmbcmd then decide (1 ≤ n)
  else false

/-- Whether a packet type is one of the table unit's (R388). -/
def ptTable (pt : BitVec 6) : Bool := pt == ptEmbreq || pt == ptEmbrsp || pt == ptEmbcmd

/-- Whether a packet is well formed (R388 to R390): its length, its reserved fields, and the code of a FARAMO. -/
def pkOk (k : Packet) : Bool :=
  !k.rsv && k.body.length % 16 == 0 && decide (k.body.length / 16 ≤ 19) && pkLenOk k &&
  (if k.ptype = ptToken then true
   else if ptTable k.ptype then leAt k.body 8 8 == 0
   else ohReservedOk k.body
    && (if k.ptype = ptFaramo then decide ((ohOf k.body).sub ≤ 10) && leAt k.body 24 8 / 2 ^ 15 == 0 else !(ohOf k.body).aw))

/-- What the record of a link fault gives (R408): the port, its lane diagnosis, and the packet's source and destination. -/
def State.linkInfo (s : State) (p : PortId) (k : Packet) (addr : BitVec 14) : FaultInfo :=
  { unit := .port p, addr := addr.toNat, src := some k.sdev, dst := some k.ddev, lanes := some (s.portReg p .lanediag) }

/-- A packet that is dropped for its form: counted, and LINK_FORM for its job (R389, R406). -/
def State.malformed (s : State) (p : PortId) (k : Packet) : State :=
  (s.modReg (.port p .lkdrop) (fun w => Word.addBits w 48 16 1)).raise k.jslot .linkForm (s.linkInfo p k k.sdev)

/-- A packet that has arrived at a port and is not for this device, sent on; or one for it, kept for its unit (R399). Either way its
units stay in the port's buffer until it leaves it (R392). -/
def State.forwardPacket (s : State) (p : PortId) (k : Packet) : State :=
  match s.route (dieOfPort p) p k false (pkSignalBearing k) (.port p) with
  | .deliver s => { s with inbox := s.inbox ++ [(p, k)] }
  | .noRoute s => s.freeAntesOf p k
  | .expired s => (s.freeAntesOf p k).raise k.jslot .linkRoute (s.linkInfo p k k.ddev)
  | .sent s => s

/-- Whether a packet is of an earlier rubber, or of a slot whose job has stopped (R391, R436). -/
def State.stalePacket (s : State) (k : Packet) : Bool :=
  (s.job k.jslot).epoch != k.epoch || (s.job k.jslot).st == .stopped

/-- Whether a packet belongs to a transfer (R335). -/
def ptTransfer (pt : BitVec 6) : Bool := pt == ptPut || pt == ptPuts || pt == ptXack || pt == ptGetreq || pt == ptGetdata

/-- Whether a pinned packet must wait at its port for an earlier one of its source, destination and channel (R400). A signal-bearing
packet that waits for an entry holds no other back (R329, R407). -/
def State.behind (s : State) (p : PortId) (k : Packet) : Bool :=
  k.pin && (s.inbox.takeWhile (fun q => q != (p, k))).any (fun q =>
    q.1 == p && q.2.pin && q.2.sdev == k.sdev && q.2.ddev == k.ddev && q.2.vc == k.vc && q.2.pool != 3)

/-- A packet taken from where it waits: a port's buffer, whose antes are freed, or the device's own; a packet in neither is
one that arrives just now, which only an UP port takes (R574). -/
def State.takePacket (s : State) (p : PortId) (k : Packet) : Option State :=
  if s.inbox.contains (p, k) then some ({ s with inbox := eraseFirst (· == (p, k)) s.inbox }.freeAntesOf p k)
  else if s.localPkts.contains k then some { s with localPkts := eraseFirst (· == k) s.localPkts }
  else if s.portUp p then some (s.freeAntesOf p k)
  else none

/-- A packet taken by its unit: checked for its form and its epoch (R389, R391), then acted on. A packet that arrives just now
for another device is sent on. -/
def State.recv (s : State) (p : PortId) (k : Packet) (pt : BitVec 6) (f : State → State) : State :=
  if k.ptype ≠ pt ∨ s.computeOn = false then s
  else
    let waiting := s.inbox.contains (p, k) || s.localPkts.contains k
    if s.behind p k then
      if waiting ∨ s.portUp p = false ∨ pkOk k = false then s else { s with inbox := s.inbox ++ [(p, k)] }
    else if !waiting && s.portUp p && pkOk k && !Word.bit (s.routeEntry (dieOfPort p) k.ddev) 20 then s.forwardPacket p k
    else
    match s.takePacket p k with
    | none => s
    | some s =>
      if pkOk k = false then s.malformed p k
      else if pt ≠ ptToken ∧ s.stalePacket k then
        let s := s.modReg (.port p .lkdrop) (fun w => Word.addBits w 32 16 1)
        if ptTransfer pt then s.modReg (.die (dieOfPort p) .psstale) (· + 1) else s
      else f s

/-! ### Tokens -/

/-- TOKEN_PACKET: a token of another device enters the mesh of the die it names (R79, R388, R391). -/
def execTokenPacket (p : PortId) (k : Packet) (s : State) : Out :=
  .next (s.recv p k ptToken fun s =>
    let t := tokOf (slice k.body 0 16) (k.body.drop 16)
    if t.ddev ≠ k.ddev then s.malformed p k else s.meshIn t)

/-! ### Transfers at the receiver (R325 to R330) -/

/-- A tile that a job slot owns, whose page tables translate the addresses of packets of the job (R324; DESIGN CHOICE,
log 46: the first by ordinal). -/
def State.jobTile (s : State) (j : JSlot) : Option TileId :=
  (tilesOf (s.job j).dies).find? (fun t => !s.tileExcl t && s.owner t == some j)

/-- The job fault of a transfer's access that fails at this device (R45, R325, R339, R348). -/
def State.raisePeer (s : State) (p : PortId) (k : Packet) (e : EFault) : State :=
  let i : FaultInfo := { unit := .port p, engine := some .transfer, src := some k.sdev, xid := some (ohOf k.body).xid }
  match e with
  | .xlate va kind => s.raise k.jslot .engineXlate { i with addr := va, kind := some kind }
  | .poison pa dram => s.raise k.jslot (if dram then .dramUe else .sramUe) { i with addr := pa, found := some 0 }

/-- For whom the link die of a port goes to far pages. -/
def peerBy (k : Packet) : FarBy := { ctx := none, seq := 0, suit := pkSuit k }

/-- The data of a packet written at the peer's address under the job's page tables (R324, R452). -/
def State.peerWrite (s : State) (p : PortId) (k : Packet) (va : Nat) (l : List Byte) : Bool × State :=
  match s.jobTile k.jslot with
  | none => (false, s.raisePeer p k (.xlate va .page))
  | some t =>
    match s.engineWrite t .u (peerBy k) va l with
    | (.error e, s) => (false, s.raisePeer p k e)
    | (.ok _, s) => (true, s)

/-- The answer to a packet, on the response channel of its suit (R388). -/
def State.reply (s : State) (die : DieId) (k : Packet) (pt : BitVec 6) (pinned : Bool) (h : OpHdr) (data : List Byte) : State :=
  s.inject die (s.packet die pt (pkSuit k) true pinned k.jslot k.epoch k.sdev (ohBytes h ++ data))

/-- A pending-signal entry whose tally is full: its signal is applied, the transfer acknowledged, the entry freed (R328). -/
def State.psSettle (s : State) (d : DieId) (e : PsEntry) : State :=
  let l := Tab.get [] s.psTab d
  if e.tally < e.n then
    { s with psTab := Tab.set s.psTab d (l.map (fun x => if x.src = e.src ∧ x.xid = e.xid ∧ x.slot = e.slot then e else x)) }
  else
    let l := l.filter (fun x => !(decide (x.src = e.src ∧ x.xid = e.xid ∧ x.slot = e.slot)))
    let s := { s with psTab := Tab.set s.psTab d l }
    let s := s.modReg (.die d .psocc) (fun w => Word.setBits w 0 9 l.length)
    let s := (s.addCell e.die e.cell e.inc).modReg (.die d .psapply) (· + 1)
    s.inject d (s.packet d ptXack e.suit true false e.slot (s.job e.slot).epoch e.src
      (ohBytes { xid := e.xid.toNat, xseq := e.n - 1, nm1 := e.n - 1 }))

/-- PUT: a data packet of a PUT or PUTS is written on arrival; a PUT packet is acknowledged, a PUTS one sends its notice to
the home link die (R325, R327, R388). -/
def execPut (p : PortId) (k : Packet) (s : State) : Out :=
  let h := ohOf k.body
  let data := k.body.drop 16
  .next (
    if k.ptype = ptPuts ∧ pkSignalBearing k = false then
      s.recv p k ptPuts fun s =>
        match s.peerWrite p k h.addr data with
        | (false, s) => s
        | (true, s) =>
          match s.sigXlate (dieOfPort p) k.jslot (BitVec.ofNat 16 h.vid) 1 true with
          | .error r => s.raise k.jslot r { unit := .port p, addr := h.vid, extra := h.xid }
          | .ok (d, _) =>
            let n : Notice := { home := d, src := k.sdev, xid := BitVec.ofNat 16 h.xid, slot := k.jslot }
            { s with notices := s.notices ++ [n] }
    else
      s.recv p k ptPut fun s =>
        match s.peerWrite p k h.addr data with
        | (false, s) => s
        | (true, s) => s.reply (dieOfPort p) k ptXack false { xid := h.xid, xseq := h.xseq, nm1 := h.nm1 } [])

/-- The most entries a pending-signal table holds (R328). -/
def psCap : Nat := 256

/-- PUTS: the signal-bearing packet takes a free entry at the home link die, its tally starting with the notices already in
the ledger; its payload is written and counted. Without a free entry it waits, counted once (R327 to R329). -/
def execPuts (p : PortId) (k : Packet) (s : State) : Out :=
  let h := ohOf k.body
  let xid := BitVec.ofNat 16 h.xid
  .next (
    if pkSignalBearing k = false then s
    else
      match s.sigXlate (dieOfPort p) k.jslot (BitVec.ofNat 16 h.vid) 1 true with
      | .error r => s.recv p k ptPuts (fun s => s.raise k.jslot r { unit := .port p, addr := h.vid, extra := h.xid })
      | .ok (d, n) =>
        let waits := s.inbox.contains (p, k) || s.localPkts.contains k
        let comes := !waits && s.portUp p && Word.bit (s.routeEntry (dieOfPort p) k.ddev) 20
        if k.ptype = ptPuts ∧ s.computeOn ∧ s.stalePacket k = false ∧ pkOk k ∧ psCap ≤ (Tab.get [] s.psTab d).length ∧
            (waits ∨ comes) then
          let s := if comes then { s with inbox := s.inbox ++ [(p, k)] } else s
          if s.psWaiting.contains k then s
          else { s with psWaiting := s.psWaiting ++ [k] }.modReg (.die d .psbp) (· + 1)
        else
          ({ s with psWaiting := s.psWaiting.filter (fun x => x != k) } : State).recv p k ptPuts fun s =>
            let mine := fun (x : Notice) => x.home == d && x.src == k.sdev && x.xid == xid && x.slot == k.jslot
            let e : PsEntry := { src := k.sdev, xid := xid, die := d, cell := n, inc := BitVec.ofNat 64 (leAt k.body 16 8),
                                 n := h.nm1 + 1, tally := (s.ledger.filter mine).length, slot := k.jslot, suit := pkSuit k }
            let l := Tab.get [] s.psTab d ++ [e]
            let s := { s with ledger := s.ledger.filter (fun x => !mine x), psTab := Tab.set s.psTab d l }
            let s := s.modReg (.die d .psocc) (fun w =>
              Word.setBits (Word.setBits w 0 9 l.length) 32 9 (max (Word.bits w 32 9) l.length))
            match s.peerWrite p k h.addr (k.body.drop 32) with
            | (false, s) => s
            | (true, s) => s.psSettle d { e with tally := e.tally + 1 })

/-- WRITE_NOTICE: a notice reaches its home link die: the entry's tally rises, or the ledger takes it; a full ledger is
KITTY_FULL (R328). -/
def execWriteNotice (i : Nat) (s : State) : Out :=
  .next (
    match s.notices[i]? with
    | none => s
    | some n =>
      let s := { s with notices := s.notices.eraseIdx i }
      match (Tab.get [] s.psTab n.home).find? (fun e => e.src == n.src && e.xid == n.xid && e.slot == n.slot) with
      | some e => s.psSettle n.home { e with tally := e.tally + 1 }
      | none =>
        if (s.ledger.filter (fun x => x.home == n.home)).length < Config.ledgerCap then
          ({ s with ledger := s.ledger ++ [n] }).modReg (.die n.home .psledger) (· + 1)
        else s.raise n.slot .kittyFull { unit := .die n.home, extra := n.xid.toNat })

/-- The tile and transfer slot of an XID (R389). -/
def xidTile (xid : Nat) : Option (TileId × Nat) := (tileOfOrd? (xid / 64)).map (fun t => (t, xid % 64))

/-- XACK: an acknowledgement reaches the sender; a PUT is complete with the last packet's, a PUTS with its one (R325). -/
def execXack (p : PortId) (k : Packet) (s : State) : Out :=
  let h := ohOf k.body
  .next (s.recv p k ptXack fun s =>
    match xidTile h.xid with
    | none => s
    | some (t, slot) =>
      match (s.tile t).xfer? slot with
      | none => s
      | some x =>
        if x.peer ≠ k.sdev ∨ x.op = 1 then s
        else
          let x' := { x with got := if x.got.contains h.xseq then x.got else x.got ++ [h.xseq] }
          if x.op = 2 ∨ x'.got.length = xferN x then s.completeXfer t x' else s.setXfer t x')

/-- GETREQ: the peer's bytes are read under the job's page tables and answered (R324, R388). `far`: what peers returned for far
pages. -/
def execGetreq (p : PortId) (k : Packet) (far : List Byte) (s : State) : Out :=
  let h := ohOf k.body
  .next (s.recv p k ptGetreq fun s =>
    match s.jobTile k.jslot with
    | none => s.raisePeer p k (.xlate h.addr .page)
    | some t =>
      match s.engineRead t .u (peerBy k) h.addr (16 * (h.sub + 1)) far with
      | (.error e, s) => s.raisePeer p k e
      | (.ok d, s) =>
        s.reply (dieOfPort p) k ptGetdata false { sub := h.sub, xid := h.xid, xseq := h.xseq, nm1 := h.nm1 } d.data)

/-- GETDATA: bytes of a GET are written locally; with the last of them the GET is complete (R325). -/
def execGetdata (p : PortId) (k : Packet) (s : State) : Out :=
  let h := ohOf k.body
  .next (s.recv p k ptGetdata fun s =>
    match xidTile h.xid with
    | none => s
    | some (t, slot) =>
      match (s.tile t).xfer? slot with
      | none => s
      | some x =>
        if x.peer ≠ k.sdev ∨ x.op ≠ 1 ∨ x.got.contains h.xseq then s
        else
          match s.engineWrite t x.priv (xferBy x) (x.lva + 256 * h.xseq) (k.body.drop 16) with
          | (.error e, s) => s.raiseEngine t (some x.ctx) e { engine := some .transfer, xid := some h.xid }
          | (.ok _, s) =>
            let x' := { x with got := x.got ++ [h.xseq] }
            if x'.got.length = xferN x then s.completeXfer t x' else s.setXfer t x')

/-- What XFER_TIMEOUT is measured at (R330): a transfer of a tile, or an entry of a pending-signal table. -/
def State.xferExpired (s : State) (at_ : XferAt) : State :=
  match at_ with
  | .sender t slot =>
    match (s.tile t).xfer? slot with
    | some x => s.raiseTile t .xferTimeout { ctx := some x.ctx, extra := xferXid t slot }
    | none => s
  | .receiver d i =>
    match (Tab.get [] s.psTab d)[i]? with
    | some e => s.raise e.slot .xferTimeout { unit := .die d, extra := e.xid.toNat }
    | none => s

/-- XFER_TIMEOUT (R330). -/
def execXferTimeout (at_ : XferAt) (s : State) : Out := .next (s.xferExpired at_)

/-! ### Signals and barriers (R308, R310, R318, R320) -/

/-- SIGR: a remote signal translated on the die of the link die that receives it, and applied (R307, R310). -/
def execSigr (p : PortId) (k : Packet) (s : State) : Out :=
  let h := ohOf k.body
  .next (s.recv p k ptSigr fun s =>
    match s.sigXlate (dieOfPort p) k.jslot (BitVec.ofNat 16 h.vid) 1 true with
    | .error r => s.raise k.jslot r { unit := .port p, addr := h.vid }
    | .ok (d, n) => s.addCell d n (BitVec.ofNat 64 (leAt k.body 16 8)))

/-- BARRV: a child's arrival counts as one; one of another sense raises BARRIER_SENSE (R320). -/
def execBarrv (p : PortId) (k : Packet) (s : State) : Out :=
  let h := ohOf k.body
  .next (s.recv p k ptBarrv fun s =>
    match s.sigXlate (dieOfPort p) k.jslot (BitVec.ofNat 16 h.vid) 2 true with
    | .error r => s.raise k.jslot r { unit := .port p, addr := h.vid }
    | .ok (d, n) =>
      if (h.sub % 2 == 1) ≠ (s.cell d n).sense then s.raise k.jslot .barrierSense { unit := .die d, addr := h.vid }
      else
        match s.arriveNow d n with
        | some s => s
        | none => s.raise k.jslot .barrierOver { unit := .die d, addr := h.vid })

/-- BREL: the parent's release closes the round it names; any other raises BARRIER_SENSE (R320). -/
def execBrel (p : PortId) (k : Packet) (s : State) : Out :=
  let h := ohOf k.body
  .next (s.recv p k ptBrel fun s =>
    match s.sigXlate (dieOfPort p) k.jslot (BitVec.ofNat 16 h.vid) 2 true with
    | .error r => s.raise k.jslot r { unit := .port p, addr := h.vid }
    | .ok (d, n) =>
      let c := s.cell d n
      if h.addr % 2 ^ 32 ≠ c.tricks ∨ c.up = false ∨ c.par = false then
        s.raise k.jslot .barrierSense { unit := .die d, addr := h.vid }
      else State.closeRound 3 (s.cellOp d) d n)

/-! ### Far accesses at the peer (R363 to R365, R390) -/

/-- A spill window (R364): whether it is valid, its borrower, base and data frames. -/
def State.spillWin (s : State) (d : DieId) (w : Fin 16) : Bool × Nat × Nat × Nat :=
  let g := fun (i : Fin 4) => s.dieReg d (.spill w i)
  (Word.bit (g 0) 63, Word.bits (g 0) 0 14, Word.bits (g 1) 0 48 / 0x200000 * 0x200000, Word.bits (g 2) 0 17)

/-- The address of the counter entry of a far access, if a window of its borrower admits it (R364, R365); 0 for a read of
the counter frame, which is not counted. -/
def State.spillEntry (s : State) (d : DieId) (dev : BitVec 14) (pa n : Nat) (read : Bool) : Option Nat :=
  (List.finRange 16).findSome? fun w =>
    let (valid, borrow, base, frames) := s.spillWin d w
    let top := base + frames * 0x200000
    if valid = false ∨ borrow ≠ dev.toNat then none
    else if base ≤ pa ∧ pa + n ≤ top then some (top + 16 * ((pa - base) / 0x200000))
    else if read ∧ top ≤ pa ∧ pa + n ≤ top + 0x200000 then some 0
    else none

/-- A field of a counter entry raised, saturating (R365). -/
def State.countFar (s : State) (entry field k : Nat) : State :=
  if entry = 0 then s
  else
    let a := entry + 4 * field
    s.writeAt a (leBytes 4 (min (2 ^ 32 - 1) (s.num a 4 + k)))

/-- The 64-byte units that a range touches. -/
def units64 (pa n : Nat) : Nat := if n = 0 then 0 else (pa + n - 1) / 64 - pa / 64 + 1

/-- A far request served (R363): refused as FAR_GRANT outside its borrower's windows, counted otherwise. -/
def State.farServe (s : State) (p : PortId) (k : Packet) (pa n : Nat) (read : Bool) (f : State → Nat → State) : State :=
  let d := dieOfPort p
  match s.spillEntry d k.sdev pa n read with
  | none => s.raise k.jslot .farGrant { unit := .port p, addr := pa, extra := k.sdev.toNat }
  | some e =>
    if s.dramTop < pa + n then s.raise k.jslot .farGrant { unit := .port p, addr := pa, extra := k.sdev.toNat }
    else f ((s.modReg (.stack (s.place pa).stack .farsrv) (· + 1))) e

/-- The die of the slice that serves an address (R399). -/
def State.sliceDie (s : State) (pa : Nat) : DieId := stackDie (s.place pa).stack

/-- FARRD: a far read (R363, R365). -/
def execFarrd (p : PortId) (k : Packet) (s : State) : Out :=
  let h := ohOf k.body
  let n := 16 * (h.sub + 1)
  .next (s.recv p k ptFarrd fun s =>
    s.farServe p k h.addr n true fun s e =>
      match s.readAt h.addr n with
      | (none, s) => s.raise k.jslot .dramUe { unit := .port p, addr := h.addr, src := some k.sdev, found := some 0 }
      | (some b, s) =>
        (s.countFar e 0 (units64 h.addr n)).reply (s.sliceDie h.addr) k ptFarrsp true
          { addr := h.addr, sub := h.sub, xid := h.xid, xseq := h.xseq } b)

/-- The bytes of a range under a byte mask written, in order. -/
def State.writeMasked (s : State) (pa : Nat) (l : List Byte) (mask : Nat) : State :=
  (List.range l.length).foldl (fun s i => if mask.testBit i then s.writeAt (pa + i) (slice l i 1) else s) s

/-- FARWR: a far write; VID masks the bytes of its first unit (R363, R389). -/
def execFarwr (p : PortId) (k : Packet) (s : State) : Out :=
  let h := ohOf k.body
  let data := k.body.drop 16
  .next (s.recv p k ptFarwr fun s =>
    s.farServe p k h.addr data.length false fun s e =>
      let s := if h.vid = 0xFFFF then s.writeAt h.addr data
        else (s.writeMasked h.addr (data.take 16) h.vid).writeAt (h.addr + 16) (data.drop 16)
      let s := s.countFar e 1 (units64 h.addr data.length)
      s.reply (s.sliceDie h.addr) k ptFarrsp true { addr := h.addr, xid := h.xid, xseq := h.xseq } [])

/-- The tile and context of a reservation tag (R390). -/
def tagOf (w : Nat) : Option (TileId × CtxId) := (tileOf? (bitsOf w 0 10)).map (fun t => (t, Fin.ofNat 32 (bitsOf w 10 5)))

/-- The far reservations of a stack without those of a tag. -/
def dropTag (l : List (BitVec 14 × TileId × CtxId × Nat)) (dev : BitVec 14) (t : TileId) (c : CtxId) :
    List (BitVec 14 × TileId × CtxId × Nat) :=
  l.filter (fun r => !(r.1 == dev && r.2.1 == t && r.2.2.1 == c))

/-- Whether a slice that holds n far reservations is full: it holds at least 64 (R390). -/
def farFull (n : Nat) : Bool := decide (64 ≤ n) && decide (Config.farResvCap ≤ n)

/-- The device without the far reservation of a tag (R390). -/
def State.dropFar (s : State) (dev : BitVec 14) (t : TileId) (c : CtxId) : State :=
  { s with farResv := s.farResv.map (fun (p : StackId × List (BitVec 14 × TileId × CtxId × Nat)) => (p.1, dropTag p.2 dev t c)) }

/-- A far LR's reservation set: it replaces the tag's earlier one anywhere on the device; a full slice drops its oldest
(R390). -/
def State.farReserve (s : State) (dev : BitVec 14) (t : TileId) (c : CtxId) (pa : Nat) : State :=
  let s := s.dropFar dev t c
  let q := s.place pa
  let l := Tab.get [] s.farResv q.stack
  let same := fun (r : BitVec 14 × TileId × CtxId × Nat) => (s.place (64 * r.2.2.2)).slice == q.slice
  let l := if farFull (l.filter same).length then eraseFirst same l else l
  { s with farResv := Tab.set s.farResv q.stack (l ++ [(dev, t, c, pa / 64)]) }

/-- Whether a tag's reservation on a granule stands at this device. -/
def State.farHeld (s : State) (dev : BitVec 14) (t : TileId) (c : CtxId) (pa : Nat) : Bool :=
  (Tab.get [] s.farResv (s.place pa).stack).contains (dev, t, c, pa / 64)

/-- FARAMO: a far atomic, LR or SC, performed at the slice and answered with one unit (R30, R390). -/
def execFaramo (p : PortId) (k : Packet) (s : State) : Out :=
  let h := ohOf k.body
  let n := if h.aw then 8 else 4
  let pa := h.addr / n * n
  let v := leAt k.body 16 8
  let answer := fun (s : State) (x : Nat) =>
    s.reply (s.sliceDie pa) k ptFarrsp true { addr := h.addr, xid := h.xid, xseq := h.xseq } (leBytes 16 x)
  .next (s.recv p k ptFaramo fun s =>
    s.farServe p k pa n false fun s e =>
      let s := s.countFar e 2 1
      match tagOf (leAt k.body 24 8) with
      | none => s.malformed p k
      | some (t, c) =>
        if h.sub = 10 then
          let held := s.farHeld k.sdev t c pa
          let s := s.dropFar k.sdev t c
          if held then answer (s.writeAt pa (leBytes n v)) 0 else answer s 1
        else
          let s := s.scTouch pa n (h.sub != 9)
          if s.poisoned pa n then s.raise k.jslot .dramUe { unit := .port p, addr := pa, src := some k.sdev, found := some 0 }
          else
            let old := s.num pa n
            if h.sub = 9 then answer (s.farReserve k.sdev t c pa) old
            else
              match amoOf? h.sub with
              | some op => answer ((s.write pa (leBytes n (amoEval op (8 * n) old v))).spoilRings pa n) old
              | none => s.malformed p k)

/-- FARRSP: a far reply ends the scalar access or the engine access that it answers; the replies of one context come in
order (R363, R400). -/
def execFarrsp (p : PortId) (k : Packet) (s : State) : Out :=
  let h := ohOf k.body
  .next (s.recv p k ptFarrsp fun s =>
    match tileOfOrd? (h.xid / 64) with
    | none => s
    | some t =>
      let ctx : Option CtxId := if h.xid % 64 < 32 then some (Fin.ofNat 32 (h.xid % 64)) else none
      if h.xseq = 0 then
        match (s.tile t).memq.find? (fun o => some o.ctx == ctx && o.sent && o.place == Place.far k.sdev) with
        | some o => s.farDone t o (k.body.drop 16)
        | none => s
      else
        (s.farReturned (fun w => w.tile == t && w.ctx == ctx && w.dev == k.sdev)).progress t)

/-- FAR_TIMEOUT: a far access of a tile has had no reply for XFER_TIMEOUT (R366). -/
def execFarTimeout (t : TileId) (ctx : Option CtxId) (s : State) : Out :=
  .next (
    match (s.tile t).memq.find? (fun o => some o.ctx == ctx && o.sent), s.farWaits.find? (fun w => w.tile == t && w.ctx == ctx) with
    | some o, _ => s.raiseTile t .farTimeout { ctx := ctx, addr := o.pa }
    | none, some w => s.raiseTile t .farTimeout { ctx := ctx, addr := w.pa }
    | none, none => s)

/-! ### FAULT (R408, R448, R450) -/

/-- FAULT: it stops a RUNNING job of its epoch, and is sent on to every other UP port once in that epoch; for any other
slot it is dropped and counted (R450). -/
def execFault (p : PortId) (k : Packet) (s : State) : Out :=
  .next (
    if k.ptype ≠ ptFault ∨ s.computeOn = false then s
    else
      match s.takePacket p k with
      | none => s
      | some s =>
        if pkOk k = false then s.malformed p k
        else
          let b := s.job k.jslot
          if b.st ≠ .running ∨ b.epoch ≠ k.epoch then s.modReg (.port p .lkdrop) (fun w => Word.addBits w 32 16 1)
          else if b.stop.isSome then s
          else
            let code := leAt k.body 16 1
            let tile := bitsOf (leAt k.body 16 8) 8 10
            let s := (s.recordFault k.jslot code { unit := .port p, tile := tileOf? tile, extra := k.sdev.toNat } true).stopSlot k.jslot code
              (if code = 0x59 then some 2 else if code = 0x5A then some 3 else none)
            let s := (List.finRange 16).foldl (fun s q =>
              if s.portUp q ∧ q ≠ p then
                s.sendPort (dieOfPort q) q
                  { k with ddev := BitVec.ofNat 14 (Word.bits (s.portReg q .portstat) 10 14), ttl := if k.ttl = 0 then 1 else k.ttl } true false false .unit
              else s) s
            s.signalChassisFault)

end Sys2Proof.Machine
end

