-- ==== Sys2Proof/Machine/Links.lean ====
section
/-! DEFINITION. The Espex links (R378 to R409): training, flits, retry and link down, time synchronisation and low-power idle. -/

namespace Sys2Proof.Machine

/-! ### Training (R381 to R384) -/

/-- The width of a set of good logical lanes: the code of PORTSTAT.WIDTH (R382, R405). -/
def laneWidth (good : Nat) (maxw : Nat) : Nat :=
  let need := if good = 15 then 0 else if good % 4 = 3 ∨ good / 4 = 3 then 1 else if good ≠ 0 then 2 else 3
  if need = 3 then 3 else max need maxw

/-- The physical lane of a logical one, and back (R381). -/
def logicalLane (o : LaneOrder) (l : Nat) : Nat :=
  match o with
  | .reversed => 3 - l
  | _ => l

/-- The logical lanes that a port receives well after training: no fault, qualified (R381). -/
def goodLanes (r : Training) (bad : Nat) : Nat :=
  (List.range 4).foldl (fun a l =>
    let phys := logicalLane r.order l
    if r.faults.any (fun f => f.lane.val == phys && f.code.val != 0) ∨ r.poor.toNat.testBit l ∨ bad.testBit l then a else a + 2 ^ l) 0

/-- The logical lanes that a direction runs on at a width: all four, the lower good pair, or the lowest good lane (R382). -/
def lanesUsed (good width : Nat) : Nat :=
  match width with
  | 0 => 15
  | 1 => if good % 4 = 3 then 3 else 12
  | 2 => 2 ^ ctzBits 4 good
  | _ => 0

/-- LANEDIAG of a training (R405): a lane that fails qualification, or that was taken out for excess errors (`bad`), shows fault 5. -/
def laneDiag (r : Training) (good bad : Nat) : Word :=
  let w := r.faults.foldl (fun (w : Word) f =>
    Word.setBits (Word.setBits w (8 * f.lane.val) 3 f.code.val) (8 * f.lane.val + 3) 2 (if f.code = 4 then f.other.val else 0)) 0
  (List.range 4).foldl (fun w l =>
    let phys := logicalLane r.order l
    if r.order = .other ∧ good.testBit l then Word.setBits w (8 * phys) 3 6
    else if (r.poor.toNat.testBit l ∨ bad.testBit l) ∧ Word.bits w (8 * phys) 3 = 0 then Word.setBits w (8 * phys) 3 5 else w) w

/-- A link event in the ring (R555): 1 width degraded, 2 fast retrain, 3 down, 4 up. -/
def State.linkEvent (s : State) (p : PortId) (code : Nat) : State :=
  s.eventAdd 0x05 code (if code = 3 then 2 else 1) (unitCode (.port p))
    (leBytes 4 (Word.bits (s.portReg p .lanediag) 0 32) ++ leBytes 4 (Word.bits (s.portReg p .portstat) 10 14))

/-- A port UP at the width that training chose, recorded in its registers (R381 to R383, R405). -/
def State.portUpAt (s : State) (p : PortId) (r : Training) (width : Nat) : State :=
  let s := s.modReg (.port p .portstat) fun w =>
    let w := Word.setBits (Word.setBits w 0 3 2) 3 2 width
    let w := Word.setBits (Word.setBits w 5 4 r.inverted.toNat) 9 1 (if r.order = .reversed then 1 else 0)
    Word.setBits (Word.setBits w 10 14 r.nbrDev.toNat) 24 4 r.nbrPort.val
  let s := if Word.bits (s.portReg p .portcfg) 1 2 < width then (s.bumpHi (.port p .lktrain)).linkEvent p 1 else s
  s.updateSrc.pumpPort p

/-- A link as T5 of a full training leaves it (R381): sequence numbers reset, the neighbour's antes granted in full, the lanes that each
direction runs on, and what a fast retrain starts from. -/
def trainedLink (r : Training) (good width : Nat) : LinkSt :=
  { LinkSt.reset with eqSaved := true, saved := r, grant := r.antes.mapIdx (fun i n => (i, n)), rxok := good,
                      rxLanes := lanesUsed good width, txLanes := lanesUsed r.peerOk.toNat width }

/-- What stood in a port's receive buffer is no longer counted against antes that are granted anew. -/
def State.keepArrived (s : State) (p : PortId) : State :=
  { s with inbox := s.inbox.filter (fun q => q.1 != p),
           localPkts := s.localPkts ++ (s.inbox.filter (fun q => q.1 == p)).map (fun q => q.2),
           egress := s.egress.map (fun (x : PortId × List EgPkt) =>
             (x.1, x.2.map (fun e => if e.hold = .port p then { e with hold := .unit, die := dieOfPort p } else e))) }

/-- LINK_TRAINING: full training of an enabled port, which comes UP or fails (R381, R382). A port that fails is not UP, its
WIDTH none and its STATE 0 (DEDUCED, log 47). -/
def execLinkTraining (p : PortId) (r : Training) (s : State) : Out :=
  .next (
    if s.computeOn = false ∨ s.portExcl p ∨ Word.bit (s.portReg p .portcfg) 0 = false ∨ 2 ≤ s.portState p then s
    else
      let good := goodLanes r 0
      let maxw := Word.bits (s.portReg p .portcfg) 1 2
      let width := max (laneWidth good maxw) (laneWidth r.peerOk.toNat maxw)
      let s := s.setReg (.port p .lanediag) (laneDiag r good 0)
      if r.order = .other ∨ width = 3 then s.modReg (.port p .portstat) (fun w => Word.setBits (Word.setBits w 0 3 0) 3 2 3)
      else (((s.keepArrived p).modLink p (fun _ => trainedLink r good width)).portUpAt p r width).linkEvent p 4)

/-- LANE_ERROR_THRESHOLD: a logical lane is judged bad; its RXOK bit is cleared, RTREQ set, and both sides retrain (R384). -/
def execLaneErrorThreshold (p : PortId) (lane : Fin 4) (s : State) : Out :=
  .next (
    if s.portUp p then
      let bit := 2 ^ lane.val
      let s := s.modLink p (fun l => { l with badLanes := l.badLanes ||| bit, rxok := l.rxok - (l.rxok &&& bit), rtreq := true })
      let s := s.setReg (.port p .lanediag) (laneDiag (s.link p).saved 0 (s.link p).badLanes)
      s.setPortState p 3
    else s)

/-- The flits of the replay buffer sent again from the first, in their order (R395). -/
def LinkSt.resend (l : LinkSt) : LinkSt := l.replay.foldl (fun l x => l.flitOut 0 x.1 x.2) l

/-- The adaptive packets queued at a port routed again, their antes given back (R407). -/
def State.reroute (s : State) (p : PortId) : State :=
  let q := Tab.get [] s.egress p
  let s := { s with egress := Tab.set s.egress p (q.filter (fun e => !e.antes)) }
  (q.filter (fun e => e.antes)).foldl (fun s e =>
    let s := s.modLink p (fun l => l.give e.k)
    match s.route e.at_ p e.k false (pkSignalBearing e.k) e.hold with
    | .deliver s => s.letGo e
    | .noRoute s => s.letGo e
    | .expired s => (s.letGo e).raise e.k.jslot .linkRoute (s.linkInfo p e.k e.k.ddev)
    | .sent s => s) s

/-- FAST_RETRAIN: from T4, with what the last full training saved; lanes judged bad and lanes that fail qualification stay out, the
first diagnosis of the others stays; the replay buffer is kept and sent again, and an open time-sync exchange abandoned. A port that is
down makes one (R381, R384, R395, R396, R407). -/
def execFastRetrain (p : PortId) (r : Training) (s : State) : Out :=
  .next (
    let st := s.portState p
    let l := s.link p
    if (st ≠ 2 ∧ st ≠ 3 ∧ st ≠ 4) ∨ l.eqSaved = false ∨ (st = 4 ∧ l.lost) then s
    else
      let r : Training := { l.saved with peerOk := r.peerOk, poor := l.saved.poor ||| r.poor }
      let good := goodLanes r l.badLanes
      let maxw := Word.bits (s.portReg p .portcfg) 1 2
      let width := max (laneWidth good maxw) (laneWidth r.peerOk.toNat maxw)
      let s := s.setReg (.port p .lanediag) (laneDiag r good l.badLanes)
      let s := s.modLink p (fun l => { l with tsOpen := none, fails := 0, rtreq := false, peerRtreq := false, rxok := good })
      if width = 3 then
        (s.modLink p (fun l => { l with lost := true })).modReg (.port p .portstat) (fun w => Word.setBits (Word.setBits w 0 3 4) 3 2 3) |>.reroute p
      else
        let s := s.modLink p (fun l => ({ l with retrying := decide (l.replay ≠ []), rxLanes := lanesUsed good width,
                                                 txLanes := lanesUsed r.peerOk.toNat width } : LinkSt).resend)
        ((s.bumpLo (.port p .lktrain)).portUpAt p r width).linkEvent p 2)

/-! ### Flits (R385, R386, R395) -/

/-- Whether a flit's CRC holds (R385). -/
def flitCrcOk (f : List Byte) : Bool := leAt f 12 4 == crc32c (f.take 12 ++ f.drop 16)

/-- An acknowledgement acted on: the flits up to ACKSEQ leave the replay buffer (R395). -/
def LinkSt.ack (l : LinkSt) (seq : Nat) : LinkSt :=
  if l.replay.any (fun x => x.1 == seq) then
    { l with replay := (l.replay.dropWhile (fun x => x.1 != seq)).drop 1, retrying := false, fails := 0 }
  else l

/-- An ante return acted on: cumulative counts modulo 2,048 (R385). -/
def LinkSt.anteReturn (l : LinkSt) (r : Nat) : LinkSt :=
  let id := r % 32
  let n := r / 32 % 2048
  let back := (n + 2048 - Tab.get 0 l.seen id % 2048) % 2048
  { l with used := Tab.set l.used id (Tab.get 0 l.used id - back), seen := Tab.set l.seen id n }

/-- A retry: counted, and the replay buffer sent again (R395). -/
def State.startRetry (s : State) (p : PortId) : State :=
  (s.modLink p (fun l => ({ l with retrying := true } : LinkSt).resend)).bumpLo (.port p .lkretry)

/-- The header of an accepted flit acted on: its acknowledgement, NAK and ante returns (R385, R395). A NAK that comes while a retry is
under way starts no other. -/
def State.flitHeader (s : State) (p : PortId) (f : List Byte) : State :=
  let w := leAt f 0 12
  let s := if w.testBit 26 then s.modLink p (fun l => l.ack (bitsOf w 14 12)) else s
  let nak := w.testBit 27 && decide ((s.link p).replay ≠ []) && !(s.link p).retrying
  let s := if nak then s.startRetry p else s
  let s := s.modLink p fun l => (List.range 4).foldl (fun l i => l.anteReturn (bitsOf w (32 + 16 * i) 16)) l
  s.pumpPort p

/-- The packets that the bytes of accepted slots complete, and the bytes of one that runs on (R386). `fuel` bounds the
slots. -/
def cutPackets : Nat → List Byte → List Packet × List Byte
  | 0, b => ([], b)
  | fuel + 1, b =>
    if b.length < 16 then ([], b)
    else
      let h := b.take 16
      let n := 16 * bitsOf (leVal h) 6 5
      if leVal h = 0 then cutPackets fuel (b.drop 16)
      else if b.length < 16 + n then ([], b)
      else
        let (ps, rest) := cutPackets fuel (b.drop (16 + n))
        (packetOf h (slice b 16 n) :: ps, rest)

/-- A packet that a data flit brought: one of bad form is dropped (R389), a FAULT waits for the stop network, another is
routed (R399). -/
def State.packetArrives (s : State) (p : PortId) (k : Packet) : State :=
  if pkOk k = false then (s.malformed p k).freeAntesOf p k
  else if k.ptype = ptFault then { s with inbox := s.inbox ++ [(p, k)] }
  else s.forwardPacket p k

/-- A flit that the receiver lacks: NAK goes back (R395). -/
def State.flitGap (s : State) (p : PortId) : State := (s.modLink p (fun l => { l with gap := true })).linkReport p

/-- A flit with a good CRC received (R385, R386, R395). A data flit out of order is discarded: one already accepted is acknowledged
again, one ahead of its turn is a gap. -/
def State.takeFlit (s : State) (p : PortId) (f : List Byte) : State :=
  let w := leAt f 0 12
  if w % 4 = 1 then s.flitHeader p f
  else if w % 4 ≠ 0 then s
  else
    let ahead := (bitsOf w 2 12 + 4096 - (s.link p).rxSeq) % 4096
    if 2048 ≤ ahead then s.linkReport p
    else if ahead ≠ 0 then s.flitGap p
    else
      let s := s.modReg (.port p .lkrx) (· + 1)
      let b := (s.link p).partials ++ f.drop 16
      let (ps, rest) := cutPackets (b.length / 16) b
      let s := s.modLink p (fun l => { l with gap := false, rxSeq := (l.rxSeq + 1) % 4096, partials := rest, anyRx := true })
      let s := (s.flitHeader p f).linkReport p
      ps.foldl (fun s k => s.packetArrives p k) s

/-- The lanes that a port receives on. -/
def State.rxWidth (s : State) (p : PortId) : Nat := popBits 4 (s.link p).rxLanes

/-- The header of a FEC block taken, with its corrected symbols counted (R380, R384, R406): RTREQ asks for a fast retrain. -/
def State.blockHeader (s : State) (p : PortId) (b : FecBlock) : State :=
  let s := s.modReg (.port p .lkfec) (fun w => Word.addBits w 0 32 b.corrected)
  s.modLink p (fun l => { l with peerRxok := b.hdr % 16, peerRtreq := b.hdr.testBit 4 })

/-- DATA_FLIT: a flit received by an UP port in its FEC block (R379, R380, R385, R386, R395, R574). A flit that the decoder loses is
counted and handled as one whose CRC fails: it is discarded, and NAK goes back. The block's header is taken with its first flit. -/
def execDataFlit (p : PortId) (x : FecIn) (s : State) : Out :=
  .next (
    if s.portUp p = false ∨ s.computeOn = false then s
    else
      match fecDecode (s.rxWidth p) x.lanes with
      | none => (s.bumpHi (.port p .lkfec)).flitGap p
      | some b =>
        let s := if x.flit = 0 then s.blockHeader p b else s
        let f := b.flits.getD x.flit.val []
        let s := if flitCrcOk f then s.takeFlit p f else s.flitGap p
        if x.flit = 0 ∧ (s.link p).peerRtreq ∧ s.portUp p then s.setPortState p 3 else s)

/-! ### Retry and link down (R395, R396) -/

/-- RETRY_TIMEOUT: 2 µs without acknowledgement progress while flits are outstanding: a retry starts, or the one under way
fails; after eight failures in a row the port is down (R395, R396). -/
def execRetryTimeout (p : PortId) (s : State) : Out :=
  .next (
    let l := s.link p
    if s.portUp p = false ∨ l.replay = [] then s
    else if l.retrying = false then s.startRetry p
    else
      let s := s.bumpHi (.port p .lkretry)
      if 8 ≤ l.fails + 1 then ((s.modLink p (fun l => { l with fails := 8 })).setPortState p 4).linkEvent p 3 |>.reroute p
      else (s.modLink p (fun l => { l with fails := l.fails + 1 })).startRetry p)

/-- LINK_DOWN: the fast retrain of a port that is down fails; the job fault is raised for every job that runs on the device
(R396, R408). -/
def execLinkDown (p : PortId) (s : State) : Out :=
  .next (
    if s.portState p ≠ 4 then s
    else
      let s := (s.modReg (.port p .portstat) (fun w => Word.setBits w 3 2 3)).modLink p (fun l => { l with lost := true })
      (List.finRange 4).foldl (fun s j =>
        if (s.job j).st = .running then
          s.raise j .linkDown { unit := .port p, addr := (s.portReg p .lanediag).toNat, extra := Word.bits (s.portReg p .portstat) 10 14,
                                src := some s.devId, dst := some (BitVec.ofNat 14 (Word.bits (s.portReg p .portstat) 10 14)),
                                lanes := some (s.portReg p .lanediag) }
        else s) s)

/-! ### Time synchronisation and low-power idle (R401, R402) -/

/-- A control message of a control flit (R401). -/
def ctlMsg (ctype : Nat) (t frac : Nat) (hi : Nat) : List Byte :=
  leBytes 16 (ctype + frac % 2 ^ 16 * 2 ^ 16 + t % 2 ^ 64 * 2 ^ 32 + hi % 2 ^ 16 * 2 ^ 112)

/-- A control message sent by an UP port, in a control flit from its slot 0 on (R386, R401). -/
def State.sendCtl (s : State) (p : PortId) (m : List Byte) : State :=
  s.modLink p (fun l => { l.flitOut 1 0 m with ctlOut := l.ctlOut ++ [m] })

/-- TIMESYNC_PERIOD: a time-sync exchange starts on an UP port (R401). -/
def execTimesyncPeriod (p : PortId) (s : State) : Out :=
  .next (
    if s.portUp p then
      (s.sendCtl p (ctlMsg 1 s.now (s.timebase % 2 ^ 16) 0)).modLink p (fun l => { l with tsOpen := some s.timebase })
    else s)

/-- TSREQ: a request is answered with t1 and t2 in slot 1 and the fraction of t2 in the message (R401); the answer has no place for the
fraction of t1, which the asking port keeps. -/
def execTsreq (p : PortId) (t1 : Stamp) (s : State) : Out :=
  .next (
    if s.portUp p then
      s.sendCtl p (ctlMsg 2 s.now (s.timebase % 2 ^ 16) (s.timebase % 2 ^ 16) ++ leBytes 8 t1.ns.toNat ++ leBytes 8 s.now)
    else s)

/-- The offset and the delay of a time-sync exchange, in units of 2^-16 ns, from its four timestamps in those units (R401). -/
def tsOffset (t1 t2 t3 t4 : Nat) : Int := (((t2 : Int) - t1) - ((t4 : Int) - t3)) / 2
def tsDelay (t1 t2 t3 t4 : Nat) : Int := (((t2 : Int) - t1) + ((t4 : Int) - t3)) / 2

/-- A time of a message in units of 2^-16 ns. -/
def stampUnits (t : Stamp) : Nat := t.ns.toNat * 2 ^ 16 + t.frac.toNat

/-- TSRSP: the response to the open request; the parent's offset steers the timebase, in whole nanoseconds (R401, R494; log 48). -/
def execTsrsp (p : PortId) (t1 : Word) (t2 t3 : Stamp) (s : State) : Out :=
  .next (
    match (s.link p).tsOpen with
    | some a =>
      if s.portUp p ∧ a / 2 ^ 16 % 2 ^ 64 = t1.toNat then
        let s := s.modLink p (fun l => { l with tsOpen := none })
        let w := s.portReg 0 .timecfg
        if Word.bit w 4 ∧ Word.bits w 0 4 = p.val then
          let b := stampUnits t2
          let c := stampUnits t3
          (s.modLink p (fun l => { l with delay := tsDelay a b c s.timebase })).measured 1 (tsOffset a b c s.timebase / 2 ^ 16)
        else s
      else s
    | none => s)

/-- A port into low-power idle, and back UP with what waited for it (R402). -/
def State.lpiEnter (s : State) (p : PortId) : State := if s.portUp p then s.setPortState p 5 else s
def State.lpiExit (s : State) (p : PortId) : State := if s.portState p = 5 then (s.wakePort p).pumpPort p else s

def execLpienter (p : PortId) (s : State) : Out := .next (s.lpiEnter p)
def execLpiexit (p : PortId) (s : State) : Out := .next (s.lpiExit p)

end Sys2Proof.Machine
end

