-- ==== Sys2Proof/Machine/Host.lean ====
section
/-! DEFINITION. The host Ethernet port and GXHT (R410 to R433): frames and pauses, packets and acknowledgements, connections,
resending and pacing, and the management messages that it carries (R426, R575, R576). -/

namespace Sys2Proof.Machine

/-! ### Connections and numbers -/

/-- A connection, and the state with one replaced by a function of it. -/
def State.conn (s : State) (c : Fin 1024) : Conn := Tab.get Conn.reset s.host.conns c
def State.modConn (s : State) (c : Fin 1024) (f : Conn → Conn) : State :=
  { s with host := { s.host with conns := Tab.set s.host.conns c (f (s.conn c)) } }

/-- The host part of the state replaced by a function of it. -/
def State.modHost (s : State) (f : HostSt → HostSt) : State := { s with host := f s.host }

/-- The distance from one sequence number to another, modulo 2³². -/
def psnDist (a b : Nat) : Nat := (b + 2 ^ 32 - a % 2 ^ 32) % 2 ^ 32

/-- Whether a sequence number lies before another. -/
def psnBefore (a b : Nat) : Bool := decide (0 < psnDist a b ∧ psnDist a b < 2 ^ 31)

/-- The window of a connection (R419), in each direction. -/
def htWindow : Nat := 4096

/-- The packet types of R416. -/
def htToken : BitVec 4 := 1
def htPut : BitVec 4 := 2
def htGetreq : BitVec 4 := 3
def htGetrsp : BitVec 4 := 4
def htMgmt : BitVec 4 := 5
def htAck : BitVec 4 := 6

/-- Whether the port is up (R429). -/
def State.hostUp (s : State) : Bool := Word.bits (s.hostReg .hpstat) 0 2 == 2

/-- A connection opened afresh: its PSNs at 0 in both directions (R427), its RTO and rate at their start (R420, R423). -/
def State.freshConn (s : State) (c : Conn) : Conn :=
  { c with st := .opened, rxNext := 0, seen := [], prev := none, since := 0, ce := 0, txPsn := 0, txMsn := 0, unacked := [],
           rto := Word.bits (s.hostReg .htcfg) 48 8, timeouts := 0, rtt := none, ceRtt := 0,
           rate := Word.bits (s.hostReg .cccfg) 20 7 * 2 ^ 20 / 100 }

/-- The fields of HTDROP raised (R431): 0 duplicates, 1 no connection or held, 2 refused, 3 GETREQs discarded. -/
def State.htDrop (s : State) (i : Nat) : State := s.modReg (.host .htdrop) (fun w => Word.addBits w (16 * i) 16 1)

/-! ### A packet in bytes (R10, R416) -/

/-- A packet as the bytes of a datagram: its 32-byte header, little-endian, and its payload. -/
def htBytes (k : HtPkt) : List Byte :=
  leBytes 32 (k.ver.toNat + k.typ.toNat * 2 ^ 4 + k.suit.val * 2 ^ 8 + k.last.toNat * 2 ^ 10 + k.conn.toNat * 2 ^ 16 + k.psn.toNat * 2 ^ 32
    + k.msn.toNat * 2 ^ 64 + k.plen.toNat * 2 ^ 96 + k.ts.toNat * 2 ^ 128 + k.arg.toNat * 2 ^ 192) ++ k.payload

/-- The packet that the bytes of a datagram spell. -/
def htPkt (d : List Byte) : HtPkt :=
  let h := leAt d 0 32
  { ver := BitVec.ofNat 4 h, typ := BitVec.ofNat 4 (h / 2 ^ 4), suit := Fin.ofNat 4 (bitsOf h 8 2), last := h.testBit 10,
    rsv := bitsOf h 11 5 != 0 || bitsOf h 110 18 != 0, conn := BitVec.ofNat 16 (h / 2 ^ 16), psn := BitVec.ofNat 32 (h / 2 ^ 32),
    msn := BitVec.ofNat 32 (h / 2 ^ 64), plen := BitVec.ofNat 14 (h / 2 ^ 96), ts := BitVec.ofNat 64 (h / 2 ^ 128),
    arg := BitVec.ofNat 64 (h / 2 ^ 192), payload := d.drop 32 }

end Sys2Proof.Machine

/-- The packet that a datagram holds. -/
def Sys2Proof.HtIn.pkt (i : Sys2Proof.HtIn) : Sys2Proof.HtPkt := Sys2Proof.Machine.htPkt i.data

namespace Sys2Proof.Machine

/-! ### Frames (R410, R412) -/

/-- The device's own address, as the bytes of R430 give one. -/
def State.ownIp (s : State) (v6 : Bool) : BitVec 128 :=
  BitVec.ofNat 128 (if v6 then (s.hostReg .ipv6addr0).toNat + (s.hostReg .ipv6addr1).toNat * 2 ^ 64 else Word.bits (s.hostReg .ipv4addr) 0 32)

/-- The sum of the 16-bit words of some bytes, the first byte of each the high one. -/
def beSum : List Byte → Nat
  | a :: b :: l => a.toNat * 256 + b.toNat + beSum l
  | [a] => a.toNat * 256
  | [] => 0

/-- The sum that a UDP checksum covers: addresses, protocol, ports, the length twice, and the datagram (PRESUMED: the UDP standard,
log 51). -/
def udpSum (v6 : Bool) (src dst : BitVec 128) (sport dport : BitVec 16) (d : List Byte) : Nat :=
  let n := if v6 then 16 else 4
  beSum (leBytes n src.toNat) + beSum (leBytes n dst.toNat) + 17 + sport.toNat + dport.toNat + 2 * (8 + d.length) + beSum d

/-- The checksum of a datagram that is sent: never 0. -/
def udpCheck (sum : Nat) : BitVec 16 := if sum % 65535 = 0 then 0xFFFF else BitVec.ofNat 16 (65535 - sum % 65535)

/-- Bytes of a frame from its destination address through its FCS that carries a datagram of `n` bytes (R410, R423). -/
def frameSize (v6 tagged sec : Bool) (n : Nat) : Nat :=
  12 + 4 * tagged.toNat + 32 * sec.toNat + 2 + (if v6 then 40 else 20) + 8 + n + 4

/-- HPCFG.MAXFRAME and HTCFG.UDPPORT. -/
def State.maxFrame (s : State) : Nat := Word.bits (s.hostReg .hpcfg) 4 14
def State.udpPort (s : State) : BitVec 16 := BitVec.ofNat 16 (Word.bits (s.hostReg .htcfg) 0 16)

/-- The transmit association in use: the one installed last (R414). -/
def State.txSa (s : State) : Option (Word × Fin 4) := s.host.macTx.getLast?.map (fun a => (a.sci, a.an))

/-- HTCFG.VID, and the priority of a suit, for the C-tag of a frame (R412). -/
def State.vid (s : State) : BitVec 12 := BitVec.ofNat 12 (Word.bits (s.hostReg .htcfg) 17 12)
def State.prioOf (s : State) (u : Suit) : Nat := Word.bits (s.hostReg .priomap) (3 * u.val) 3

/-- The frame of a packet: C-tag, ECT(0), addresses and checksum (R412); `peer.port` is the destination port. -/
def State.htFrame (s : State) (peer : HtPeer) (k : HtPkt) : HtFrame :=
  let d := htBytes k
  let src := s.ownIp peer.v6
  { vid := s.vid, pcp := BitVec.ofNat 3 (s.prioOf k.suit), sec := s.txSa, mac := BitVec.ofNat 48 (s.hostReg .macaddr).toNat, peer := peer,
    src := src, dscp := BitVec.ofNat 6 (Word.bits (s.hostReg .priomap) (16 + 6 * k.suit.val) 6), ecn := 2, port := s.udpPort,
    sum := udpCheck (udpSum peer.v6 src peer.ip s.udpPort peer.port d), data := d }

/-- Whether a frame's MACsec protection lets it in (R414). -/
def State.frameOk (s : State) (sec : Option (Word × Fin 4)) : Bool :=
  match sec with
  | some a => s.host.macRx.any (fun x => x.sci == a.1 && x.an == a.2)
  | none => !Word.bit (s.hostReg .htcfg) 16

/-- Whether the port takes a datagram for GXHT: its frame is no longer than MAXFRAME, it is for the device and its GXHT port, its
checksum holds (0 passes over IPv4), and it holds a header (R410 to R412). -/
def State.datagramOk (s : State) (i : HtIn) : Bool :=
  decide (frameSize i.peer.v6 i.tagged i.sec.isSome i.data.length ≤ s.maxFrame) && i.dst == s.ownIp i.peer.v6 && i.port == s.udpPort
    && ((!i.peer.v6 && i.sum == 0) || (udpSum i.peer.v6 i.peer.ip i.dst i.peer.port i.port i.data + i.sum.toNat) % 65535 == 0)
    && decide (32 ≤ i.data.length)

/-! ### Sending (R412, R413, R416, R420) -/

/-- Whether a received pause stops a suit: its priority is paused, and PFC is enabled for it (R413). -/
def State.suitPaused (s : State) (u : Suit) : Bool :=
  Word.bit (s.hostReg .priomap) (12 + u.val) && s.host.paused.contains (Fin.ofNat 8 (s.prioOf u))

/-- A packet that leaves: stamped with the timebase and counted (R416, R431). -/
def State.htEmit (s : State) (peer : HtPeer) (k : HtPkt) : State :=
  (s.modHost (fun h => { h with out := h.out ++ [.gxht (s.htFrame peer { k with ts := BitVec.ofNat 64 s.now })] })).modReg (.host .httx) (· + 1)

/-- An acknowledgement sent, or held while its suit is paused. -/
def State.sendAck (s : State) (peer : HtPeer) (k : HtPkt) : State :=
  if s.suitPaused k.suit ∨ s.hostUp = false then s.modHost (fun h => { h with acks := h.acks ++ [(peer, k)] })
  else s.htEmit peer k

/-- The peer of a connection, at the GXHT port (R412). -/
def State.gxhtPeer (s : State) (peer : HtPeer) : HtPeer := { peer with port := s.udpPort }

/-- The unacknowledged packets of an open connection that may leave and have not: those in the window whose suits are not
paused (R413, R419); one that has left before counts as resent (R420). -/
def State.pumpConn (s : State) (c : Fin 1024) : State :=
  let k := s.conn c
  if k.st ≠ .opened ∨ s.hostUp = false then s
  else
    let base := match k.unacked with
      | x :: _ => x.pkt.psn.toNat
      | [] => 0
    let go := fun (x : HtSent) => !x.sent && !s.suitPaused x.pkt.suit && decide (psnDist base x.pkt.psn.toNat < htWindow)
    let due := k.unacked.filter go
    let s := s.modConn c (fun k => { k with unacked := k.unacked.map (fun x =>
      if go x then { x with sent := true, resent := x.resent.map (fun _ => s.now) } else x) })
    due.foldl (fun s x =>
      let s := s.htEmit (s.gxhtPeer k.peer) x.pkt
      if x.resent.isSome then s.modReg (.host .htretx) (· + 1) else s) s

/-- A Delay_Req that leaves, in class 0; its departure is t3 (R415). -/
def State.sendDelayReq (s : State) : State :=
  if s.suitPaused 0 ∨ s.hostUp = false then s.modHost (fun h => { h with ptp3 := none, ptpWait := true })
  else s.modHost (fun h => { h with ptp3 := some s.now, ptpWait := false,
                                    out := h.out ++ [.delayReq s.vid (BitVec.ofNat 3 (s.prioOf 0)) s.txSa] })

/-- Everything that waits for the port to be up or for a pause to end. -/
def State.pumpHost (s : State) : State :=
  let s := if s.host.ptpWait then s.sendDelayReq else s
  let out := s.host.acks
  let s := s.modHost (fun h => { h with acks := [] })
  let s := out.foldl (fun (s : State) (x : HtPeer × HtPkt) => s.sendAck x.1 x.2) s
  s.host.conns.foldl (fun (s : State) (x : Fin 1024 × Conn) => s.pumpConn x.1) s

/-- A list cut into parts of `n`; `fuel` bounds them. -/
def cutParts (n : Nat) : Nat → List Byte → List (List Byte)
  | 0, l => [l]
  | fuel + 1, l => if l.length ≤ n then [l] else l.take n :: cutParts n fuel (l.drop n)

/-- The largest payload of a packet (R416). -/
def htMax : Nat := 8192

/-- The payload that the packets of a connection carry: at most 8,192 bytes, in frames no longer than MAXFRAME (R410). -/
def State.htCut (s : State) (c : Fin 1024) : Nat :=
  min htMax ((s.maxFrame - frameSize (s.conn c).peer.v6 true s.txSa.isSome 32) / 16 * 16)

/-- A message of a connection: packets with one MSN and consecutive PSNs, the last with LAST (R575; the cut is the model's,
log 50). `arg` gives ARG from the offset of a packet's first byte. -/
def State.htMessage (s : State) (c : Fin 1024) (typ : BitVec 4) (u : Suit) (body : List Byte) (arg : Nat → Nat) : State :=
  let k := s.conn c
  let cut := s.htCut c
  let body := padTo (roundUp body.length 16) body
  let parts := cutParts cut (body.length / cut + 1) body
  let n := parts.length
  let new := (List.range n).map fun (i : Nat) =>
    let d := parts.getD i []
    let p : HtPkt := { ver := 1, typ := typ, suit := u, last := i + 1 == n, rsv := false, conn := k.peerConn,
                       psn := BitVec.ofNat 32 (k.txPsn + i), msn := BitVec.ofNat 32 k.txMsn, plen := BitVec.ofNat 14 d.length,
                       ts := 0, arg := BitVec.ofNat 64 (arg (cut * i)), payload := d }
    let r : HtSent := { pkt := p, sent := false, resent := none }
    r
  (s.modConn c (fun k => { k with unacked := k.unacked ++ new, txPsn := (k.txPsn + n) % 2 ^ 32, txMsn := (k.txMsn + 1) % 2 ^ 32 })).pumpConn c

/-! ### Acknowledging (R418, R419) -/

/-- A packet of the window by its PSN. -/
def Conn.seenAt (k : Conn) (psn : Nat) : Option HtSeen := k.seen.find? (fun e => e.pkt.psn.toNat == psn)

/-- Whether a received packet's effect is complete. -/
def HtSeen.isDone (e : HtSeen) : Bool := e.wait == .done

/-- The cumulative point moved past the packets whose effect is complete. `fuel` bounds them. -/
def Conn.advance : Nat → Conn → Conn
  | 0, k => k
  | fuel + 1, k =>
    match k.seenAt k.rxNext with
    | some e =>
      if e.isDone then
        Conn.advance fuel { k with rxNext := (k.rxNext + 1) % 2 ^ 32, prev := some e.pkt,
                                   refused := (if e.status = 0 then [] else [(k.rxNext, e.status)])
                                     ++ k.refused.filter (fun x => decide (psnDist x.1 k.rxNext < htWindow)),
                                   seen := k.seen.filter (fun x => x.pkt.psn != e.pkt.psn) }
      else k
    | none => k

/-- The ranges of complete packets beyond the cumulative point, in order (R418). -/
def Conn.sackRanges (k : Conn) : List (Nat × Nat) :=
  let offs := (List.range htWindow).filter (fun i =>
    match k.seenAt ((k.rxNext + i) % 2 ^ 32) with
    | some e => e.isDone
    | none => false)
  offs.foldl (fun (l : List (Nat × Nat)) i =>
    match l.getLast? with
    | some (a, b) => if b + 1 = i then l.dropLast ++ [(a, i)] else l ++ [(i, i)]
    | none => [(i, i)]) []

/-- The payload of an ACK (R418). -/
def ackBytes (echo trig ce status : Nat) (sacks : List (Nat × Nat)) : List Byte :=
  let sacks := sacks.take 4
  padTo 48 (leBytes 8 echo ++ leBytes 4 trig ++ leBytes 2 (min ce 0xFFFF) ++ leBytes 1 sacks.length ++ leBytes 1 status
    ++ (sacks.map (fun (r : Nat × Nat) => leBytes 4 r.1 ++ leBytes 4 r.2)).flatten)

/-- An ACK packet in the suit of the packet it answers (R417, R418). -/
def ackPacket (conn : BitVec 16) (cum : Nat) (p : HtPkt) (ce status : Nat) (sacks : List (Nat × Nat)) : HtPkt :=
  { ver := 1, typ := htAck, suit := p.suit, last := false, rsv := false, conn := conn, psn := BitVec.ofNat 32 cum, msn := 0,
    plen := 48, ts := 0, arg := 0, payload := ackBytes p.ts.toNat p.psn.toNat ce status sacks }

/-- An ACK of a connection for a packet: its cumulative point and ranges; the counts since the last ACK start again. -/
def State.ackConn (s : State) (c : Fin 1024) (p : HtPkt) (status : Nat) : State :=
  let k := s.conn c
  let sacks := k.sackRanges.map (fun (r : Nat × Nat) => ((k.rxNext + r.1) % 2 ^ 32, (k.rxNext + r.2) % 2 ^ 32))
  let s := s.modConn c (fun k => { k with since := 0, ce := 0 })
  s.sendAck (s.gxhtPeer k.peer) (ackPacket k.peerConn k.rxNext p k.ce status sacks)

/-- The STATUS that a packet was given: that of one still held, or of one behind the cumulative point. -/
def Conn.statusOf (k : Conn) (psn : Nat) : Nat :=
  match k.seenAt psn with
  | some e => e.status
  | none => ((k.refused.find? (fun x => x.1 == psn)).map (·.2)).getD 0

/-- A received packet whose effect is complete (R419): the cumulative point moves, and an ACK goes for the 16th packet since
the last, for LAST, for a refusal and for a gap. -/
def State.finishRx (s : State) (c : Fin 1024) (p : HtPkt) (status : Nat) (gap : Bool) : State :=
  let s := s.modConn c fun k =>
    let k := { k with since := k.since + 1,
                      seen := k.seen.map (fun (e : HtSeen) => if e.pkt.psn = p.psn then { e with wait := .done, status := status } else e) }
    Conn.advance k.seen.length k
  if status ≠ 0 ∨ p.last ∨ gap ∨ 16 ≤ (s.conn c).since then s.ackConn c p status else s

/-- The messages beside a packet that break R575 with it: within a message, another type or MSN. -/
def Conn.breaks (k : Conn) (p : HtPkt) : List (BitVec 32) :=
  let q := p.psn.toNat
  let before := if q = k.rxNext then k.prev else (k.seenAt ((q + 2 ^ 32 - 1) % 2 ^ 32)).map (·.pkt)
  let differs := fun (o : HtPkt) => o.msn != p.msn || o.typ != p.typ
  (match before with | some o => if !o.last && differs o then [o.msn] else [] | none => [])
    ++ (match k.seenAt ((q + 1) % 2 ^ 32) with | some o => if !p.last && differs o.pkt then [o.pkt.msn] else [] | none => [])

/-- A refused packet: acknowledged with its status, counted, and never acted on (R418). One refused as malformed has its message
refused, and those whose packets it breaks up: their other packets are refused in turn (R417, R575). -/
def State.refuse (s : State) (c : Fin 1024) (p : HtPkt) (status : Nat) : State :=
  let s := if status = 4 then s.modConn c (fun k =>
      let near := k.badMsg.filter (fun m => decide ((m.toNat + 2 * htWindow + 2 ^ 32 - p.msn.toNat) % 2 ^ 32 < 4 * htWindow))
      { k with badMsg := (p.msn :: k.breaks p ++ near).eraseDups }) else s
  (s.htDrop 2).finishRx c p status true

/-- The ACK of a gap that a packet shows whose own effect is not complete: it gets a STATUS which the spec leaves open (free value,
log 51). -/
def State.ackGap (s : State) (c : Fin 1024) (p : HtPkt) : State :=
  let r := s.takeFree
  r.2.ackConn c p (Word.bits r.1 0 8)

/-! ### Management messages (R426, R575, R576) -/

/-- Whether an endpoint exists (R426). -/
def endpointOk (e : Nat) : Bool := [1, 2, 3, 0x10, 0x11, 0x12, 0x13, 0x20, 0x21, 0x22, 0x30, 0x31, 0x32, 0x40, 0x41].contains e

/-- Whether the sub-command in byte 0 of a body, and a FW_UPDATE's area, are known (R576). -/
def subOk (e : Nat) (body : List Byte) : Bool :=
  let c := leAt body 0 1
  if e = 0x20 then decide (body ≠ [] ∧ c ≤ 2)
  else if e = 0x31 then decide (1 ≤ c ∧ c ≤ 4 ∧ leAt body 1 1 ≤ 2)
  else if e = 0x32 then decide (1 ≤ c ∧ c ≤ 7)
  else true

/-- The statuses of R426, R427, R437 and R545 that several endpoints share. -/
def stNotImpl : Nat := 1
def stWrongState : Nat := 8
def stBadBody : Nat := 34

/-- The answer to a request: the same endpoint and tag, the status in bytes 0–3 and the results after it (R426); over GXHT a
message of the request's suit, which only an open connection sends. -/
def State.answer (s : State) (r : MgmtReq) (status : Nat) (results : List Byte := []) : State :=
  let body := leBytes 4 status ++ results
  match r.via with
  | some c =>
    if (s.conn c).st = .opened then s.htMessage c htMgmt r.suit body (fun _ => r.endpoint % 2 ^ 16 + r.tag % 2 ^ 32 * 2 ^ 16) else s
  | none => s.modHost (fun h => { h with i3cOut := h.i3cOut ++ [{ endpoint := r.endpoint, tag := r.tag, body := body }] })

/-- Whether the steward serves an endpoint (R426, R467, R532): once B03 has passed; over I3C and few endpoints in recovery; IDENT
alone after B04 has failed for good. -/
def State.serves (s : State) (e : Nat) (viaHost : Bool) : Bool :=
  if !s.boot.powered || decide (s.boot.step < 4) || s.boot.mrst then false
  else if Word.bit (s.stewReg .bootstat) 5 ∧ s.boot.step = 4 then
    if s.boot.recovery then !viaHost && [1, 0x30, 0x21, 0x20, 0x31, 0x32].contains e else e == 1
  else true

/-- A complete request taken by the steward: one that no endpoint takes is answered at once, another waits for the command
of its endpoint. -/
def State.takeRequest (s : State) (r : MgmtReq) : State :=
  if endpointOk r.endpoint = false ∨ s.serves r.endpoint r.via.isSome = false then s.answer r stNotImpl
  else if subOk r.endpoint r.body = false then s.answer r stBadBody
  else s.modHost (fun h => { h with reqs := h.reqs ++ [r] })

/-- Whether a body has the length `n` (R576): over GXHT up to 15 bytes of zeros may follow. -/
def MgmtReq.lenOk (r : MgmtReq) (n : Nat) : Bool :=
  match r.via with
  | some _ => decide (n ≤ r.body.length ∧ r.body.length < n + 16) && (r.body.drop n).all (· == 0)
  | none => r.body.length == n

/-- The request at a place of the queue served, if it is for this endpoint and sub-command; it leaves the queue. -/
def State.serve (s : State) (i endpoint : Nat) (is : MgmtReq → Bool) (f : MgmtReq → State → State) : State :=
  match s.host.reqs[i]? with
  | some r =>
    if r.endpoint = endpoint ∧ is r then f r (s.modHost (fun h => { h with reqs := h.reqs.eraseIdx i })) else s
  | none => s

/-! ### Receiving (R416 to R422, R575) -/

/-- The packets of a message from its first up to a PSN, in order, if all are held; and whether the first follows a LAST
packet or is PSN 0. `fuel` bounds the run. -/
def Conn.runBack : Nat → Conn → Nat → Option (List HtSeen × Bool)
  | 0, _, _ => none
  | fuel + 1, k, q =>
    match k.seenAt q with
    | none => none
    | some e =>
      if q = k.rxNext then
        match k.prev with
        | some p => some ([e], p.last)
        | none => some ([e], true)
      else
        let q' := (q + 2 ^ 32 - 1) % 2 ^ 32
        match k.seenAt q' with
        | none => none
        | some o => if o.pkt.last then some ([e], true) else (Conn.runBack fuel k q').map (fun r => (r.1 ++ [e], r.2))

/-- The packets of a message from a PSN to its LAST one, if all are held. -/
def Conn.runFwd : Nat → Conn → Nat → Option (List HtSeen)
  | 0, _, _ => none
  | fuel + 1, k, q =>
    match k.seenAt q with
    | none => none
    | some e => if e.pkt.last then some [e] else (Conn.runFwd fuel k ((q + 1) % 2 ^ 32)).map (e :: ·)

/-- An MGMT message taken once every packet from its first through its LAST is held (R575); one whose packets break the rule
is refused, packet by packet. -/
def State.tryMessage (s : State) (c : Fin 1024) (psn : Nat) : State :=
  let k := s.conn c
  match Conn.runBack htWindow k psn, Conn.runFwd htWindow k psn with
  | some (l, first), some (_ :: r) =>
    let run := l ++ r
    let whole := first && run.all (fun (e : HtSeen) => e.wait == .mgmt && e.pkt.msn == (run.headD e).pkt.msn)
    let mine := run.filter (fun (e : HtSeen) => e.wait == .mgmt)
    if whole then
      match run.getLast? with
      | some z =>
        let a := z.pkt.arg
        let s := s.takeRequest { via := some c, suit := z.pkt.suit, endpoint := Word.bits a 0 16, tag := Word.bits a 16 32,
                                 body := (run.map (fun (e : HtSeen) => e.pkt.payload)).flatten }
        run.foldl (fun (s : State) (e : HtSeen) => s.finishRx c e.pkt 0 false) s
      | none => s
    else mine.foldl (fun (s : State) (e : HtSeen) => s.refuse c e.pkt 4) s
  | _, _ => s

/-- The MGMT messages that a received packet may have completed; the packets of a message refused are refused (R417). -/
def State.tryMessages (s : State) (c : Fin 1024) : State :=
  let s := ((s.conn c).seen.filter (fun (e : HtSeen) => e.wait == .mgmt && (s.conn c).badMsg.contains e.pkt.msn)).foldl
    (fun (s : State) (e : HtSeen) => s.refuse c e.pkt 4) s
  ((s.conn c).seen.filter (fun (e : HtSeen) => e.wait == .mgmt)).foldl (fun (s : State) (e : HtSeen) =>
    if ((s.conn c).seenAt e.pkt.psn.toNat).any (fun (x : HtSeen) => x.wait == .mgmt) then s.tryMessage c e.pkt.psn.toNat else s) s

/-- Whether every frame of a range may be read and written for a connection's job (R422): DRAM granted to the job or the
SRAM window of one of its tiles. -/
def State.hostAddrOk (s : State) (j : JSlot) (ga : Nat) (n : Nat) : Bool :=
  ga / 2 ^ 48 == s.devId.toNat && (pieces (ga % 2 ^ 48) (max n 1)).all (fun (pc : Nat × Nat) =>
    match s.target pc.1 with
    | .dram => decide (pc.1 + pc.2 ≤ s.dramTop) && (List.finRange 4).any (fun d => (s.job j).dies.testBit d.val && s.granted d j pc.1)
    | .sram t _ => (s.job j).dies.testBit t.die.val
    | _ => false)

/-- The token images of a TOKEN packet, if they fill its payload (R417). `fuel` bounds them. -/
def tokensOf : Nat → List Byte → Option (List Token)
  | _, [] => some []
  | 0, _ => none
  | fuel + 1, b =>
    if b.length < 16 then none
    else
      let n := 16 * bitsOf (leAt b 0 16) 62 5
      if b.length < 16 + n then none
      else (tokensOf fuel (b.drop (16 + n))).map (tokOf (b.take 16) (slice b 16 n) :: ·)

/-- The ARG bits that a type uses (R417, R344). -/
def argBits (typ : BitVec 4) : Nat :=
  if typ = htToken then 16 else if typ = htMgmt then 48 else if typ = htPut ∨ typ = htGetreq then 62 else 0

/-- The status that refuses a packet, or 0 (R417, R422): rights, form, then the address. Rights are those of the type: MG for
MGMT, a job for the others (DEDUCED, log 51). -/
def State.htStatus (s : State) (k : Conn) (p : HtPkt) : Nat :=
  if p.typ = htGetrsp ∨ p.typ = 0 ∨ htAck.toNat < p.typ.toNat then 4
  else if (if p.typ = htMgmt then k.mg else k.jb) = false then 3
  else if p.rsv ∨ p.payload.length ≠ p.plen.toNat ∨ p.plen.toNat % 16 ≠ 0 ∨ htMax < p.plen.toNat ∨ 2 ^ argBits p.typ ≤ p.arg.toNat
      ∨ k.badMsg.contains p.msn ∨ k.breaks p ≠ [] then 4
  else if p.typ = htToken then
    match tokensOf 512 p.payload with
    | some l => if l.length = p.arg.toNat then 0 else 4
    | none => 4
  else if p.typ = htPut then (if s.hostAddrOk k.jslot p.arg.toNat p.plen.toNat then 0 else 1)
  else if p.typ = htGetreq ∧ p.last then
    let v := leVal p.payload
    if p.plen ≠ 16 ∨ 2 ^ 21 ≤ v ∨ v % 16 ≠ 0 ∨ v < 16 ∨ 2 ^ 20 < v then 4
    else if s.hostAddrOk k.jslot p.arg.toNat v then 0
    else 1
  else 0

/-- A packet held in the window with what it waits for, before its effect. -/
def State.holdPkt (s : State) (c : Fin 1024) (p : HtPkt) (w : HtWait) : State :=
  s.modConn c (fun k => { k with seen := k.seen ++ [{ pkt := p, wait := w, status := 0 }] })

/-- What a held packet waits for, changed. -/
def State.setWait (s : State) (c : Fin 1024) (p : HtPkt) (w : HtWait) : State :=
  s.modConn c (fun k => { k with seen := k.seen.map (fun (e : HtSeen) => if e.pkt.psn = p.psn then { e with wait := w } else e) })

/-- The tokens of the packets of one connection that the meld stores have taken: the packets are complete (R419). -/
def State.tokensDone (s : State) (c : Fin 1024) : State :=
  (s.conn c).seen.foldl (fun (s : State) (e : HtSeen) =>
    match e.wait with
    | .tokens l => if l.any (fun t => s.mesh.contains t) then s else s.finishRx c e.pkt 0 false
    | _ => s) s

/-- The bytes of the receive buffer that the packets of a suit hold whose effect is not complete. -/
def State.rxFill (s : State) (u : Suit) : Nat :=
  s.host.conns.foldl (fun (n : Nat) (x : Fin 1024 × Conn) =>
    x.2.seen.foldl (fun n (e : HtSeen) => if e.pkt.suit = u ∧ e.isDone = false then n + 32 + e.pkt.payload.length else n) n) 0

/-- The pauses that the port sends: one from above 75 % of a suit's share to below 50 % of it (R413), while PFC is enabled for it. -/
def State.pfcTurn (s : State) : State :=
  let hot := s.host.rxHot
  let now := (List.finRange 4).filter fun u =>
    let n := s.rxFill u
    Word.bit (s.hostReg .priomap) (12 + u.val) &&
      (if hot.contains u then !decide (2 * n < Config.hostShare u.val) else decide (0 < n) && decide (3 * Config.hostShare u.val < 4 * n))
  let prios := fun (l : List Suit) => (l.map (fun u => Fin.ofNat 8 (s.prioOf u))).eraseDups
  let up := (prios now).filter (fun p => !(prios hot).contains p)
  let down := (prios hot).filter (fun p => !(prios now).contains p)
  let frames := up.map (.pfc · true) ++ down.map (.pfc · false)
  if s.hostUp then
    (s.modHost (fun h => { h with rxHot := now, out := h.out ++ frames })).modReg (.host .htpfc) (fun w => Word.addBits w 0 32 up.length)
  else s

/-- The token packets of every connection that are complete by now, acknowledged (R419: within 2 µs), and the pauses that are due. -/
def State.dueAcks (s : State) : State :=
  (s.host.conns.foldl (fun (s : State) (x : Fin 1024 × Conn) =>
    if x.2.seen.any (fun (e : HtSeen) => match e.wait with | .tokens _ => true | _ => false) then s.tokensDone x.1 else s) s).pfcTurn

/-- The effect of an accepted TOKEN packet (R421): JSLOT and EPOCH are the job's (R71); a token for another device, or of suit
0 without the right, is dropped, counted and raised; the others go to the mesh. -/
def State.hostTokens (s : State) (c : Fin 1024) (p : HtPkt) (gap : Bool) : State :=
  let k := s.conn c
  let l := ((tokensOf 512 p.payload).getD []).map (fun (t : Token) => { t with jslot := k.jslot, epoch := (s.job k.jslot).epoch })
  let good := l.filter (fun (t : Token) => t.ddev == s.devId && (t.suit != 0 || k.sp))
  let s := s.setWait c p (.tokens good)
  let s := l.foldl (fun (s : State) (t : Token) =>
    let i : FaultInfo := { unit := .host, addr := t.slot.toNat, extra := t.op.toNat }
    if t.ddev ≠ s.devId then (s.htDrop 2).raise k.jslot .tokenMisroute i
    else if t.suit = 0 ∧ k.sp = false then (s.htDrop 2).raise k.jslot .tokenForm i
    else s.meshIn t) s
  if good.any (fun t => s.mesh.contains t) ∨ (s.conn c).st ≠ .opened then s else s.finishRx c p 0 gap

/-- The effect of an accepted GETREQ (R348, R417): the read, and its GETRSP packets. One that meets poison raises the job fault
and is never acknowledged. -/
def State.hostGet (s : State) (c : Fin 1024) (p : HtPkt) (gap : Bool) : State :=
  let k := s.conn c
  let n := leVal p.payload
  let pa := p.arg.toNat % 2 ^ 48
  if p.last = false then s.finishRx c p 0 gap
  else
    match s.readAt pa n with
    | (none, s) => (s.setWait c p .never).raise k.jslot (if pa < s.dramTop then .dramUe else .sramUe) { unit := .host, addr := pa }
    | (some d, s) =>
      let s := s.setWait c p (.get ((k.txPsn + ceilDiv n (s.htCut c) - 1) % 2 ^ 32))
      s.htMessage c htGetrsp p.suit d (fun off => p.arg.toNat + off)

/-- The ACK of STATUS 2 that a packet for a free connection is answered with (R418). -/
def State.ackNone (s : State) (i : HtIn) : State := (s.htDrop 1).sendAck i.peer (ackPacket i.pkt.conn 0 i.pkt 0 2 [])

/-- A connection's CE marks counted (R418). -/
def State.marked (s : State) (c : Fin 1024) (ce : Bool) : State := if ce then s.modConn c (fun k => { k with ce := k.ce + 1 }) else s

/-- A packet that reaches the port (R411, R412, R414, R416 to R418, R424): `act` is what an open connection does with it. -/
def State.htEnter (s : State) (i : HtIn) (act : Fin 1024 → State → State) : State :=
  let p := i.pkt
  if s.hostUp = false then s
  else if s.frameOk i.sec = false then s.bumpHi (.host .htfcs)
  else if s.datagramOk i = false ∨ p.ver ≠ 1 then s.htDrop 2
  else
    let s := if i.ce then s.modReg (.host .htce) (· + 1) else s
    if 1024 ≤ p.conn.toNat then s.ackNone i
    else
      let c : Fin 1024 := Fin.ofNat 1024 p.conn.toNat
      match (s.conn c).st with
      | .free => s.ackNone i
      | .held => ((s.marked c i.ce).htDrop 1).ackConn c p 5
      | .failed => ((s.marked c i.ce).htDrop 1).ackConn c p 2
      | .opened =>
        let s := s.marked c i.ce
        act c (if c = 0 then s.modConn c (fun k => { k with peer := i.peer }) else s)

/-- A packet of a window (R417, R419): `act` is what its type does once it is accepted, given whether it shows a gap. -/
def State.htReceive (s : State) (i : HtIn) (act : Fin 1024 → Bool → State → State) : State :=
  let p := i.pkt
  s.htEnter i fun c s =>
    let k := s.conn c
    let off := psnDist k.rxNext p.psn.toNat
    match k.seenAt p.psn.toNat with
    | some e => if e.isDone then (s.htDrop 0).ackConn c p e.status else s.htDrop 0
    | none =>
      if 2 ^ 31 ≤ off then (s.htDrop 0).ackConn c p (k.statusOf p.psn.toNat)
      else if htWindow ≤ off then s.htDrop 0
      else
        let gap := (List.range off).any (fun d => (k.seenAt ((k.rxNext + d) % 2 ^ 32)).isNone)
        let status := s.htStatus k p
        let s := (s.holdPkt c p (if p.typ = htMgmt ∧ status = 0 then .mgmt else .never)).modReg (.host .htrx) (· + 1)
        let s := (if status ≠ 0 then s.refuse c p status else act c gap s).tryMessages c
        let waits := ((s.conn c).seenAt p.psn.toNat).any (fun (e : HtSeen) => !e.isDone)
        (if gap ∧ waits ∧ (s.conn c).st = .opened then s.ackGap c p else s).pfcTurn

def execGxhtToken (i : HtIn) (s : State) : Out :=
  .next (if i.pkt.typ = htToken then s.htReceive i (fun c gap s => s.hostTokens c i.pkt gap) else s)

/-- GXHT_PUT: the write is performed at the stack cache or the tile's SRAM, then acknowledged (R419, R422). -/
def execGxhtPut (i : HtIn) (s : State) : Out :=
  .next (
    if i.pkt.typ = htPut then
      s.htReceive i (fun c gap s => (s.writeAt (i.pkt.arg.toNat % 2 ^ 48) i.pkt.payload).finishRx c i.pkt 0 gap)
    else s)

/-- GXHT_GETREQ. `room`: a response buffer is free; without one the packet is discarded as if lost (R413). -/
def execGxhtGetreq (i : HtIn) (room : Bool) (s : State) : Out :=
  .next (
    if i.pkt.typ ≠ htGetreq then s
    else if room = false then (if s.hostUp then s.htDrop 3 else s)
    else s.htReceive i (fun c gap s => s.hostGet c i.pkt gap))

/-- GXHT_GETRSP: a GETRSP sent to the device, or a packet of a reserved type: refused as malformed (R417). -/
def execGxhtGetrsp (i : HtIn) (s : State) : Out :=
  .next (if i.pkt.typ = htGetrsp ∨ i.pkt.typ = 0 ∨ htAck.toNat < i.pkt.typ.toNat then s.htReceive i (fun _ _ s => s) else s)

def execGxhtMgmt (i : HtIn) (s : State) : Out :=
  .next (if i.pkt.typ = htMgmt then s.htReceive i (fun _ _ s => s) else s)

/-! ### Acknowledgements received, resending and pacing (R418, R420, R423, R425) -/

/-- The SACK ranges of an ACK payload. -/
def ackRanges (b : List Byte) : List (Nat × Nat) :=
  (List.range (min 4 (leAt b 14 1))).map (fun i => (leAt b (16 + 8 * i) 4, leAt b (20 + 8 * i) 4))

/-- Whether a PSN lies in a range. -/
def inRange (psn : Nat) (r : Nat × Nat) : Bool := decide (psnDist r.1 psn ≤ psnDist r.1 r.2)

/-- How many PSNs past one the ranges cover. -/
def laterIn (cum psn : Nat) (rs : List (Nat × Nat)) : Nat :=
  rs.foldl (fun a r => a + (psnDist cum r.2 + 1 - max (psnDist cum r.1) (psnDist cum psn + 1))) 0

/-- A packet resent, as soon as the port is up and its suit not paused (R413, R420). -/
def State.resend (s : State) (c : Fin 1024) (p : HtPkt) : State :=
  (s.modConn c fun k =>
    { k with unacked := k.unacked.map (fun (x : HtSent) => if x.pkt.psn = p.psn then { x with sent := false, resent := some s.now } else x) }).pumpConn c

/-- Whether a packet has left at least once. -/
def HtSent.left (x : HtSent) : Bool := x.sent || x.resent.isSome

/-- The GETREQs whose last GETRSP has been acknowledged are complete (R419). -/
def State.getsDone (s : State) (c : Fin 1024) : State :=
  (s.conn c).seen.foldl (fun (s : State) (e : HtSeen) =>
    match e.wait with
    | .get psn => if (s.conn c).unacked.any (fun (x : HtSent) => x.pkt.psn.toNat == psn) then s else s.finishRx c e.pkt 0 false
    | _ => s) s

/-- An ACK of an open connection: the packets it covers leave the sender; progress sets the RTO back; a PSN missing with three later
ones covered is resent, at most once a round trip (R418, R420). A malformed one is refused (R417). -/
def State.takeAck (s : State) (c : Fin 1024) (p : HtPkt) : State :=
    if p.rsv ∨ p.plen ≠ 48 ∨ p.payload.length ≠ 48 ∨ p.arg ≠ 0 then (s.htDrop 2).ackConn c p 4
    else
      let s := s.modReg (.host .htrx) (· + 1)
      let cum := p.psn.toNat
      let rs := ackRanges p.payload
      let gone := fun (x : HtSent) => x.left && (psnBefore x.pkt.psn.toNat cum || rs.any (inRange x.pkt.psn.toNat))
      let k := s.conn c
      let moved := k.unacked.any gone
      let rtt := s.now - leAt p.payload 0 8
      let s := s.modConn c fun k =>
        let k := { k with unacked := k.unacked.filter (fun (x : HtSent) => !gone x), rtt := some rtt, ceRtt := k.ceRtt + leAt p.payload 12 2 }
        if moved then { k with timeouts := 0, rto := Word.bits (s.hostReg .htcfg) 48 8 } else k
      let lost := (s.conn c).unacked.filter fun (x : HtSent) =>
        x.sent && decide (3 ≤ laterIn cum x.pkt.psn.toNat rs) && !psnBefore x.pkt.psn.toNat cum
          && (match x.resent with | some t => decide (t + rtt ≤ s.now) | none => true)
      let s := lost.foldl (fun (s : State) (x : HtSent) => s.resend c x.pkt) s
      (s.getsDone c).pumpConn c

def execGxhtAck (i : HtIn) (s : State) : Out :=
  .next (if i.pkt.typ = htAck then s.htEnter i (fun c s => s.takeAck c i.pkt) else s)

/-- A connection that has failed: counted, and HOST_LOST for a job connection with the heartbeat right (R420, R425). -/
def State.failConn (s : State) (c : Fin 1024) : State :=
  let k := s.conn c
  let s := (s.modConn c (fun k => { k with st := .failed, unacked := [], seen := [] })).bumpHi (.host .htto)
  if k.jb ∧ k.hb then s.raise k.jslot .hostLost { unit := .host } else s

/-- RETRANSMIT_TIMEOUT: a connection with unacknowledged packets and no progress for RTO (R420). -/
def execRetransmitTimeout (c : Fin 1024) (s : State) : Out :=
  .next (
    let k := s.conn c
    match k.unacked.find? (fun (x : HtSent) => x.left) with
    | none => s
    | some x =>
      if k.st ≠ .opened then s
      else
        let s := s.bumpLo (.host .htto)
        if Word.bits (s.hostReg .htcfg) 56 4 ≤ k.timeouts + 1 then s.failConn c
        else (s.modConn c (fun k => { k with timeouts := k.timeouts + 1, rto := min 100000 (2 * k.rto) })).resend c x.pkt)

/-- CONGESTION_UPDATE: the rate of a connection after a round trip, in units of 2⁻²⁰ of the line (R423). -/
def execCongestionUpdate (c : Fin 1024) (s : State) : Out :=
  .next (
    let k := s.conn c
    match k.rtt with
    | none => s
    | some rtt =>
      if k.st ≠ .opened then s
      else
        let w := s.hostReg .cccfg
        let tdelay := Word.bits w 0 20
        let beta := Word.bits w 27 8
        let r :=
          if 0 < k.ceRtt then k.rate - k.rate * beta / 256
          else if tdelay < rtt then k.rate - k.rate * beta * (rtt - tdelay) / (256 * rtt)
          else k.rate + Word.bits w 35 8 * 1024
        s.modConn c (fun k => { k with rate := max 1024 (min (2 ^ 20) r), ceRtt := 0 }))

/-- HEARTBEAT_TIMEOUT: a job connection with HB has received no valid packet for HBTO (R425). -/
def execHeartbeatTimeout (c : Fin 1024) (s : State) : Out :=
  .next (
    let k := s.conn c
    if (k.st = .opened ∨ k.st = .failed) ∧ k.jb ∧ k.hb then s.raise k.jslot .hostLost { unit := .host } else s)

/-! ### Frames (R411 to R415, R429) -/

/-- PFC_PAUSE: a received pause stops the suits mapped to the priority; one of no time ends it (R413). -/
def execPfcPause (prio : Fin 8) (quanta : BitVec 16) (s : State) : Out :=
  .next (
    if s.hostUp then
      let s := s.bumpHi (.host .htpfc)
      if quanta = 0 then (s.modHost (fun h => { h with paused := h.paused.filter (· != prio) })).pumpHost
      else s.modHost (fun h => { h with paused := prio :: h.paused.filter (· != prio) })
    else s)

/-- PFC_PAUSE_EXPIRY: the time of a pause ends (R413). -/
def execPfcPauseExpiry (prio : Fin 8) (s : State) : Out :=
  .next (s.modHost (fun h => { h with paused := h.paused.filter (· != prio) })).pumpHost

/-- HPSTAT.MSEC: an association is live (R429). -/
def State.msecStat (s : State) : State :=
  s.modReg (.host .hpstat) (fun w => Word.setBit w 19 (!s.host.macTx.isEmpty || !s.host.macRx.isEmpty))

/-- A list of associations with one installed: two live ones to a channel, and `chans` channels (R414); a third in a channel,
or a channel too many, is not installed. -/
def saInstall (chans : Nat) (l : List Sa) (a : Sa) : List Sa :=
  let others := (l.map (·.sci)).eraseDups.filter (· != a.sci)
  if l.any (fun x => x.sci == a.sci && x.an == a.an) ∨ 2 ≤ (l.filter (fun x => x.sci == a.sci)).length ∨ chans ≤ others.length then l
  else l ++ [a]

/-- A list of associations without one. -/
def saRetire (l : List Sa) (sci : Word) (an : Fin 4) : List Sa := l.filter (fun x => !(x.sci == sci && x.an == an))

/-- EAPOL: a key-agreement frame; what the steward's own code makes of it comes with the command (R414). -/
def execEapol (op : MacsecOp) (s : State) : Out :=
  .next (
    if s.hostUp then
      match op with
      | .none => s
      | .install true sci an key => (s.modHost (fun h => { h with macRx := saInstall 16 h.macRx { sci, an, key } })).msecStat
      | .install false sci an key => (s.modHost (fun h => { h with macTx := saInstall 1 h.macTx { sci, an, key } })).msecStat
      | .retire true sci an => (s.modHost (fun h => { h with macRx := saRetire h.macRx sci an })).msecStat
      | .retire false sci an => (s.modHost (fun h => { h with macTx := saRetire h.macTx sci an })).msecStat
    else s)

/-- An exchange of IEEE 1588: with t1 and t2 known, the delay request goes at t3 (R415). -/
def State.delayReq (s : State) : State :=
  if s.host.ptp1.isSome ∧ s.host.ptp2.isSome then s.sendDelayReq else s.modHost (fun h => { h with ptp3 := none, ptpWait := false })

/-- PTP_MESSAGE: a message of the master in a frame that MACsec lets in (R414), timestamped on arrival; the delay response closes
an exchange and gives the offset of the master (R415, R494). -/
def execPtpMessage (m : PtpIn) (s : State) : Out :=
  .next (
    if s.hostUp = false then s
    else if s.frameOk m.sec = false then s.bumpHi (.host .htfcs)
    else
      let s := ({ s with power := { s.power with ptpOk := true } } : State).updateSrc
      match m.msg with
      | .announce => s
      | .sync (some t1) => (s.modHost (fun h => { h with ptp1 := some t1.toNat, ptp2 := some s.now })).delayReq
      | .sync none => s.modHost (fun h => { h with ptp1 := none, ptp2 := some s.now, ptp3 := none, ptpWait := false })
      | .followUp t1 => (s.modHost (fun h => { h with ptp1 := some t1.toNat })).delayReq
      | .delayResp t4 =>
        match s.host.ptp1, s.host.ptp2, s.host.ptp3 with
        | some t1, some t2, some t3 =>
          (s.modHost (fun h => { h with ptp1 := none, ptp2 := none, ptp3 := none })).measured 2
            ((((t1 : Int) - t2) + ((t4.toNat : Int) - t3)) / 2)
        | _, _, _ => s)

/-- ETHERNET_FRAME_DROP: a received frame that the port drops: counted, and no job fault (R410, R411, R414). A global PAUSE is
ignored. -/
def execEthernetFrameDrop (d : FrameDrop) (s : State) : Out :=
  .next (
    if s.hostUp then
      match d with
      | .fcs => s.bumpLo (.host .htfcs)
      | .macsec => s.bumpHi (.host .htfcs)
      | .macAddr => s.htDrop 2
      | .format => s.htDrop 2
      | .pause => s
    else s)

/-- HOST_LINK_LOSS: the link drops in service, trains again, and is up with all eight lanes, or in fault (R410, R429). A port left
out at B11 does not train (R411, R463). `negotiated`: what Clause 73 negotiation comes to on CR8 or KR8, which HPCFG.AN has first;
none on an interface without it. -/
def execHostLinkLoss (e : HostLink) (s : State) : Out :=
  .next (
    let st := Word.bits (s.hostReg .hpstat) 0 2
    match e with
    | .lost => if st = 2 then s.modReg (.host .hpstat) (fun w => Word.setBits (Word.setBits w 0 2 0) 3 8 0) else s
    | .training neg =>
      if (st = 0 ∨ st = 3) ∧ Word.bit (s.hostReg .hpcfg) 0 ∧ s.boot.powered ∧ s.excl.contains .host = false
          ∧ ¬(Word.bit (s.hostReg .hpcfg) 3 ∧ neg = some false) then
        s.modReg (.host .hpstat) (fun w => Word.setBits w 0 2 1) else s
    | .trained ok inv =>
      if st = 1 then
        let s := s.modReg (.host .hpstat) fun w =>
          Word.setBits (Word.setBits (Word.setBits (Word.setBits w 0 2 (if ok = 0xFF then 2 else 3)) 2 1 (Word.bits (s.hostReg .hpcfg) 1 2)) 3 8 ok.toNat) 11 8 inv.toNat
        s.pumpHost
      else s)

/-! ### Connection endpoints (R424, R427) -/

/-- Whether a job slot may have connections: it is ADMITTED or RUNNING (R427). -/
def State.slotOpen (s : State) (j : JSlot) : Bool := (s.job j).st == .admitted || (s.job j).st == .running

/-- The peer that a CONN_OPEN body names (R427). -/
def connPeer (b : List Byte) : HtPeer :=
  { v6 := (leAt b 2 1).testBit 6, mac := BitVec.ofNat 48 (leAt b 8 6), port := BitVec.ofNat 16 (leAt b 6 2), ip := BitVec.ofNat 128 (leAt b 16 16) }

/-- CONN_OPEN: a connection opened or, with RESUME, a held one resumed (R424, R427). -/
def execConnOpen (i : Nat) (s : State) : Out :=
  .next (s.serve i 2 (fun _ => true) fun r s =>
    let b := r.body
    let n := leAt b 0 2
    let fl := leAt b 2 1
    let jb := fl.testBit 0
    let j : JSlot := Fin.ofNat 4 (bitsOf fl 1 2)
    let open_ := fun (s : State) (c : Fin 1024) (k : Conn) =>
      let s := s.modConn c (fun _ => s.freshConn { k with peerConn := BitVec.ofNat 16 (leAt b 4 2), peer := connPeer b })
      s.answer r 0 (leBytes 2 c.val ++ leBytes 1 (if k.jb then (s.job k.jslot).epoch.toNat else 0) ++ [0])
    if r.lenOk 32 = false ∨ leAt b 3 1 ≠ 0 ∨ leAt b 14 2 ≠ 0 ∨ n = 0 ∨ (1024 ≤ n ∧ n < 0xFFFF) then s.answer r stBadBody
    else if fl.testBit 7 then
      let c : Fin 1024 := Fin.ofNat 1024 n
      let k := s.conn c
      if n = 0xFFFF ∨ k.st ≠ .held ∨ k.jb ≠ jb ∨ k.jslot ≠ j ∨ (jb ∧ s.slotOpen j = false) then s.answer r stWrongState
      else open_ s c k
    else
      let pick := if n = 0xFFFF then firstBelow 1023 (fun x => (s.conn (Fin.ofNat 1024 (x + 1))).st == .free) |>.map (· + 1) else some n
      match pick with
      | none => s.answer r 33
      | some n =>
        let c : Fin 1024 := Fin.ofNat 1024 n
        if (s.conn c).st ≠ .free then s.answer r 32
        else if jb ∧ s.slotOpen j = false then s.answer r stWrongState
        else open_ s c { Conn.reset with jb := jb, jslot := j, mg := fl.testBit 3, sp := fl.testBit 4, hb := fl.testBit 5 })

/-- CONN_CLOSE: the record freed, its packets discarded (R427, R432). The answer goes on the connection that asked, if that is
still open. -/
def execConnClose (i : Nat) (s : State) : Out :=
  .next (s.serve i 3 (fun _ => true) fun r s =>
    let n := leAt r.body 0 2
    if r.lenOk 8 = false ∨ leAt r.body 2 6 ≠ 0 ∨ 1024 ≤ n then s.answer r stBadBody
    else if n = 0 then s.answer r stWrongState
    else (s.modConn (Fin.ofNat 1024 n) (fun _ => Conn.reset)).answer r 0)

/-- The connections of a job closed (R475). -/
def State.closeConns (s : State) (j : JSlot) : State :=
  s.modHost (fun h => { h with conns := h.conns.filter (fun (x : Fin 1024 × Conn) => !(x.2.jb && x.2.jslot == j)) })

/-- The word of a connection record (R430). -/
def Conn.word (k : Conn) (w : Fin 4) : Word :=
  let st := match k.st with | .free => 0 | .opened => 1 | .held => 2 | .failed => 3
  let n := if k.st = .free then 0
    else match w with
    | 0 => st + k.jb.toNat * 2 ^ 2 + k.jslot.val * 2 ^ 3 + k.mg.toNat * 2 ^ 5 + k.sp.toNat * 2 ^ 6 + k.hb.toNat * 2 ^ 7
            + k.peer.v6.toNat * 2 ^ 8 + k.peerConn.toNat * 2 ^ 16
    | 1 => k.peer.mac.toNat + k.peer.port.toNat * 2 ^ 48
    | 2 => k.peer.ip.toNat % 2 ^ 64
    | 3 => k.peer.ip.toNat / 2 ^ 64
  BitVec.ofNat 64 n

end Sys2Proof.Machine
end

