-- ==== Sys2Proof/Machine/MemSys.lean ====
section
/-! DEFINITION. The memory system's own work (R347 to R362): errors found, poison and retired pages, the scrub, and the range
engines. -/

namespace Sys2Proof.Machine

/-! ### The scrub (R349) -/

/-- The physical address of a block of a stack: the interleave of R345 undone. -/
def State.unplace (s : State) (k : StackId) (q blk : Nat) : Nat :=
  let w := s.stacks
  let m := w.length
  let h := (q % 2 ^ 32) * 0x9E3779B1 % 2 ^ 32
  let r := (w.idxOf k + m - (h / 65536) % m) % m
  (q * m + r) * 4096 + 64 * blk

/-- The jobs whose grant holds the frame of an address (R38, R348). -/
def State.grantees (s : State) (pa : Nat) : List JSlot :=
  (List.finRange 4).filter (fun j => (List.finRange 4).any (fun d => (s.job j).dies.testBit d.val && s.granted d j pa))

/-- SCRUB: a stack controller reads its next block; DRAM in self-refresh is not scrubbed. The block of a dirty line is
skipped: an uncorrectable error there is counted only. A block elsewhere that is or was found uncorrectable is poisoned and
raises DRAM_UE for a job that holds the frame. At the end of a pass the scrub begins again (R348 to R350). -/
def execScrub (k : StackId) (e : Ecc) (s : State) : Out :=
  .next (
    if s.power.selfRefresh ∨ s.computeOn = false ∨ s.stackExcl k then s
    else
      let q := Word.bits (s.stackReg k .scrubpos) 0 25
      let blk := Tab.get 0 s.scrubBlk k
      let pa := s.unplace k q blk
      let dirty := match Tab.find? s.scLines (lineOf pa) with
        | some l => l.dirty
        | none => false
      let s :=
        if dirty then (if e = .uncorrectable then s.bumpHi (.stack k .ecccnt) else s)
        else
          let s := (s.meet [pa / 64] 1).dramError pa e 1
          if s.poison.contains (pa / 64) then
            (s.grantees pa).foldl (fun s j => s.raise j .dramUe { unit := .stack k, addr := pa }) s
          else s
      let s := { s with scrubBlk := Tab.set s.scrubBlk k ((blk + 1) % 64) }
      if blk + 1 < 64 then s
      else if q + 1 < 2 ^ 25 then s.modReg (.stack k .scrubpos) (fun w => Word.setBits w 0 25 (q + 1))
      else
        let s := { s with corrected := s.corrected.map (fun (c : Nat × Bool) => if (s.place (c.1 * 64)).stack = k then (c.1, false) else c) }
        s.modReg (.stack k .scrubpos) (fun w => Word.setBits w 0 25 0))

/-! ### Range engines (R358 to R362) -/

/-- The ways of a stack that a lock-fill for a job slot may name (R356). -/
def State.waysOf (s : State) (k : StackId) (j : JSlot) : Nat :=
  let w := s.stackReg k .lockcfg
  (List.range 16).foldl (fun a i => if Word.bit w i ∧ Word.bits w (16 + 2 * i) 2 = j.val then a + 2 ^ i else a) 0

/-- A GO written to a stack's RNGCMD (R358, R359, R361): ignored while a command is under way, rejected where WAYS names a way
that R356 does not permit. -/
def State.rangeGo (s : State) (k : StackId) : State :=
  let c := s.stackReg k .rngcmd
  let r : RangeCmd := { op := Fin.ofNat 4 (Word.bits c 0 2), base := (s.stackReg k .rngbase).toNat,
                        len := (s.stackReg k .rnglen).toNat, force := Word.bit c 2, ways := Word.bits c 3 16,
                        slot := Fin.ofNat 4 (Word.bits c 19 2) }
  let rej := fun (s : State) => s.modReg (.stack k .rngstat) (fun w => Word.setBit w 1 true)
  if (Tab.find? s.ranges k).isSome then rej s
  else if r.op = 3 ∧ r.ways ≠ r.ways &&& s.waysOf k r.slot then rej s
  else
    let s := { s with ranges := Tab.set s.ranges k r }
    s.modReg (.stack k .rngstat) (fun w => Word.setBits (Word.setBit w 0 true) 32 32 0)

/-- A write of one of the range registers of a stack by the monitor or the steward (R362, R373). -/
def State.rangeWrite (s : State) (k : StackId) (r : StackReg) (w : Word) (mask : Nat := 2 ^ 64 - 1) : State :=
  let s := s.writeReg (.stack k r) w mask
  if r = .rngcmd ∧ Word.bit w 63 ∧ mask.testBit 63 then s.rangeGo k else s

/-- The stacks that a write of range registers reaches (R362). -/
def State.rangeStacks (s : State) : RangeAt → List StackId
  | .stack k => if s.stackExcl k then [] else [k]
  | .all => s.stacks

/-- A range command started: RNGBASE, RNGLEN and RNGCMD with GO written. -/
def State.rangeStart (s : State) (at_ : RangeAt) (op : Nat) (base len : Word) (force : Bool) (ways : BitVec 16) (slot : JSlot) : State :=
  let cmd : Word := BitVec.ofNat 64 (op + force.toNat * 2 ^ 2 + ways.toNat * 2 ^ 3 + slot.val * 2 ^ 19 + 2 ^ 63)
  if s.computeOn then
    (s.rangeStacks at_).foldl (fun s k => ((s.rangeWrite k .rngbase base).rangeWrite k .rnglen len).rangeWrite k .rngcmd cmd) s
  else s

def execClean (at_ : RangeAt) (base len : Word) (s : State) : Out := .next (s.rangeStart at_ 0 base len false 0 0)
def execInval (at_ : RangeAt) (base len : Word) (force : Bool) (s : State) : Out := .next (s.rangeStart at_ 1 base len force 0 0)
def execClinv (at_ : RangeAt) (base len : Word) (force : Bool) (s : State) : Out := .next (s.rangeStart at_ 2 base len force 0 0)
def execLockfill (at_ : RangeAt) (base len : Word) (ways : BitVec 16) (slot : JSlot) (s : State) : Out :=
  .next (s.rangeStart at_ 3 base len false ways slot)

/-- A dirty line written back: its blocks are read (R347), the write-back is counted, and DRAM holds its bytes and its poison
(R348, R352, R375). `src`: 2 a write-back, 3 the range engine's (R372). -/
def State.cleanLine (s : State) (k : StackId) (line : Nat) (l : ScLine) (src : Nat := 2) : State :=
  if l.dirty then
    let s := s.meet (lineBlocks line) src
    { s with scLines := Tab.set s.scLines line { l with dirty := false, back := [], backUe := [] } }.modReg (.stack k .scwb) (· + 1)
  else s

/-- A line dropped with its dirty data: memory holds again what DRAM holds, poisoned where DRAM is (R348), counted in RNGDISC
(R358). -/
def State.discardLine (s : State) (k : StackId) (line : Nat) (l : ScLine) : State :=
  let s := { s with scLines := Tab.erase s.scLines line }
  if l.dirty then
    { s with mem := Mem.setBytes s.mem (line * 128) l.back,
             poison := l.backUe ++ s.poison.filter (fun b => !(lineBlocks line).contains b) }.modReg (.stack k .rngdisc) (· + 1)
  else s

/-- A line of a stack whose eviction finishes (R357). -/
def State.finishEviction (s : State) (p : DramPlace) (line : Nat) : State :=
  { s with victims := Tab.set s.victims (p.stack, p.slice) ((s.victimsOf p).filter (fun v => v.line != line)) }

/-- A line counted in SKIP (R358). -/
def State.skipLine (s : State) (k : StackId) : State := s.modReg (.stack k .rngstat) (fun w => Word.addBits w 32 32 1)

/-- An empty target way of a line's set, any of them (R361, log 22). -/
def State.emptyWay (s : State) (p : DramPlace) (ways : Nat) : Option Nat × State :=
  let ls := s.setLines p
  s.pick ((List.range 16).filter (fun w => ways.testBit w && !ls.any (fun l => l.2.way == w)))

/-- One line handled by a range command at its stack (R358, R360, R361). A lock-fill fills the ways that R356 permits as it
reaches the line (R375). A command of another operation that finds its line in the victim buffer lets the eviction finish,
counted as a request served there (R357; which half of SCVB counts it is the model's choice, log 84). -/
def State.rangeLine (s : State) (k : StackId) (r : RangeCmd) (line : Nat) : State :=
  let p := s.place (line * 128)
  let hit := Tab.find? s.scLines line
  let ways := r.ways &&& s.waysOf k r.slot
  let held := (s.victimsOf p).any (fun v => v.line == line)
  match r.op, hit with
  | 0, some l => s.cleanLine k line l 3
  | 1, some l => if s.wayLocked k l.way ∧ r.force = false then s.skipLine k else s.discardLine k line l
  | 2, some l =>
    if s.wayLocked k l.way ∧ r.force = false then s.skipLine k
    else
      let s := s.cleanLine k line l 3
      { s with scLines := Tab.erase s.scLines line }
  | 3, some l =>
    if s.wayLocked k l.way then s
    else
      match s.emptyWay p ways with
      | (some w, s) => { s with scLines := Tab.set s.scLines line { l with way := w } }
      | (none, s) => s.skipLine k
  | 3, none =>
    match s.emptyWay p ways with
    | (some w, s) =>
      let s := if held then (s.finishEviction p line).bumpHi (.stack k .scvb) else s.meet (lineBlocks line) 3
      { s with scLines := Tab.set s.scLines line { ScLine.clean with way := w } }
    | (none, s) => s.skipLine k
  | _, none => if held then (s.finishEviction p line).bumpLo (.stack k .scvb) else s
  | _, some _ => s

/-- The lines of a range that lie in DRAM on a stack. -/
def State.rangeLines (s : State) (k : StackId) (r : RangeCmd) : List Nat :=
  if s.dramTop ≤ r.base then []
  else
    let n := (min r.len (s.dramTop - r.base)) / 128
    ((List.range n).map (fun i => r.base / 128 + i)).filter (fun l => (s.place (l * 128)).stack == k)

/-- The command of a stack's range engine carried through: every line handled and BUSY cleared (R358; the lines in one step is
a DESIGN CHOICE, log 49). -/
def State.rangeFinish (s : State) (k : StackId) : State :=
  match Tab.find? s.ranges k with
  | none => s
  | some r =>
    let s := (s.rangeLines k r).foldl (fun s l => s.rangeLine k r l) s
    { s with ranges := Tab.erase s.ranges k }.modReg (.stack k .rngstat) (fun w => Word.setBit w 0 false)

/-- RANGE_COMPLETE: the range engine of a stack has handled every line of its command, with every write-back performed, and
clears BUSY. -/
def execRangeComplete (k : StackId) (s : State) : Out := .next (s.rangeFinish k)

/-! ### Whole devices -/

/-- Every dirty line written back, and the cache and its victim buffers empty (R352, R461, R475). -/
def State.flushStacks (s : State) : State :=
  let s := s.scLines.foldl (fun (s : State) (p : Nat × ScLine) => s.cleanLine (s.place (p.1 * 128)).stack p.1 p.2) s
  { s with scLines := [], victims := [], plru := [], trackers := [] }

end Sys2Proof.Machine
end

