-- ==== Sys2Proof/Machine/Jobs.lean ====
section
/-! DEFINITION. Jobs (R434 to R450): the manifest, admission, start, stop and reset, and the low-power states that a start ends
(R474). -/

namespace Sys2Proof.Machine

/-! ### The manifest (R439) -/

/-- A SIGNALS entry: virtual ID, die, and bytes 8 to 23 of the cell's image. -/
structure SigEntry where
  vid : Fin 65536
  die : DieId
  cfg : Word
  parent : Word
  deriving DecidableEq, Repr

/-- A manifest read: its header fields and the entries of its sections; a child is a parent's virtual ID, a device and a
virtual ID; SPILL and LEND entries are a device and its FRAMES. -/
structure Manifest where
  dies : Nat
  spades : Bool
  preen : Bool
  irqen : Bool
  dramGib : Nat
  slotk : Nat
  potsize : Nat
  savei : Nat
  savev : Nat
  kssize : Nat
  kittysize : Nat
  reqcap : Nat
  cutcfg : Word
  sigtimeo : Word
  lockways : Nat
  sigs : List SigEntry
  kids : List (Nat × Nat × Nat)
  spill : List (Nat × Nat)
  lend : List (Nat × Nat)
  tables : List Word
  deriving DecidableEq, Repr

/-- The sections of a manifest: the header word and the bytes of each, and what follows them; none if they are cut short. -/
def manifestSections : Nat → List Byte → Option (List (Nat × List Byte) × List Byte)
  | 0, b => some ([], b)
  | n + 1, b =>
    if b.length < 8 then none
    else
      let h := leAt b 0 8
      let len := bitsOf h 8 24
      if b.length < 8 + len then none
      else (manifestSections n (b.drop (8 + len))).map (fun r => ((h, slice b 8 len) :: r.1, r.2))

/-- The bytes of an entry by section type (R439). -/
def entrySize (ty : Nat) : Nat := match ty with | 1 => 24 | 2 => 16 | 3 => 16 | 4 => 8 | 5 => 8 | _ => 0

/-- A list of bytes cut into entries of `n` bytes. -/
def entriesOf (n : Nat) (b : List Byte) : List (List Byte) := (List.range (b.length / n)).map (fun i => slice b (n * i) n)

/-- The entries of one type in a manifest's sections. -/
def sectionEntries (ss : List (Nat × List Byte)) (ty : Nat) : List (List Byte) :=
  ((ss.filter (fun x => bitsOf x.1 0 8 == ty)).map (fun x => entriesOf (entrySize ty) x.2)).flatten

/-- Whether an entry has no reserved bit or encoding (R439, R305, R298, R364). -/
def entryOk (ty : Nat) (e : List Byte) : Bool :=
  match ty with
  | 1 =>
    let c := leAt e 8 8
    let p := leAt e 16 8
    leAt e 0 8 / 2 ^ 18 == 0 && bitsOf c 0 2 != 3 && bitsOf c 27 5 == 0 && p / 2 ^ 30 == 0 && (bitsOf c 0 2 != 2 || bitsOf c 5 20 != 0)
  | 2 => leAt e 0 8 / 2 ^ 16 == 0 && leAt e 8 8 / 2 ^ 30 == 0
  | 3 => bitsOf (leAt e 0 8) 14 2 == 0 && leAt e 0 8 / 2 ^ 33 == 0 && decide (bitsOf (leAt e 0 8) 16 17 ≤ 98304)
  | 4 => bitsOf (leAt e 0 8) 14 2 == 0 && leAt e 0 8 / 2 ^ 33 == 0 && decide (bitsOf (leAt e 0 8) 16 17 ≤ 98304)
  | 5 => bitsOf (leAt e 0 8) 0 6 == 0 && bitsOf (leAt e 0 8) 56 7 == 0
  | _ => false

/-- Whether a manifest's length is that which its header and sections give (R576); `gx`: over GXHT zeros may follow. -/
def manifestLenOk (gx : Bool) (b : List Byte) : Bool :=
  match (if b.length < 64 then none else manifestSections (bitsOf (leAt b 0x30 8) 0 16) (b.drop 64)) with
  | some (_, rest) => if gx then decide (rest.length < 16) && rest.all (· == 0) else rest.isEmpty
  | none => false

/-- A manifest without the zeros that may follow it. -/
def manifestTrim (b : List Byte) : List Byte :=
  match manifestSections (bitsOf (leAt b 0x30 8) 0 16) (b.drop 64) with
  | some (_, rest) => b.take (b.length - rest.length)
  | none => b

/-- A manifest of the right length, if it is well formed (R439, R440 check 1). -/
def manifestOf (b : List Byte) : Option Manifest :=
  match manifestSections (bitsOf (leAt b 0x30 8) 0 16) (b.drop 64) with
  | none => none
  | some (ss, _) =>
    let w0 := leAt b 0 8
    let w1 := leAt b 8 8
    let w2 := leAt b 0x10 8
    let cut := leAt b 0x18 8
    let tmo := leAt b 0x20 8
    let m : Manifest :=
      { dies := bitsOf w0 0 4, spades := w0.testBit 4, preen := w0.testBit 5, irqen := w0.testBit 6, dramGib := bitsOf w0 32 32,
        slotk := bitsOf w1 0 7, potsize := bitsOf w1 7 12, savei := bitsOf w1 19 6, savev := bitsOf w1 25 4, kssize := bitsOf w1 29 12,
        kittysize := bitsOf w2 0 32, reqcap := bitsOf w2 32 11, cutcfg := BitVec.ofNat 64 cut, sigtimeo := BitVec.ofNat 64 tmo,
        lockways := leAt b 0x28 2,
        sigs := (sectionEntries ss 1).map (fun e =>
          { vid := Fin.ofNat 65536 (leAt e 0 2), die := Fin.ofNat 4 (leAt e 2 1), cfg := BitVec.ofNat 64 (leAt e 8 8),
            parent := BitVec.ofNat 64 (leAt e 16 8) }),
        kids := (sectionEntries ss 2).map (fun e => (leAt e 0 2, bitsOf (leAt e 8 8) 0 14, bitsOf (leAt e 8 8) 14 16)),
        spill := (sectionEntries ss 3).map (fun e => (bitsOf (leAt e 0 8) 0 14, bitsOf (leAt e 0 8) 16 17)),
        lend := (sectionEntries ss 4).map (fun e => (bitsOf (leAt e 0 8) 0 14, bitsOf (leAt e 0 8) 16 17)),
        tables := (sectionEntries ss 5).map (fun e => BitVec.ofNat 64 (leAt e 0 8)) }
    let okS := ss.all fun x =>
      x.1 / 2 ^ 32 == 0 && entrySize (bitsOf x.1 0 8) != 0 && x.2.length % entrySize (bitsOf x.1 0 8) == 0
        && (entriesOf (entrySize (bitsOf x.1 0 8)) x.2).all (entryOk (bitsOf x.1 0 8))
    let okH := bitsOf w0 7 25 == 0 && w1 / 2 ^ 41 == 0 && w2 / 2 ^ 43 == 0 && leAt b 0x2A 6 == 0 && leAt b 0x32 6 == 0
      && leAt b 0x38 8 == 0
    let okR := decide (m.slotk ≤ 64 ∧ m.savei ≤ 32 ∧ m.savev ≤ 8 ∧ (m.kssize = 0 ∨ 16 ≤ m.kssize) ∧ m.kssize ≤ 3072)
      && decide (1 ≤ m.reqcap ∧ m.reqcap ≤ 1024) && (bitsOf cut 0 32 == 0 || decide (256 ≤ bitsOf cut 0 32))
      && (bitsOf cut 32 16 == 0 || decide (64 ≤ bitsOf cut 32 16)) && cut / 2 ^ 48 == 0 && bitsOf tmo 26 6 == 0 && tmo / 2 ^ 52 == 0
      && decide (1000 ≤ bitsOf tmo 0 26 ∧ bitsOf tmo 0 26 ≤ 60000000) && decide (10 ≤ bitsOf tmo 32 20 ∧ bitsOf tmo 32 20 ≤ 1000000)
    let okD := m.sigs.all (fun e => m.dies.testBit e.die.val) && decide (m.tables.length ≤ 1)
    if okS && okH && okR && okD then some m else none

/-! ### The checks of admission (R434, R440 to R442) -/

/-- The job slot of a partition, if it is one (R434). -/
def partSlot (dies : Nat) : Option JSlot :=
  match dies with
  | 1 => some 0 | 2 => some 1 | 4 => some 2 | 8 => some 3 | 15 => some 0
  | _ => none

/-- The other job slots that are in use. -/
def State.otherSlots (s : State) (j : JSlot) : List JSlot := (List.finRange 4).filter (fun k => k != j && (s.job k).st != .free)

/-- The tiles of a partition that are not excluded, by ordinal. -/
def State.partTiles (s : State) (dies : Nat) : List TileId := (tilesOf dies).filter (fun t => !s.tileExcl t)
def State.partQuads (s : State) (dies : Nat) : List QuadId := allQuads.filter (fun q => dies.testBit q.die.val && !s.quadExcl q)

/-- The offset of the save area and the scratchpad top of a manifest's carving (R367, R368). -/
def Manifest.save (m : Manifest) : Nat := roundUp (m.savei * 1024 + m.savev * 67584) 4096
def Manifest.carved (m : Manifest) : Nat := m.slotk * 0x20000 + m.potsize * 4096 + m.save + m.kssize * 4096
def Manifest.scrtop (m : Manifest) : Nat := 0xC00000 - m.carved

/-- The barriers of a manifest by virtual ID. -/
def Manifest.barrier? (m : Manifest) (vid : Nat) : Option SigEntry :=
  m.sigs.find? (fun e => e.vid.val == vid && Word.bits e.cfg 0 2 == 2)

/-- Whether the parents of a barrier within this device end, after at most `fuel` steps. -/
def Manifest.treeEnds (m : Manifest) (dev : Nat) : Nat → Nat → Bool
  | 0, _ => false
  | fuel + 1, vid =>
    match m.barrier? vid with
    | some e => if Word.bit e.cfg 25 ∧ Word.bits e.parent 0 14 = dev then m.treeEnds dev fuel (Word.bits e.parent 14 16) else true
    | none => true

/-- Whether the barrier trees of a manifest stand, as far as this device holds them (R321). -/
def State.treesOk (s : State) (m : Manifest) : Bool :=
  let dev := s.devId.toNat
  let bars := m.sigs.filter (fun e => Word.bits e.cfg 0 2 == 2)
  let chas := bars.filter (fun e => Word.bit e.cfg 26)
  m.kids.all (fun k => (m.barrier? k.1).isSome && (k.2.1 != dev || (match m.barrier? k.2.2 with
      | some e => Word.bit e.cfg 25 && Word.bits e.parent 0 14 == dev && Word.bits e.parent 14 16 == k.1
      | none => false)))
    && bars.all (fun e => !(Word.bit e.cfg 25 && Word.bit e.cfg 26)
      && decide ((m.kids.filter (fun k => k.1 == e.vid.val)).length ≤ 4095)
      && (!(Word.bit e.cfg 25) || Word.bits e.parent 0 14 != dev || m.kids.contains (Word.bits e.parent 14 16, dev, e.vid.val))
      && m.treeEnds dev (bars.length + 1) e.vid.val)
    && decide (chas.length ≤ 1)
    && (chas.isEmpty || (s.chasCell.isNone && Word.bit (s.dieReg 0 .sigstat) 0))

/-- The ways that other jobs own. -/
def State.otherWays (s : State) (j : JSlot) : Nat :=
  (s.otherSlots j).foldl (fun a k => a ||| leAt (s.job k).manifest 0x28 2) 0

/-- The granules that hold the windows a job lends: each is its base and its FRAMES + 1 frames (R442). -/
def lentGranules (m : List Byte) (p : AdmitPlan) : List Nat :=
  match manifestOf m with
  | some mf =>
    ((p.windows.zip mf.lend).map (fun (x : (Fin 16 × Nat) × (Nat × Nat)) =>
      let lo := x.1.2 / 2 ^ 30
      (List.range ((x.1.2 + (x.2.2 + 1) * 0x200000 - 1) / 2 ^ 30 + 1 - lo)).map (lo + ·))).flatten
  | none => []

/-- The granules free for an admission: below the reserved 4 GiB, not granted, not lent (R441). -/
def State.freeGranules (s : State) (j : JSlot) : List Nat :=
  let used := ((s.otherSlots j).map (fun k => (s.job k).plan.granules ++ lentGranules (s.job k).manifest (s.job k).plan)).flatten
  (List.range (s.dramTop / 2 ^ 30 - 4)).filter (fun g => !used.contains g)

/-- The usable frames of a granule (R441). -/
def State.usable (s : State) (g : Nat) : Nat := 512 - (s.retired.filter (fun r => r.frame / 512 == g)).length

/-- The usable frames of granules. -/
def State.frames (s : State) (gs : List Nat) : Nat := gs.foldl (fun a g => a + s.usable g) 0

/-- Whether DRAM meets a manifest's demand (R441), and what it lends (R442). -/
def State.dramOk (s : State) (j : JSlot) (m : Manifest) : Bool :=
  let free := s.frames (s.freeGranules j)
  let need := m.dramGib * 512
  let lent := m.lend.foldl (fun a l => a + l.2 + 1) 0
  let wins := (List.finRange 16).filter (fun w => Word.bit (s.dieReg 0 (.spill w 0)) 63)
  decide (m.lend.length + wins.length ≤ 16) &&
  (if need ≤ free then decide (lent ≤ free - need)
   else decide (need - free ≤ (if m.dies = 15 then 192 else 48) * 512) && decide (m.spill.length ≤ 4)
     && decide (need - free ≤ m.spill.foldl (fun a l => a + l.2) 0) && lent == 0)

/-- The status of a manifest, by the checks of R440 in order. -/
def State.admitStatus (s : State) (m : Manifest) : Nat :=
  match partSlot m.dies with
  | none => 2
  | some j =>
    if (s.job j).st ≠ .free ∨ (s.otherSlots j).any (fun k => (s.job k).dies &&& m.dies != 0) then 2
    else if m.kssize = 0 ∨ 0xC00000 < m.carved ∨ (s.partTiles m.dies).isEmpty
        ∨ (s.partTiles m.dies).any (fun t => Word.bit (s.tileReg t .patstat) 0) then 3
    else if s.treesOk m = false then 5
    else if m.lockways &&& s.otherWays j ≠ 0 ∨ 12 < popBits 16 (m.lockways ||| s.otherWays j) then 6
    else if s.dramOk j m = false then 4
    else 0

/-! ### The steward's choices (R439, R441, R442) -/

/-- Whether a byte range lies in granules of a list. -/
def rangeIn (gs : List Nat) (pa n : Nat) : Bool :=
  (List.range ((pa + n - 1) / 2 ^ 30 + 1 - pa / 2 ^ 30)).all (fun i => gs.contains (pa / 2 ^ 30 + i))

/-- Whether ranges, each a base and a length, do not overlap. -/
def rangesApart : List (Nat × Nat) → Bool
  | [] => true
  | (a, n) :: t => t.all (fun x => !overlaps a n x.1 x.2) && rangesApart t

/-- Whether the steward's choices are such as the spec allows for a manifest: the granules granted meet DRAMGIB and no more, or
are all that are free; cells are unassigned and distinct; shares, ledgers and windows lie where they may and apart. -/
def State.planOk (s : State) (j : JSlot) (m : Manifest) (p : AdmitPlan) : Bool :=
  let free := s.freeGranules j
  let need := m.dramGib * 512
  let all := s.frames free
  let kitty := p.kitty.map (fun b => (b, m.kittysize * 4096))
  let wins := (p.windows.zip m.lend).map (fun (x : (Fin 16 × Nat) × (Nat × Nat)) => (x.1.2, (x.2.2 + 1) * 0x200000))
  p.granules.eraseDups == p.granules && p.granules.all (fun g => free.contains g)
    && (if need ≤ all then decide (need ≤ s.frames p.granules) && decide (s.frames p.granules.dropLast < need ∨ p.granules = [])
        else p.granules.length == free.length)
    && p.cells.length == m.sigs.length
    && ((m.sigs.zip p.cells).map (fun x => (x.1.die, x.2))).eraseDups.length == m.sigs.length
    && (m.sigs.zip p.cells).all (fun x => (s.cell x.1.die x.2).kind == 0)
    && p.children % 64 == 0 && decide (p.children + 64 * (m.sigs.length + m.kids.length) ≤ s.dramTop)
    && p.kitty.length == (s.partTiles m.dies).length
    && (m.kittysize == 0 || (p.kitty.all (fun b => b % 4096 == 0 && rangeIn p.granules b (m.kittysize * 4096)) && rangesApart kitty))
    && p.ledgers.length == 4 && p.ledgers.all (fun b => b % 4096 == 0 && rangeIn p.granules b 4096)
    && p.windows.length == m.lend.length && (p.windows.map (·.1)).eraseDups.length == m.lend.length
    && p.windows.all (fun w => !Word.bit (s.dieReg 0 (.spill w.1 0)) 63 && w.2 % 0x200000 == 0)
    && wins.all (fun w => rangeIn (free.filter (fun g => !p.granules.contains g)) w.1 w.2) && rangesApart wins

/-! ### What admission sets (R38, R99, R109 to R111, R143 to R145, R298, R307, R335, R356, R364, R368) -/

/-- The carving and configuration of one owned tile (R368, R439). -/
def State.placeTile (s : State) (m : Manifest) (t : TileId) (kitty : Nat) : State :=
  let slot := 0xC00000 - m.slotk * 0x20000
  let pot := slot - m.potsize * 4096
  let save := pot - m.save
  let ks := save - m.kssize * 4096
  let set := fun (s : State) (r : TileReg) (v : Nat) => s.setReg (.tile t r) (BitVec.ofNat 64 v)
  let s := set s .meldcfg (m.slotk + slot / 4096 * 2 ^ 8 + pot / 4096 * 2 ^ 20 + m.potsize * 2 ^ 32)
  let s := set s .dlrsave (save / 4096 + m.savei * 2 ^ 12 + m.savev * 2 ^ 18)
  let s := set s .kstage (ks / 4096 + m.kssize * 2 ^ 12)
  let s := set s .cutcfg m.cutcfg.toNat
  let s := set s .kittybase kitty
  let s := set s .kittysize m.kittysize
  let s := set s .meldjob m.spades.toNat
  let s := set s .gthcfg m.reqcap
  s.modReg (.tile t .mjob) (fun w => Word.setBit w 2 false)

/-- The child list of a barrier written to memory: where it stands, and the entries (R305). -/
def State.placeKids (s : State) (m : Manifest) (vid : Nat) (pa : Nat) : State × Nat :=
  let l := m.kids.filter (fun k => k.1 == vid)
  (s.write pa ((l.map (fun k => leBytes 8 (k.2.1 + k.2.2 * 2 ^ 14))).flatten), l.length)

/-- The cells and translation entries of a job, as its manifest gives them: every counter at 0, every barrier at round 0
(R307, R320, R475). -/
def State.placeCells (s : State) (j : JSlot) (m : Manifest) (p : AdmitPlan) : State :=
  ((m.sigs.zip p.cells).foldl (fun (a : State × Nat) (x : SigEntry × Fin 65536) =>
    let e := x.1
    let (s, n) := a.1.placeKids m e.vid.val a.2
    let cfg := Word.setBits (Word.setBits e.cfg 2 2 j.val) 32 32 0
    let kids := if n = 0 then 0 else a.2 + n * 2 ^ 48
    let c : Cell := { value := 0, cfg := cfg, parent := e.parent, child := BitVec.ofNat 64 kids }
    let s := s.modCell e.die x.2 (fun _ => c)
    let s := (List.finRange 4).foldl (fun (s : State) d =>
      if m.dies.testBit d.val then s.setReg (.die d (.vid j e.vid)) (BitVec.ofNat 64 (e.die.val + x.2.val * 4 + 2 ^ 18)) else s) s
    let s := if Word.bits cfg 0 2 = 2 ∧ Word.bit cfg 26 then { s with chasLines := [] } else s
    (s, a.2 + roundUp (8 * n) 64)) (s, p.children)).1

/-- The grant map of granules, word by word, in every die's translation block (R38). -/
def State.placeGrant (s : State) (j : JSlot) (gs : List Nat) : State :=
  (List.finRange 4).foldl (fun (s : State) d =>
    (List.finRange 24).foldl (fun (s : State) w =>
      s.setReg (.die d (.grant j w)) (BitVec.ofNat 64 ((gs.filter (fun g => g / 64 == w.val)).foldl (fun a g => a ||| 2 ^ (g % 64)) 0))) s) s

/-- The spill windows that a job lends, in every die's translation block; `clear`: their counter frames start at 0 (R364,
R365, R442). -/
def State.placeWindows (s : State) (m : Manifest) (p : AdmitPlan) (clear : Bool) : State :=
  (p.windows.zip m.lend).foldl (fun (s : State) (x : (Fin 16 × Nat) × (Nat × Nat)) =>
    let s := (List.finRange 4).foldl (fun (s : State) d =>
      ((s.setReg (.die d (.spill x.1.1 0)) (BitVec.ofNat 64 (x.2.1 + 2 ^ 63))).setReg (.die d (.spill x.1.1 1)) (BitVec.ofNat 64 x.1.2)).setReg
        (.die d (.spill x.1.1 2)) (BitVec.ofNat 64 x.2.2)) s
    let cf := x.1.2 + x.2.2 * 0x200000
    if clear then { s with mem := Mem.clear s.mem cf (cf + 0x200000) } else s) s

/-- The ways of a job locked for it on every working stack (R356). -/
def State.placeWays (s : State) (j : JSlot) (ways : Nat) : State :=
  s.stacks.foldl (fun (s : State) k => s.modReg (.stack k .lockcfg) fun w =>
    (onesOf 16 ways).foldl (fun w i => Word.setBits (Word.setBit w i true) (16 + 2 * i) 2 j.val) w) s

/-- SIGTIMEO of every die of a partition, as the manifest gives it (R439, R475). -/
def State.placeTimeouts (s : State) (m : Manifest) : State :=
  (List.finRange 4).foldl (fun (s : State) d => if m.dies.testBit d.val then s.setReg (.die d .sigtimeo) m.sigtimeo else s) s

/-- Everything an admission sets outside DRAM and the ways, from a job's manifest and the steward's choices. -/
def State.placeJob (s : State) (j : JSlot) (m : Manifest) (p : AdmitPlan) (clear : Bool) : State :=
  let s := ((s.partTiles m.dies).zip p.kitty).foldl (fun (s : State) (x : TileId × Nat) => s.placeTile m x.1 x.2) s
  let s := (s.partQuads m.dies).foldl (fun (s : State) q =>
    s.modReg (.quad q .dlrcfg) (fun w => Word.setBit (Word.setBit w 12 m.preen) 13 m.irqen)) s
  let s := s.placeTimeouts m
  let dir := m.tables.headD 0
  let s := s.setReg (.emb (match j with | 0 => .etabdir0 | 1 => .etabdir1 | 2 => .etabdir2 | 3 => .etabdir3)) dir
  ((s.placeGrant j p.granules).placeWindows m p clear).placeCells j m p

/-- The code of a job state (R555). -/
def JobSt.code : JobSt → Nat
  | .free => 0 | .admitted => 1 | .running => 2 | .stopped => 3

/-- The event of a job slot's new state (R555). -/
def State.jobEvent (s : State) (j : JSlot) : State :=
  s.eventAdd 0x08 (s.job j).st.code 0 (unitCode (.job j)) (leBytes 1 j.val ++ leBytes 1 (s.job j).epoch.toNat)

/-- The journal record of an admission (R473). A refused manifest that names no partition has no slot: the byte is a free
value (log 54). -/
def State.admitRecord (s : State) (status : Nat) (j : Option JSlot) : State :=
  match j with
  | some j => (s.modJob j (fun b => { b with status := status })).journalAdd 0x07 status 0 0 0 (leBytes 1 j.val ++ leBytes 1 (s.job j).epoch.toNat)
  | none =>
    let f := Config.free s.free
    ({ s with free := s.free + 1 }).journalAdd 0x07 status 0 0 0 (leBytes 2 (f % 0x10000))

/-- The results of an admission (R439): slot and epoch, SCRTOP, the grant map, the kitty shares and ledgers, the lent windows.
Their order is the model's (DESIGN CHOICE, log 55). -/
def admitAnswer (j : JSlot) (epoch : BitVec 8) (m : Manifest) (p : AdmitPlan) : List Byte :=
  leBytes 1 j.val ++ leBytes 1 epoch.toNat ++ leBytes 2 0 ++ leBytes 8 m.scrtop ++ leBytes 192 (p.granules.foldl (fun a g => a ||| 2 ^ g) 0)
    ++ (p.kitty.map (leBytes 8)).flatten ++ (p.ledgers.map (leBytes 8)).flatten ++ (p.windows.map (fun w => leBytes 8 w.2)).flatten

/-- SHA-384 of bytes, as 48 bytes (R526). -/
def sha384 (m : List Byte) : List Byte := leBytes 48 (Config.sha384 m)

/-- A measurement register extended by a digest (R526). -/
def State.measure (s : State) (k : Fin 8) (d : List Byte) : State :=
  { s with sec := { s.sec with mr := Tab.set s.sec.mr k (sha384 (Tab.get (List.replicate 48 0) s.sec.mr k ++ d)) } }

/-- Whether the steward serves job endpoints: the device is in service (log 56). -/
def State.inService (s : State) : Bool := s.boot.ready

/-- JOB_ADMIT with ACT 0: a manifest checked and admitted (R437 to R442). Choices that the spec does not allow leave the request
waiting. -/
def execJobAdmit (i : Nat) (plan : AdmitPlan) (s : State) : Out :=
  .next (
      let was := s
      s.serve i 0x10 (fun r => leAt r.body 0 1 != 1) fun r s =>
        let b := r.body.drop 1
        if leAt r.body 0 1 ≠ 0 ∨ r.body = [] ∨ manifestLenOk r.via.isSome b = false then s.answer r stBadBody
        else if s.inService = false ∨ s.power.critical then s.answer r stWrongState
        else
          let b := manifestTrim b
          match manifestOf b with
          | none => (s.admitRecord 1 (partSlot (bitsOf (leAt b 0 8) 0 4))).answer r 1
          | some m =>
            let st := s.admitStatus m
            match partSlot m.dies with
            | none => (s.admitRecord 2 none).answer r 2
            | some j =>
              if st ≠ 0 then (s.admitRecord st (some j)).answer r st
              else if s.planOk j m plan = false then was
              else
                let s := s.modJob j (fun k => { k with st := .admitted, epoch := k.epoch + 1, dies := m.dies, manifest := b, plan := plan,
                                                       locked := false, stop := none, warm := none, flooded := false })
                let s := (((s.placeJob j m plan true).placeWays j m.lockways).admitRecord 0 (some j)).measure 6 (sha384 b)
                (s.jobEvent j).answer r 0 (admitAnswer j (s.job j).epoch m plan))

/-! ### Low-power states that a start ends (R474) -/

/-- A folded tile unfolded (R474, R475): what a fold without retention lost stays lost. -/
def State.unfoldTile (s : State) (t : TileId) : State := s.modTile t (fun T => { T with folded := false, retained := false })

/-- The device back from sitting out: clocks run, DRAM leaves self-refresh, the links wake. -/
def State.sitIn (s : State) : State :=
  if s.power.sitting then
    let s := { s with power := { s.power with sitting := false, selfRefresh := false }, computeOn := true }
    let s := s.modReg (.stew .bootstat) (fun w => Word.setBit w 12 false)
    (List.finRange 16).foldl (fun (s : State) p => s.lpiExit p) s
  else s

/-! ### Start, stop and reset (R437, R438) -/

/-- Whether the bytes of a body between two places are 0. -/
def bytesZero (b : List Byte) (lo hi : Nat) : Bool := (slice b lo (hi - lo)).all (· == 0)

/-- Job start (R438): JPTBASE, TASKTAB and MJOB on every tile of the partition, then the locks. -/
def State.startJob (s : State) (j : JSlot) (jpt tasktab : Word) : State :=
  let b := s.job j
  let s := s.sitIn
  let s := (s.partTiles b.dies).foldl (fun (s : State) t =>
    let s := if (s.tile t).folded then s.unfoldTile t else s
    let s := (s.writeReg (.tile t .jptbase) jpt).writeReg (.tile t .tasktab) tasktab
    s.setReg (.tile t .mjob) (BitVec.ofNat 64 (j.val + 2 ^ 2 + b.epoch.toNat * 2 ^ 8 + b.dies * 2 ^ 16))) s
  (s.modJob j (fun k => { k with st := .running, locked := true, stop := none, warm := none })).jobEvent j

/-- JOB_START: JOB_ADMIT with ACT 1 (R437, R438). -/
def execJobStart (i : Nat) (s : State) : Out :=
  .next (
    s.serve i 0x10 (fun r => leAt r.body 0 1 == 1) fun r s =>
      let j := leAt r.body 1 1
      if r.lenOk 24 = false ∨ 4 ≤ j ∨ bytesZero r.body 2 8 = false then s.answer r stBadBody
      else
        let j : JSlot := Fin.ofNat 4 j
        if s.inService = false ∨ s.power.critical ∨ (s.job j).st ≠ .admitted then s.answer r stWrongState
        else (s.startJob j (BitVec.ofNat 64 (leAt r.body 8 8)) (BitVec.ofNat 64 (leAt r.body 16 8))).answer r 0)

/-- JOB_STOP: the stop of a RUNNING job that no stop has reached (R437, R445, R450). -/
def execJobStop (i : Nat) (s : State) : Out :=
  .next (
    s.serve i 0x11 (fun _ => true) fun r s =>
      let j := leAt r.body 0 1
      if r.lenOk 1 = false ∨ 4 ≤ j then s.answer r stBadBody
      else
        let j : JSlot := Fin.ofNat 4 j
        if s.inService = false ∨ (s.job j).st ≠ .running ∨ (s.job j).stop.isSome then s.answer r stWrongState
        else (s.raise j .operatorStop { unit := .job j }).answer r 0)

/-- Whether a tile register is configuration that a job leaves behind with MODE 0 (R475). -/
def TileReg.ofJob (r : TileReg) : Bool := !r.counter && r != .jptbase

/-- What every job reset clears (R438, R475, R476): tiles, slots, pots, save records and kitty, dealers, the slot's cells and
pending signals, counters, and the locks. `scrtop` bounds the scratchpad, which is kept. -/
def State.clearJob (s : State) (j : JSlot) (scrtop : Nat) : State :=
  let b := s.job j
  let tiles := s.partTiles b.dies
  let quads := s.partQuads b.dies
  let s := s.clearCounters tiles quads
  let s := tiles.foldl (fun (s : State) t =>
    let s := s.modTile t (fun T => T.clear)
    { s with mem := Mem.clear s.mem (sramPa t scrtop) (sramPa t 0xC00000) }) s
  let s := quads.foldl (fun (s : State) q => s.modReg (.quad q .dlrcfg) (fun w => Word.setBits w 0 12 64)) s
  let s := s.dropRegs fun r => match r with
    | .die _ (.vid k _) => k == j
    | .die d r => b.dies.testBit d.val && [DieReg.cellops, .bclose, .saudlast, .tkdead, .psocc, .psledger, .psbp, .psapply, .psstale].contains r
    | .emb (.epoch k _) => k == j
    | _ => false
  { s with cells := s.cells.filter (fun x => !(x.2.kind != 0 && x.2.slot == j.val)),
           psTab := s.psTab.map (fun (x : DieId × List PsEntry) => (x.1, x.2.filter (fun e => e.slot != j))),
           notices := s.notices.filter (fun n => n.slot != j), ledger := s.ledger.filter (fun n => n.slot != j),
           psWaiting := s.psWaiting.filter (fun k => k.jslot != j),
           farWaits := s.farWaits.filter (fun w => !tiles.contains w.tile),
           mesh := s.mesh.filter (fun k => k.jslot != j), tbl := s.tbl.drop j }.modJob j (fun k => { k with locked := false, stop := none, warm := none, flooded := false })

/-- The scratchpad top that a job's manifest gives. -/
def Job.scrtop (b : Job) : Nat := match manifestOf b.manifest with | some m => m.scrtop | none => 0xC00000

/-- JOB_RESET with MODE 0: everything the admission took is released (R438, R475). -/
def State.endJob (s : State) (j : JSlot) : State :=
  let b := s.job j
  let tiles := s.partTiles b.dies
  let quads := s.partQuads b.dies
  let chas := match s.chasCell with | some (d, n) => (s.cell d n).slot == j.val | none => false
  let s := s.clearJob j b.scrtop
  let s := s.dropRegs fun r => match r with
    | .tile t r => tiles.contains t && r.ofJob
    | .quad q r => quads.contains q && r == .dlrcfg
    | .die d .sigtimeo => b.dies.testBit d.val
    | .die _ (.grant k _) => k == j
    | .die _ (.spill w _) => b.plan.windows.any (fun x => x.1 == w)
    | .emb .etabdir0 => j == 0
    | .emb .etabdir1 => j == 1
    | .emb .etabdir2 => j == 2
    | .emb .etabdir3 => j == 3
    | _ => false
  let ways := leAt b.manifest 0x28 2
  let s := s.stacks.foldl (fun (s : State) k => s.modReg (.stack k .lockcfg) fun w =>
    (onesOf 16 ways).foldl (fun w i => Word.setBits (Word.setBit w i false) (16 + 2 * i) 2 0) w) s
  let s := if chas then { s with chasLines := [] } else s
  (s.closeConns j).modJob j (fun k => { Job.reset with epoch := k.epoch, status := k.status }) |>.jobEvent j

/-- JOB_RESET with MODE 1: the slot ADMITTED again under the next epoch, its cells and ways as the manifest gives them (R438,
R475, R476). -/
def State.restartJob (s : State) (j : JSlot) : State :=
  let b := s.job j
  let s := s.clearJob j b.scrtop
  let s := (s.partTiles b.dies).foldl (fun (s : State) t => s.modReg (.tile t .mjob) fun w =>
    Word.setBits (Word.setBit w 2 false) 8 8 (b.epoch + 1).toNat) s
  let s := match manifestOf b.manifest with
    | some m => ((s.placeTimeouts m).placeCells j m b.plan).placeWays j m.lockways
    | none => s
  (s.modJob j (fun k => { k with st := .admitted, epoch := b.epoch + 1 })).jobEvent j

/-- JOB_RESET served (R437): `restart` is MODE 1. -/
def State.serveReset (s : State) (i : Nat) (mine : MgmtReq → Bool) (act : State → JSlot → State) : State :=
  s.serve i 0x12 mine fun r s =>
    let j := leAt r.body 0 1
    if r.lenOk 2 = false ∨ 4 ≤ j ∨ 1 < leAt r.body 1 1 then s.answer r stBadBody
    else
      let j : JSlot := Fin.ofNat 4 j
      if s.inService = false ∨ ((s.job j).st ≠ .stopped ∧ (s.job j).st ≠ .admitted) then s.answer r stWrongState
      else (act s j).answer r 0

def execJobResetEnd (i : Nat) (s : State) : Out :=
  .next (s.serveReset i (fun r => leAt r.body 1 1 == 0) State.endJob)

def execJobResetRestart (i : Nat) (s : State) : Out :=
  .next (s.serveReset i (fun r => leAt r.body 1 1 != 0) State.restartJob)

/-- The TLB entries of a job slot invalidated on every tile of its partition (R43). -/
def State.flushTlbs (s : State) (j : JSlot) : State :=
  (s.partTiles (s.job j).dies).foldl (fun (s : State) t => s.modTile t (fun T => { T with tlb := T.tlb.filter (fun e => e.slot != j) })) s

/-- TLB_FLUSH (R43, R437). -/
def execTlbFlush (i : Nat) (s : State) : Out :=
  .next (
    s.serve i 0x13 (fun _ => true) fun r s =>
      let j := leAt r.body 0 1
      if r.lenOk 1 = false ∨ 4 ≤ j then s.answer r stBadBody
      else
        let j : JSlot := Fin.ofNat 4 j
        if s.inService = false ∨ (s.job j).st ≠ .running then s.answer r stWrongState else (s.flushTlbs j).answer r 0)

/-- A job slot re-admitted at B15 from its manifest: ADMITTED, with grant, shares, windows and epoch kept (R462). -/
def State.readmitSlot (s : State) (j : JSlot) : State :=
  let b := s.job j
  let s := match manifestOf b.manifest with
    | some m => s.placeJob j m b.plan false
    | none => s
  (s.modJob j (fun k => { k with st := .admitted, locked := false, stop := none, warm := none, flooded := false })).jobEvent j

end Sys2Proof.Machine
end

