-- ==== Sys2Proof/Machine/Records.lean ====
section
/-! DEFINITION. The bytes of journal records (R472), events (R554) and retired-page entries (R350), and the endpoints that read
them. -/

namespace Sys2Proof.Machine

/-- A journal record without its CRC (R472). -/
def JRecord.body (r : JRecord) : List Byte :=
  leBytes 8 r.time ++ leBytes 4 r.seq ++ leBytes 1 r.typ ++ leBytes 1 r.code ++ leBytes 1 r.outcome ++ leBytes 1 r.attempt
    ++ leBytes 2 r.unit ++ padTo 10 r.detail

/-- The 32 bytes of a journal record (R472). -/
def JRecord.bytes (r : JRecord) : List Byte := r.body ++ leBytes 4 (crc32c r.body)

/-- The 32 bytes of an event record (R554). -/
def Event.bytes (e : Event) : List Byte :=
  leBytes 8 e.time ++ leBytes 4 e.seq ++ leBytes 1 e.typ ++ leBytes 1 e.code ++ leBytes 1 e.sev ++ leBytes 1 0 ++ leBytes 2 e.unit
    ++ padTo 10 e.detail ++ leBytes 4 e.extra

/-- The journal record with a SEQ, if it is held. -/
def State.record? (s : State) (seq : Nat) : Option JRecord := s.journal.find? (fun (r : JRecord) => r.seq == seq)

/-- The SEQ of the oldest journal record held. -/
def State.oldestSeq (s : State) : Nat := match s.journal.getLast? with | some r => r.seq | none => 0

/-- The journal records from the latest START on, oldest first (R542). -/
def State.sinceStart (s : State) : List JRecord :=
  match s.journal.span (fun (r : JRecord) => r.typ != 1) with
  | (after, r :: _) => (after ++ [r]).reverse
  | (after, []) => after.reverse

/-- Whether a journal holds a START record, and its SEQ. -/
def State.startSeq (s : State) : Nat := match s.journal.find? (fun (r : JRecord) => r.typ == 1) with | some r => r.seq | none => 0

/-- IDENT (R427). -/
def execIdent (i : Nat) (s : State) : Out :=
  .next (s.serve i 1 (fun _ => true) fun r s =>
    if r.lenOk 0 = false then s.answer r stBadBody
    else
      let w := fun (x : StewReg) => Word.bytes (s.stewReg x)
      s.answer r 0 (leBytes 4 0 ++ w .ident ++ w .seat ++ w .bootstat ++ w .inv ++ w .invq0 ++ w .invq1 ++ w .invq2 ++ w .secstat))

/-- JOURNAL_READ (R427): up to 127 records in ascending SEQ, from the first one held at or above the SEQ wanted. -/
def execJournalRead (i : Nat) (s : State) : Out :=
  .next (s.serve i 0x21 (fun _ => true) fun r s =>
    let from_ := leAt r.body 0 4
    let n := leAt r.body 4 2
    if r.lenOk 8 = false ∨ n = 0 ∨ 127 < n ∨ leAt r.body 6 2 ≠ 0 then s.answer r stBadBody
    else
      let l := (s.journal.reverse.filter (fun (x : JRecord) => decide (from_ ≤ x.seq))).take n
      s.answer r 0 (leBytes 4 (Word.bits (s.stewReg .jhead) 0 32) ++ leBytes 4 s.oldestSeq ++ leBytes 2 l.length ++ leBytes 2 0
        ++ (l.map JRecord.bytes).flatten))

/-- RPL_READ, the endpoint (R427, R350): up to 500 entries. -/
def execRplRead (i : Nat) (s : State) : Out :=
  .next (s.serve i 0x22 (fun _ => true) fun r s =>
    if r.lenOk 8 = false ∨ leAt r.body 4 4 ≠ 0 then s.answer r stBadBody
    else
      let l := (s.retired.drop (leAt r.body 0 4)).take 500
      s.answer r 0 (leBytes 4 s.retired.length ++ leBytes 2 l.length ++ leBytes 6 0 ++ (l.map Retired.bytes).flatten))

end Sys2Proof.Machine
end

