-- ==== Sys2Proof/Machine/Security.lean ====
section
/-! DEFINITION. Secure boot, ownership and attestation (R525 to R547): images and their checks, the owner's authentication, firmware
updates, and reports. -/

namespace Sys2Proof.Machine

/-! ### Keys (R533, R540; log 41) -/

/-- Constants of the ROM and of the identity, by kind: 1 the RSA modulus and 2 the SLH-DSA public key of the identity, 5 and 6 the
digests of the Foundation's keys, 7 and 8 the identity certificates, 9 the ROM's version digest. -/
def rsaModulus : List Byte := padTo 384 (Config.crypto 1 [])
def slhKey : List Byte := padTo 48 (Config.crypto 2 [])
def foundationRsa : List Byte := padTo 48 (Config.crypto 5 [])
def foundationSlh : List Byte := padTo 48 (Config.crypto 6 [])
def romDigest : List Byte := padTo 48 (Config.crypto 9 [])

/-- The identity digest (R540). -/
def identityDigest : List Byte := sha384 (rsaModulus ++ slhKey)

/-- Whether a signature in either algorithm verifies under the key with a digest. -/
def rsaOk (digest msg sig : List Byte) : Bool := Config.verify (2 * leVal digest) msg sig
def slhOk (digest msg sig : List Byte) : Bool := Config.verify (2 * leVal digest + 1) msg sig

/-- The digests that a key slot holds: ROM constants for slot 0, the ownership record for 1 to 4 (R533). -/
def State.slotKeys (s : State) (k : Nat) : List Byte × List Byte :=
  if k = 0 then (foundationRsa, foundationSlh) else Tab.get (List.replicate 48 0, List.replicate 48 0) s.sec.keys k

/-- Whether a key slot is enabled (R531). -/
def State.slotEnabled (s : State) (k : Nat) : Bool :=
  if k = 0 then !s.sec.fnddis else decide (k ≤ 4) && s.sec.slotEn.testBit (k - 1)

/-! ### Image areas (R527 to R529) -/

/-- The size of an image area. -/
def areaSize : Nat := 0x4000000

/-- A byte of an image area: the latest write that covers it, else what it held at delivery. -/
def State.flashByte (s : State) (a : Fin 3) (off : Nat) : Byte :=
  match s.sec.written.find? (fun (w : Fin 3 × Nat × List Byte) => w.1 == a && decide (w.2.1 ≤ off ∧ off < w.2.1 + w.2.2.length)) with
  | some w => w.2.2.getD (off - w.2.1) 0
  | none => Config.flash a.val off

/-- Bytes of an image area. -/
def State.flash (s : State) (a : Fin 3) (off n : Nat) : List Byte := (List.range n).map (fun i => s.flashByte a (off + i))

/-- The header of the image in an area. -/
def State.imageHeader (s : State) (a : Fin 3) : List Byte := s.flash a 0 0x4800

/-- The section entries of a header (R529). -/
def sections (h : List Byte) : List (List Byte) := (List.range (min 16 (leAt h 0x0C 2))).map (fun i => slice h (0x100 + 64 * i) 64)

/-- The digest of the section of a type, as a verified header holds it. -/
def sectionDigest (h : List Byte) (ty : Nat) : List Byte :=
  match (sections h).find? (fun e => leAt e 0 2 == ty) with
  | some e => slice e 16 48
  | none => List.replicate 48 0

/-- Check 1 of R531. -/
def imageForm (h : List Byte) : Bool :=
  let ss := sections h
  let n := leAt h 0x0C 2
  let len := leAt h 0x1C 4
  let types := ss.map (fun e => leAt e 0 2)
  leAt h 0 4 == 0x57465847 && leAt h 4 2 == 1 && leAt h 8 4 == 0x4800 && leAt h 0x18 4 == 0x0004CE15 && decide (leAt h 0x0E 2 < 2)
    && bytesZero h 0x21 0x100 && bytesZero h 0x684 0x690 && bytesZero h 0x6C0 0x700 && bytesZero h 0x47E0 0x4800
    && decide (1 ≤ n ∧ n ≤ 16) && decide (0x4800 ≤ len ∧ len ≤ areaSize) && bytesZero h (0x100 + 64 * n) 0x500
    && ss.all (fun e => leAt e 2 2 == 0 && leAt e 12 4 == 0 && leAt e 8 4 % 4096 == 0
        && decide (0x4800 ≤ leAt e 8 4 ∧ leAt e 8 4 + leAt e 4 4 ≤ len) && decide (1 ≤ leAt e 0 2 ∧ leAt e 0 2 ≤ 7))
    && (if leAt h 6 2 = 2 then types.all (· == 1) else [1, 2, 3, 4, 5].all (fun t => types.count t == 1))

/-- The KIND that an area takes (R531), the counter for a KIND (R535), and a header's key digests. -/
def areaKind (a : Fin 3) : Nat := if a = 2 then 2 else 1
def State.svn (s : State) (kind : Nat) : Nat := if kind = 2 then s.sec.svnRec else s.sec.svnMain
def headerKeys (h : List Byte) : List Byte × List Byte := (sha384 (slice h 0x500 388), sha384 (slice h 0x690 48))

/-- Whether the digest of the sections of some types matches the header (R531 check 8). -/
def State.sectionsOk (s : State) (a : Fin 3) (h : List Byte) (types : List Nat) : Bool :=
  (sections h).all (fun e => !types.contains (leAt e 0 2) || sha384 (s.flash a (leAt e 8 4) (leAt e 4 4)) == slice e 16 48)

/-- Whether both signatures of a header verify under a pair of digests (R530): checks 5 and 6. RSAE must be 65,537. -/
def rsaGood (h : List Byte) (k : List Byte) : Bool := leAt h 0x680 4 == 65537 && rsaOk k (slice h 0 0x700) (slice h 0x700 384)
def slhGood (h : List Byte) (k : List Byte) : Bool := slhOk k (slice h 0 0x700) (slice h 0x880 16224)

/-- The number of the first of the checks of R531 that fails, or 0; check 8 covers the sections of some types. -/
def State.imageCheck (s : State) (a : Fin 3) (types : List Nat) : Nat :=
  let h := s.imageHeader a
  let slot := leAt h 0x20 1
  let kind := leAt h 6 2
  if imageForm h = false then 1
  else if kind ≠ areaKind a then 2
  else if 4 < slot ∨ s.slotEnabled slot = false then 3
  else if headerKeys h ≠ s.slotKeys slot then 4
  else if rsaGood h (s.slotKeys slot).1 = false then 5
  else if slhGood h (s.slotKeys slot).2 = false then 6
  else if leAt h 0x10 4 < s.svn kind then 7
  else if s.sectionsOk a h types = false then 8
  else 0

/-- All section types. -/
def allSections : List Nat := [1, 2, 3, 4, 5, 6, 7]

/-! ### The registers of the security core (R546) -/

/-- OWNED, FNDDIS, SLOTEN and the counters as the registers show them. -/
def State.showOwner (s : State) : State :=
  let s := s.modReg (.stew .secstat) fun w =>
    Word.setBits (Word.setBit (Word.setBit w 0 s.sec.owned) 1 s.sec.fnddis) 2 4 s.sec.slotEn
  s.setReg (.stew .svnstat) (BitVec.ofNat 64 (s.sec.svnMain % 2 ^ 32 + s.sec.svnRec % 2 ^ 32 * 2 ^ 32))

/-- The running image as the registers show it (R546). -/
def State.showImage (s : State) : State :=
  s.modReg (.stew .secstat) fun w =>
    let w := Word.setBits w 6 3 (leAt s.sec.header 0x20 1)
    Word.setBit (Word.setBit w 9 (s.sec.running == some 1)) 10 (s.sec.running == some 2)

/-- The security state with a change, and the registers brought up to date. -/
def State.modSec (s : State) (f : SecSt → SecSt) : State := ({ s with sec := f s.sec } : State).showOwner

/-- A measured section extended once in each cold or module start (R526). -/
def State.measureOnce (s : State) (step : Nat) (k : Fin 8) (d : List Byte) : State :=
  if s.sec.extended.contains step then s
  else ({ s with sec := { s.sec with extended := step :: s.sec.extended } } : State).measure k d

/-- The exclusion list as bytes: its unit codes (log 58). -/
def State.exclBytes (s : State) : List Byte := (s.boot.exclFlash.map (fun u => leBytes 2 (unitCode u))).flatten

/-- Frame 0 of the replay-protected block (R534). -/
def State.ownerFrame (s : State) : List Byte :=
  padTo 256 (leBytes 8 (s.sec.owned.toNat + s.sec.fnddis.toNat * 2 + s.sec.slotEn % 16 * 4 + s.sec.bank.val * 64)
    ++ leBytes 8 s.sec.ownctr ++ sha384 s.exclBytes)

/-- The counter for a KIND raised to an SVN (R535). -/
def State.raiseSvn (s : State) (kind svn : Nat) : State :=
  s.modSec (fun x => if kind = 2 then { x with svnRec := max x.svnRec svn } else { x with svnMain := max x.svnMain svn })

/-! ### Owner authentication (R536, R537) -/

/-- The statuses of R545. -/
def stAuthFail : Nat := 16
def stReplay : Nat := 17
def stBadImage : Nat := 18
def stRollback : Nat := 19
def stBusy : Nat := 20

/-- The length of the authentication trailer (R536). -/
def trailerLen : Nat := 16624

/-- The body of an owner request: without the trailer that it carries on an owned device. -/
def State.ownerBody (s : State) (r : MgmtReq) : Option (List Byte) :=
  if s.sec.owned then (if r.body.length < trailerLen then none else some (r.body.take (r.body.length - trailerLen))) else some r.body

/-- What the owner's authentication says of a request whose body has the form of its endpoint (R536): 0, or the status that
refuses it. `body` is what the signatures cover. -/
def State.ownerStatus (s : State) (r : MgmtReq) (body : List Byte) : Nat :=
  if s.sec.owned = false then (if r.via.isSome then stWrongState else 0)
  else
    let t := r.body.drop (r.body.length - trailerLen)
    let slot := leAt t 0 1
    let k := s.slotKeys slot
    let msg := sha384 (identityDigest ++ leBytes 2 r.endpoint ++ leBytes 4 r.tag ++ body ++ slice t 0 1 ++ slice t 8 8)
    if slot = 0 ∨ 4 < slot ∨ bytesZero t 1 8 = false then stBadBody
    else if s.slotEnabled slot = false then stAuthFail
    else if rsaOk k.1 msg (slice t 16 384) = false ∨ slhOk k.2 msg (slice t 400 16224) = false then stAuthFail
    else if leAt t 8 8 ≤ s.sec.ownctr then stReplay
    else 0

/-- An owner request served: `len` is the length of its body where that is fixed (none: to the trailer or the end); a body of
another form is BAD_BODY, then the authentication decides, and OWNCTR is set before the command acts (R536). An owner request over
GXHT to an unowned device is WRONG_STATE whatever its body. -/
def State.serveOwner (s : State) (r : MgmtReq) (len : Option Nat) (form : List Byte → Bool) (act : List Byte → State → State) : State :=
  if s.sec.owned = false ∧ r.via.isSome then s.answer r stWrongState
  else
    match s.ownerBody r with
    | none => s.answer r stBadBody
    | some raw =>
      let ok := match len with | some n => { r with body := raw }.lenOk n | none => true
      let body := match len with | some n => raw.take n | none => raw
      if ok = false ∨ form body = false then s.answer r stBadBody
      else
        let st := s.ownerStatus r body
        if st ≠ 0 then s.answer r st
        else
          let t := r.body.drop (r.body.length - trailerLen)
          act body (if s.sec.owned then s.modSec (fun x => { x with ownctr := leAt t 8 8 }) else s)

/-! ### FW_UPDATE (R539) -/

/-- The request at a place of the queue, if it is this sub-command of FW_UPDATE. -/
def State.serveFw (s : State) (i code : Nat) (len : Option Nat) (act : Fin 3 → List Byte → MgmtReq → State → State) : State :=
  s.serve i 0x31 (fun r => leAt r.body 0 1 == code) fun r s =>
    s.serveOwner r len (fun b => decide (2 ≤ b.length) && (code != 1 || (decide (12 ≤ b.length) && bytesZero b 2 8
        && decide (leAt b 8 4 + (b.length - 12) ≤ areaSize))))
      (fun b s => act (Fin.ofNat 3 (leAt b 1 1)) b r s)

/-- WRITE: bytes written into an area, but not into the bank that the running image came from. -/
def execWrite (i : Nat) (s : State) : Out :=
  .next (s.serveFw i 1 none fun a b r s =>
    if a ≠ 2 ∧ s.sec.running = some a then s.answer r stWrongState
    else (s.modSec (fun x => { x with written := (a, leAt b 8 4, b.drop 12) :: x.written })).answer r 0)

/-- CHECK: the number of the first check that fails, or 0. -/
def execCheck (i : Nat) (s : State) : Out :=
  .next (s.serveFw i 2 (some 2) fun a _ r s => s.answer r 0 (leBytes 4 (s.imageCheck a allSections)))

/-- The status of an area that must pass CHECK (R545). -/
def State.checkStatus (s : State) (a : Fin 3) : Nat :=
  match s.imageCheck a allSections with
  | 0 => 0
  | 7 => stRollback
  | _ => stBadImage

/-- ACTIVATE: the active-bank pointer set to a bank that passes CHECK. The recovery area is no bank. -/
def execActivate (i : Nat) (s : State) : Out :=
  .next (s.serveFw i 3 (some 2) fun a _ r s =>
    if a = 2 then s.answer r stWrongState
    else
      let st := s.checkStatus a
      if st ≠ 0 then s.answer r st else (s.modSec (fun x => { x with bank := Fin.ofNat 2 a.val })).answer r 0)

/-- COMMIT: the counter for the area's KIND raised to the SVN of its image (R535). -/
def execCommit (i : Nat) (s : State) : Out :=
  .next (s.serveFw i 4 (some 2) fun a _ r s =>
    let st := s.checkStatus a
    if st ≠ 0 then s.answer r st else (s.raiseSvn (areaKind a) (leAt (s.imageHeader a) 0x10 4)).answer r 0)

/-! ### OWNERSHIP (R538) -/

/-- The record of an accepted sub-command, and its answer. -/
def State.ownerDone (s : State) (r : MgmtReq) (code : Nat) : State := (s.journalAdd 0x0A code 0 0 0 []).answer r 0

/-- The request at a place of the queue, if it is this sub-command of OWNERSHIP. -/
def State.serveOwn (s : State) (i code len : Nat) (form : List Byte → Bool) (act : List Byte → MgmtReq → State → State) : State :=
  s.serve i 0x32 (fun r => leAt r.body 0 1 == code) fun r s => s.serveOwner r (some len) form (fun b s => act b r s)

/-- Keys installed in a slot: the proof signatures of the new keys over the identity digest verified, and the digests those of no
other enabled slot (R538). `b` is the keys and the signatures. -/
def State.installKeys (s : State) (r : MgmtReq) (code slot : Nat) (b : List Byte) (take : Bool) : State :=
  let k := (sha384 (slice b 0 388), sha384 (slice b 388 48))
  if rsaOk k.1 identityDigest (slice b 436 384) = false ∨ slhOk k.2 identityDigest (slice b 820 16224) = false then s.answer r stAuthFail
  else if [0, 1, 2, 3, 4].any (fun j => j != slot && s.slotEnabled j && s.slotKeys j == k) then s.answer r stWrongState
  else (s.modSec (fun x => { x with keys := Tab.set x.keys slot k, slotEn := x.slotEn ||| 2 ^ (slot - 1), owned := x.owned || take })).ownerDone
    r code

/-- TAKE: an unowned device taken, over I3C. -/
def execTake (i : Nat) (s : State) : Out :=
  .next (s.serveOwn i 1 17045 (fun _ => true) fun b r s =>
    if s.sec.owned ∨ r.via.isSome then s.answer r stWrongState else s.installKeys r 1 1 (b.drop 1) true)

/-- ENROL: a slot's keys written. -/
def execEnrol (i : Nat) (s : State) : Out :=
  .next (s.serveOwn i 2 17046 (fun b => decide (1 ≤ leAt b 1 1 ∧ leAt b 1 1 ≤ 4)) fun b r s =>
    if s.sec.owned = false then s.answer r stWrongState else s.installKeys r 2 (leAt b 1 1) (b.drop 2) false)

/-- REVOKE: a slot disabled, if another stays enabled or the Foundation's keys are. -/
def execRevoke (i : Nat) (s : State) : Out :=
  .next (s.serveOwn i 3 2 (fun b => decide (1 ≤ leAt b 1 1 ∧ leAt b 1 1 ≤ 4)) fun b r s =>
    let slot := leAt b 1 1
    if s.sec.owned = false ∨ (s.sec.fnddis ∧ [1, 2, 3, 4].all (fun j => j == slot || !s.slotEnabled j)) then s.answer r stWrongState
    else (s.modSec (fun x => { x with slotEn := x.slotEn - (x.slotEn &&& 2 ^ (slot - 1)) })).ownerDone r 3)

/-- FND_DISABLE. -/
def execFndDisable (i : Nat) (s : State) : Out :=
  .next (s.serveOwn i 4 1 (fun _ => true) fun _ r s =>
    if s.sec.owned = false then s.answer r stWrongState else (s.modSec (fun x => { x with fnddis := true })).ownerDone r 4)

/-- FND_ENABLE. -/
def execFndEnable (i : Nat) (s : State) : Out :=
  .next (s.serveOwn i 5 1 (fun _ => true) fun _ r s =>
    if s.sec.owned = false then s.answer r stWrongState else (s.modSec (fun x => { x with fnddis := false })).ownerDone r 5)

/-- Whether an area holds an image signed under slot 0 (R538). -/
def State.foundationImage (s : State) (a : Fin 3) : Bool :=
  let h := s.imageHeader a
  imageForm h && leAt h 6 2 == areaKind a && leAt h 0x20 1 == 0 && headerKeys h == (foundationRsa, foundationSlh)
    && rsaGood h foundationRsa && slhGood h foundationSlh

/-- RELEASE: the device given up; OWNCTR is kept. -/
def execRelease (i : Nat) (s : State) : Out :=
  .next (s.serveOwn i 6 1 (fun _ => true) fun _ r s =>
    if s.sec.owned = false ∨ ([0, 1, 2] : List (Fin 3)).any (fun a => !s.foundationImage a) then s.answer r stWrongState
    else (s.modSec (fun x => { x with keys := [], slotEn := 0, owned := false, fnddis := false })).ownerDone r 6)

/-- MEASURE: MR7 extended by the owner's digest. -/
def execMeasure (i : Nat) (s : State) : Out :=
  .next (s.serveOwn i 7 49 (fun _ => true) fun b r s => (s.measure 7 (slice b 1 48)).ownerDone r 7)

/-! ### Attestation (R542, R544) -/

/-- The working tiles (R542). -/
def State.workingTiles (s : State) : Nat :=
  (allTiles.filter (fun t => !s.tileExcl t)).foldl (fun a t => a + 2 ^ tileOrd t) 0

/-- The 800 bytes of a report that both signatures cover. -/
def State.reportBody (s : State) (nonce : List Byte) : List Byte :=
  let w := fun (x : StewReg) => Word.bytes (s.stewReg x)
  let rs := s.sinceStart
  let mrs := ((List.finRange 8).map (fun k => Tab.get (List.replicate 48 0) s.sec.mr k)).flatten
  let counts := ((List.range 16).map (fun t => leBytes 2 (min 65535 (rs.filter (fun (x : JRecord) => x.typ == t)).length))).flatten
  padTo 800 (leBytes 4 0x52415847 ++ leBytes 2 1 ++ leBytes 2 0 ++ leBytes 4 0x4400 ++ leBytes 4 0 ++ w .ident ++ leBytes 8 0
    ++ identityDigest ++ padTo 48 nonce ++ leBytes 8 s.now ++ leBytes 4 s.startSeq ++ leBytes 4 (Word.bits (s.stewReg .bootstat) 0 32)
    ++ mrs ++ w .seat ++ w .secstat ++ w .svnstat ++ leBytes 4 (leAt s.sec.header 0x14 4) ++ leBytes 36 0
    ++ w .inv ++ w .invq0 ++ w .invq1 ++ w .invq2 ++ leBytes 72 s.workingTiles ++ leBytes 8 0
    ++ w .jhead ++ counts ++ sha384 (rs.map JRecord.bytes).flatten)

/-- A report: its body and both signatures under the identity keys. -/
def State.report (s : State) (nonce : List Byte) : List Byte :=
  let b := s.reportBody nonce
  b ++ padTo 384 (Config.crypto 3 b) ++ padTo 16224 (Config.crypto 4 b)

/-- The certificates held (R541): the two identity certificates and the owner's. -/
def State.certificates (s : State) : List Byte := Config.crypto 7 [] ++ Config.crypto 8 [] ++ s.sec.certs.flatten

/-- Signing begins for the oldest request in the queue, with the state of this moment (R544). -/
def State.signNext (s : State) : State :=
  match s.sec.signing, s.sec.queue with
  | none, r :: q => { s with sec := { s.sec with signing := some (r, s.report (r.body.take 48)), queue := q } }
  | _, _ => s

/-- ATTEST: a request for a report. -/
def execAttest (i : Nat) (s : State) : Out :=
  .next (s.serve i 0x30 (fun _ => true) fun r s =>
    if r.lenOk 48 = false then s.answer r stBadBody
    else if Word.bit (s.stewReg .secstat) 13 = false ∨ 4 ≤ s.sec.queue.length then s.answer r stBusy
    else ({ s with sec := { s.sec with queue := s.sec.queue ++ [r] } } : State).signNext)

/-- ATTEST_SIGNED: the report in progress is signed and answered, and the next begins. -/
def execAttestSigned (s : State) : Out :=
  .next (
    match s.sec.signing with
    | none => s
    | some (r, rep) => (({ s with sec := { s.sec with signing := none } } : State).answer r 0 (rep ++ s.certificates)).signNext)

/-- RSA_KEY_REGENERATE: the RSA identity key is there again, after READY (R540). -/
def execRsaKeyRegenerate (s : State) : Out :=
  .next (if s.boot.ready then s.modReg (.stew .secstat) (fun w => Word.setBit w 13 true) else s)

end Sys2Proof.Machine
end

