-- ==== Sys2Proof/Machine/Boot.lean ====
section
/-! DEFINITION. Starts and resets (R460 to R479, R513): boot steps and the attempt ladder, warm resets, exclusions, and cold and
module resets. -/

namespace Sys2Proof.Machine

/-! ### The boot registers (R479) and the call-line phase (R510, R512) -/

/-- BOOTSTAT brought up to date; HALT is set and cleared by itself. -/
def State.showBoot (s : State) : State :=
  let b := s.boot
  s.modReg (.stew .bootstat) fun w =>
    let w := Word.setBits (Word.setBit (Word.setBits w 0 4 b.step) 4 b.ready) 6 1 (!s.excl.isEmpty).toNat
    Word.setBit (Word.setBits (Word.setBits (Word.setBit w 7 s.b14Passed) 8 2 b.kind) 10 2 b.restarts) 12 s.power.sitting

/-- The start's record with a change. -/
def State.modBoot (s : State) (f : Boot → Boot) : State := ({ s with boot := f s.boot } : State).showBoot

/-- Whether the device is halted (R467). -/
def State.halted (s : State) : Bool := Word.bit (s.stewReg .bootstat) 5

/-- The functions that each call-line pin carries (R515, R519, R524): bits of CPFAULT.DIS. -/
def pinFunctions (n : Nat) : Nat :=
  match n with
  | 0 => 0x01 | 1 => 0x01 | 2 => 0x06 | 3 => 0x08 | 4 => 0x30 | 5 => 0x30 | 6 => 0x50 | _ => 0x90

/-- CPFAULT with the faults found in deal and play cleared: those of seating, codes 1 to 3, stay (R519, R523). -/
def seatFaults (w : Word) : Word :=
  (List.range 8).foldl (fun (a : Word) n =>
    let f := Word.bits w (3 * n) 3
    if f = 0 ∨ 3 < f then a else Word.setBits (Word.setBits a (3 * n) 3 f) 24 8 (Word.bits a 24 8 ||| pinFunctions n)) 0

/-- The phase of the call lines (R510). -/
def State.phase (s : State) : Nat := Word.bits (s.stewReg .cpstat) 0 2

/-- A change of phase: every line is released until 2 ms later, and an entry into play clears the faults found in play (R512,
R523). -/
def State.setPhase (s : State) (n : Nat) : State :=
  let s := ({ s with cpOn := false } : State).modReg (.stew .cpstat) (fun w => Word.setBits w 0 2 n)
  if n = 2 then s.modReg (.stew .cpfault) seatFaults else s

/-- Whether the module holds CP4 or CP5 low (R322): in play, with the chassis barrier in effect and a job that has one. -/
def State.holdsChassis (s : State) : Bool :=
  s.phase == 2 && s.cpFunction 5 && s.chasCell.isSome && ([0, 1] : List (Fin 2)).any (fun l => Tab.get ChasLine.held s.chasLines l == .held)

/-- SIGSTAT.CHASOK in every die block (R519). -/
def State.setChasOk (s : State) (b : Bool) : State :=
  (List.finRange 4).foldl (fun (s : State) d => s.modReg (.die d .sigstat) (fun w => Word.setBit w 0 b)) s

/-- READY falls (R465, R513): the one-shot on CP2 if a barrier line is held, and the lines' next phase. -/
def State.readyFall (s : State) (phase : Nat) : State :=
  let s := if s.boot.ready ∧ s.holdsChassis ∧ s.cpFunction 2 then s.pulseCp2 else s
  ((s.modBoot (fun b => { b with ready := false })).setPhase phase).setChasOk false

/-! ### Records (R472, R473, R555) -/

/-- A STEP record and its event. -/
def State.stepRecord (s : State) (step outcome attempt : Nat) (u : UnitId) (dur code : Nat) : State :=
  let d := leBytes 4 dur ++ leBytes 4 code
  (s.journalAdd 0x02 step outcome attempt (unitCode u) d).eventAdd 0x09 step 0 (unitCode u) d

/-- The START record: the latched failure is written with it (R465). -/
def State.startRecord (s : State) : State :=
  let s := s.journalAdd 0x01 s.boot.kind 0 0 0 (Word.bytes (s.stewReg .ident) ++ leBytes 1 s.boot.restarts ++ leBytes 1 s.boot.latch)
  s.modBoot (fun b => { b with latch := 0xFF })

/-- A RESET record: its kind and cause. -/
def State.resetRecord (s : State) (kind cause : Nat) : State := s.journalAdd 0x05 kind 0 0 0 (leBytes 1 cause)

/-- The device halts in a step (R467): 1 by the step table, 2 by the restart limit, 3 INV_MIN. The record names the bridge that
stopped B05 (R23). -/
def State.halt (s : State) (step reason : Nat) (u : UnitId := .none) : State :=
  let s := (s.journalAdd 0x09 step 0 0 (unitCode u) (leBytes 1 reason)).eventAdd 0x09 step 2 (unitCode u) (leBytes 1 reason)
  (s.modBoot (fun b => { b with active := false, left := [] })).modReg (.stew .bootstat) (fun w => Word.setBit w 5 true)

/-! ### Exclusions (R346, R468, R469) -/

/-- The list of excluded units in effect. A change of the working stacks changes the interleave: DRAM keeps each stack's contents,
which then stand at other addresses, and those of a stack left out are out of reach (R345, R346; log 60). -/
def State.setExcl (s : State) (l : List UnitId) : State :=
  let n := { s with excl := l }
  if n.stacks = s.stacks then n.showBoot
  else
    let move := fun (pa : Nat) =>
      let p := s.place pa
      if n.stacks.contains p.stack then some (n.unplace p.stack (p.off / 4096) 0 + pa % 4096) else none
    let mem := s.mem.foldl (fun (m : List Host.Cell) (c : Host.Cell) =>
      if c.1 < s.dramTop then (match move c.1 with | some a => Mem.set m a c.2 | none => m) else Mem.set m c.1 c.2) []
    let poison := s.poison.filterMap (fun b => if 64 * b < s.dramTop then (move (64 * b)).map (· / 64) else some b)
    ({ n with mem := mem, poison := poison, corrected := [] } : State).showBoot

/-- A unit excluded: its record, the list in flash, and the list in effect. -/
def State.excludeUnit (s : State) (u : UnitId) (step reason : Nat) : State :=
  if s.excl.contains u then s
  else
    let s := s.journalAdd 0x03 step 0 0 (unitCode u) (leBytes 1 reason)
    let s := s.modBoot (fun b => { b with exclFlash := if b.exclFlash.contains u then b.exclFlash else b.exclFlash ++ [u] })
    s.setExcl (s.excl ++ [u])

/-- The unit that a failure of a step excludes: a tile's quad (R463). -/
def exclusionOf : UnitId → UnitId
  | .tile t => .quad (quadOfTile t)
  | u => u

/-! ### The attempt ladder (R466) -/

/-- Whether a CLEAR record clears a unit: the unit itself, or a tile's quad. -/
def clears (r : JRecord) (u : UnitId) : Bool := r.typ == 0x0A && r.code == 0 && (r.unit == unitCode u || r.unit == unitCode (exclusionOf u)) && r.unit != 0

/-- The failed STEP records of a unit since its last pass, over journal records, newest first. -/
def ladderFrom (step : Nat) (u : UnitId) : List JRecord → Nat
  | [] => 0
  | r :: t =>
    if clears r u then 0
    else if r.typ = 2 ∧ r.code = step ∧ r.unit = unitCode u then
      (if r.outcome ≤ 2 then 0 else if r.outcome ≤ 4 then 1 + ladderFrom step u t else ladderFrom step u t)
    else ladderFrom step u t

/-- The ladder count of a unit in a step. -/
def State.ladder (s : State) (step : Nat) (u : UnitId) : Nat := ladderFrom step u s.journal

/-- The steps that save training values, and those with a published alternate (R463, R464). -/
def savesValues (step : Nat) : Bool := [5, 6, 10, 11].contains step
def hasAlternate (step : Nat) : Bool := [4, 5, 6, 7, 10, 11].contains step

/-- The outcome of a unit that passes (R472). -/
def State.passOutcome (s : State) (step : Nat) (u : UnitId) : Nat :=
  if s.ladder step u = 0 then (if savesValues step ∧ s.boot.trained.contains (step, u) then 1 else 0)
  else if hasAlternate step then 2 else 0

/-! ### Steps B05 to B15 (R463, R464) -/

/-- The tiles that are not excluded, and those marked suspect (R553). -/
def State.workTiles (s : State) : List TileId := allTiles.filter (fun t => !s.tileExcl t)
def State.suspects (s : State) : List TileId := s.workTiles.filter (fun t => Word.bit (s.tileReg t .patstat) 0)

/-- The units of a step (R464, R474): none where the step is not run on anything. -/
def State.stepUnits (s : State) (step : Nat) : List UnitId :=
  match step with
  | 5 => (List.finRange 4).map .bridge
  | 6 => s.stacks.map .stack
  | 7 => s.workTiles.map .tile
  | 8 => s.workTiles.map .tile
  | 9 => s.stacks.map .stack
  | 10 => ((List.finRange 16).filter (fun p => !s.portExcl p && Word.bit (s.portReg p .portcfg) 0)).map .port
  | 11 => if s.excl.contains .host ∨ Word.bit (s.hostReg .hpcfg) 0 = false then [] else [.host]
  | 13 => if s.boot.base = 2 then s.suspects.map .tile else [.none]
  | _ => [.none]

/-- The section that a step loads: its type in the image header, and the measurement register it goes to (R525, R526). -/
def stepSection : Nat → Option (Nat × Fin 8)
  | 6 => some (3, 4)
  | 8 => some (2, 3)
  | 10 => some (4, 4)
  | 11 => some (5, 4)
  | _ => none

/-- Whether the section that a step loads matches its digest in the verified header. -/
def State.sectionGood (s : State) (step : Nat) : Bool :=
  match stepSection step, s.sec.running with
  | some (ty, _), some a => s.sectionsOk a s.sec.header [ty]
  | some _, none => false
  | none, _ => true

/-- A section loaded by a step is measured, once in a cold or module start. -/
def State.loadSection (s : State) (step : Nat) : State :=
  match stepSection step with
  | some (ty, k) => s.measureOnce step k (sectionDigest s.sec.header ty)
  | none => s

/-- A unit whose normal attempt and alternate have both failed (R463, R466): excluded, or its step skipped. -/
def State.giveUp (s : State) (step : Nat) (u : UnitId) : State :=
  let n := s.ladder step u
  if step = 14 ∨ (step = 13 ∧ s.boot.base ≠ 2) then s.stepRecord step 5 n u 0 0
  else (s.stepRecord step (if step = 11 then 5 else 6) n u 0 0).excludeUnit (exclusionOf u) step 1

/-- What an attempt by the published alternate sets: two lanes for a port, 800 Gbit/s for the host port (R463). -/
def State.alternate (s : State) (step : Nat) (u : UnitId) : State :=
  if s.ladder step u ≠ 1 then s
  else
    match step, u with
    | 10, .port p => s.modReg (.port p .portcfg) (fun w => Word.setBits w 1 2 1)
    | 11, _ => s.modReg (.host .hpcfg) (fun w => Word.setBits w 1 2 1)
    | _, _ => s

/-- The steward writes the ports' configuration and the routing tables from the copy it keeps in flash (R398, R475). -/
def State.loadPorts (s : State) : State :=
  { s with regs := s.flashRegs ++ s.regs.filter (fun x => !s.flashRegs.any (fun y => y.1 == x.1)), flashRegs := [] }

/-- Every port that may train does so from now on (R381). -/
def State.startPorts (s : State) : State :=
  (List.finRange 16).foldl (fun (s : State) p =>
    if !s.portExcl p && Word.bit (s.portReg p .portcfg) 0 && s.portState p == 0 then s.setPortState p 1 else s) s

/-- What the start of a step does before its units run: the dies leave reset at B05 (R461); a stack with 256 retired frames is
left out (R350); at B10 the ports have their configuration again and begin to train. -/
def State.preStep (s : State) (step : Nat) : State :=
  if step = 5 then { s with computeOn := true }
  else if step = 10 then s.loadPorts.startPorts
  else if step = 6 then
    (s.stacks.filter (fun k => decide (256 ≤ (s.retired.filter (fun r => r.stack == k)).length))).foldl
      (fun (s : State) k => s.excludeUnit (.stack k) 6 3) s
  else s

/-- The step after one: a warm start does not run B14 (R463). -/
def State.stepAfter (s : State) (step : Nat) : Nat := if step = 13 ∧ s.boot.base = 2 then 15 else step + 1

/-- A step begins: units that the ladder leaves out are done at once, and a step with nothing to run is over. A start without
enough working units halts at B15 (R470). `fuel` bounds the steps passed over. -/
def State.beginStep : Nat → State → Nat → State
  | 0, s, _ => s
  | fuel + 1, s, step =>
    let s := s.modBoot (fun b => { b with step := step, left := [], failed := false })
    if step = 15 then
      if s.stacks.length < 6 ∨ (List.finRange 4).any (fun d => allQuads.all (fun q => q.die != d || s.quadExcl q)) then s.halt 15 3
      else s.modBoot (fun b => { b with left := [.none] })
    else
      let s := s.preStep step
      let us := s.stepUnits step
      let out := us.filter (fun u => decide (2 ≤ s.ladder step u))
      if (step = 5 ∨ step = 12) ∧ out ≠ [] then s.halt step 1 (out.headD .none)
      else
        let s := out.foldl (fun (s : State) u => s.giveUp step u) s
        let us := (s.stepUnits step).filter (fun u => !out.contains u)
        if us = [] then State.beginStep fuel s (s.stepAfter step)
        else
          let s := us.foldl (fun (s : State) u => s.alternate step u) s
          (s.loadSection step).modBoot (fun b => { b with left := us })

/-- The host port comes up at B11 (R410, R424, R429): connection 0 is open for MGMT. -/
def State.hostBringUp (s : State) (inv : Nat) : State :=
  let s := s.modReg (.host .hpstat) fun w =>
    Word.setBits (Word.setBits (Word.setBits (Word.setBits w 0 2 2) 2 1 (Word.bits (s.hostReg .hpcfg) 1 2)) 3 8 0xFF) 11 8 inv
  if (s.conn 0).st = .opened then s else s.modConn 0 (fun _ => s.freshConn { Conn.reset with mg := true })

/-- What a unit's pass does. The tile monitor's entry address is a free value (log 61). -/
def State.unitPassed (s : State) (step : Nat) (u : UnitId) (detail : Nat) (entry : Word) : State :=
  match step, u with
  | 6, _ => { s with power := { s.power with selfRefresh := false } }
  | 8, .tile t => s.modTile t (fun T => { T with mtvec := writeMtvec 0 entry, mtvecLock := true })
  | 11, _ => s.hostBringUp detail
  | 12, _ => { s with cells := [] }
  | 13, .tile t => s.modReg (.tile t .patstat) (fun w => Word.setBit w 0 false)
  | 14, _ => ({ s with b14Passed := true } : State).showBoot
  | _, _ => s

/-- Whether a unit's checks hold beyond what the test found: a port is UP, and the section loaded is the right one. -/
def State.unitGood (s : State) (step : Nat) (u : UnitId) : Bool :=
  s.sectionGood step && (match step, u with | 10, .port p => s.portUp p | _, _ => true)

/-- A unit of the step in progress ends with a pass, a failure or its watchdog (R464, R472): its record, and what it does. A
suspect tile that fails its extended test takes its quad out (R468, R553). -/
def State.unitDone (s : State) (u : UnitId) (pass expired : Bool) (dur detail : Nat) (entry : Word) : State :=
  let step := s.boot.step
  let n := s.ladder step u
  let ok := pass && s.unitGood step u && !expired
  let code := match step, u with
    | 10, .port p => Word.bits (s.portReg p .lanediag) 0 32
    | 6, _ => detail
    | 7, _ => detail
    | 9, _ => detail
    | _, _ => 0
  let oc := if expired then 4 else if ok then s.passOutcome step u else 3
  let s := s.stepRecord step oc n u dur code
  let s := s.modBoot fun b => { b with
    left := b.left.filter (· != u), failed := b.failed || !ok,
    trained := if ok && savesValues step && !b.trained.contains (step, u) then (step, u) :: b.trained else b.trained }
  if ok then s.unitPassed step u detail entry
  else if step = 13 ∧ s.boot.base = 2 then s.excludeUnit (exclusionOf u) 13 2
  else s

/-! ### Resets of the dies (R460, R461, R475, R476) -/

/-- Whether a register returns to its cold-reset value in a warm reset. -/
def dropsWarm : Reg → Bool
  | .tile _ r => r.counter && r != .patstat
  | .quad _ r => r != .dlrcfg
  | .stack _ r => r != .stkcfg && r != .scrubpos
  | .port _ (.route _) => false
  | .port _ r => !r.isAnte && r != .portcfg && r != .routecfg && r != .timecfg
  | .host r => !([HostReg.hpcfg, .htcfg, .priomap, .cccfg, .macaddr, .ipv4addr, .ipv6addr0, .ipv6addr1].contains r)
  | .die _ (.grant _ _) => false
  | .die _ (.spill _ _) => false
  | .die _ r => r != .sigtimeo
  | .emb r => !([EmbReg.etabdir0, .etabdir1, .etabdir2, .etabdir3].contains r)
  | .stew _ => false

/-- Everything of the compute, bridge, link and host dies that a warm reset or an automatic restart loses. -/
def State.resetDies (s : State) : State :=
  let s := s.flushStacks
  let s := s.dropRegs dropsWarm
  let s := allTiles.foldl (fun (s : State) t =>
    (s.modReg (.tile t .mjob) (fun w => Word.setBit w 2 false)).modReg (.tile t .patstat) (fun w => Word.setBits 0 0 1 (Word.bits w 0 1))) s
  let s := allQuads.foldl (fun (s : State) q => s.modReg (.quad q .dlrcfg) (fun w => Word.setBits w 0 12 64)) s
  let conns := s.host.conns.filterMap (fun (x : Fin 1024 × Conn) =>
    if x.2.jb then some (x.1, { x.2 with st := .held, unacked := [], seen := [] })
    else if x.2.st = .opened then some (x.1, s.freshConn x.2) else none)
  { s with
    tiles := s.tiles.map (fun (x : TileId × Tile) => (x.1, { Tile.reset with seq := x.2.seq })),
    mem := Mem.clear s.mem 0x020000000000 0x030000000000, poison := s.poison.filter (fun b => decide (64 * b < 0x020000000000)),
    mesh := [], ranges := [], farResv := [], farWaits := [], psTab := [], notices := [], ledger := [], psWaiting := [],
    links := s.links.map (fun (x : PortId × LinkSt) => (x.1, { LinkSt.reset with eqSaved := x.2.eqSaved, saved := x.2.saved })),
    egress := [], transit := [], inbox := [], localPkts := [], cells := [], chasLines := [], computeOn := false,
    host := { HostSt.reset with conns := conns, reqs := s.host.reqs, part := s.host.part, i3cOut := s.host.i3cOut,
                                i3cAddr := s.host.i3cAddr, i3cEvents := s.host.i3cEvents, i3cRead := s.host.i3cRead },
    power := { s.power with selfRefresh := true, sitting := false, hold := false, railDown := [], critical := false }, mailbox := [], tbl := TblSt.reset }

/-- A job slot whose contexts have halted is STOPPED (R436, R448). -/
def State.haltSlot (s : State) (j : JSlot) : State :=
  let s := (s.partTiles (s.job j).dies).foldl (fun (s : State) t =>
    s.modTile t (fun T => { T with ctxs := (List.finRange 32).map (fun c => (c, { T.ctx c with halted := true })) })) s
  (s.modJob j (fun b => { b with st := .stopped })).jobEvent j

/-- Every RUNNING job of the device stops with a reason, unless it has already stopped, and its slot is STOPPED (R461). -/
def State.stopAll (s : State) (r : Reason) : State :=
  (List.finRange 4).foldl (fun (s : State) j =>
    if (s.job j).st = .running then
      let s := if (s.job j).stop.isSome then s else s.raise j r { unit := .job j }
      s.haltSlot j
    else s) s

/-- A warm reset (R461, R462): jobs stop with WARM_RESET, the slots are FREE until B15, the dies are reset, and the warm steps
begin. -/
def State.warmReset (s : State) (cause : Nat) : State :=
  let s := (s.stopAll .warmReset).resetRecord 2 cause
  let slots := (List.finRange 4).filter (fun j => (s.job j).st != .free)
  let s := s.readyFall 1
  let s := slots.foldl (fun (s : State) j =>
    (s.modJob j (fun b => { b with st := .free, locked := false, stop := none, warm := none, flooded := false })).jobEvent j) s
  let s := s.resetDies
  let s := s.modBoot fun b => { b with active := true, kind := 2, base := 2, restarts := 0, readmit := slots }
  let s := s.startRecord.setExcl s.boot.exclFlash
  State.beginStep 16 s 5

/-- An automatic restart (R467): after the third, the device halts. -/
def State.autoRestart (s : State) : State :=
  if 3 ≤ s.boot.restarts then s.halt s.boot.step 2
  else
    let s := (s.resetRecord 3 6).resetDies
    let s := s.modBoot fun b => { b with kind := 3, restarts := b.restarts + 1 }
    let s := s.startRecord.setExcl s.boot.exclFlash
    State.beginStep 16 s 5

/-- Whether a warm reset may begin: the device is READY and no reset is under way. -/
def State.canWarm (s : State) : Bool := s.boot.powered && s.boot.ready && !s.boot.active && !s.boot.mrst

/-- WARM_RESET: the steward orders one, for a class H fault or a received POWER_FAIL or THERMAL_CRIT once the jobs concerned have
stopped (R449), or for a suspect tile once no job is RUNNING (R553). -/
def execWarmReset (s : State) : Out :=
  .next (
    let owed := (List.finRange 4).filterMap (fun j => if (s.job j).st = .stopped then (s.job j).warm else none)
    if s.canWarm = false then s
    else
      match owed with
      | c :: _ => s.warmReset c
      | [] => if s.suspects ≠ [] ∧ (List.finRange 4).all (fun j => (s.job j).st != .running) then s.warmReset 1 else s)

/-! ### B15 (R462, R470, R526, R535) -/

/-- The inventory registers (R479). -/
def State.inventory (s : State) : State :=
  let sm := s.stacks.foldl (fun a k => a + 2 ^ k.val) 0
  let ports := (List.finRange 16).foldl (fun a p => if s.portExcl p then a else a + 2 ^ p.val) 0
  let quads := allQuads.foldl (fun a q => if s.quadExcl q then a else a + 2 ^ quadOrd q) 0
  let s := s.setReg (.stew .inv) (BitVec.ofNat 64 (sm + ports * 2 ^ 12 + (if s.excl.contains .host then 0 else 2 ^ 28)))
  let s := s.setReg (.stew .invq0) (BitVec.ofNat 64 (quads % 2 ^ 64))
  let s := s.setReg (.stew .invq1) (BitVec.ofNat 64 (quads / 2 ^ 64 % 2 ^ 64))
  s.setReg (.stew .invq2) (BitVec.ofNat 64 (quads / 2 ^ 128))

/-- What the first B15 of a cold or module start measures (R526), and the counter that an image with AUTOCOMMIT advances (R535). -/
def State.measureB15 (s : State) : State :=
  if s.sec.extended.contains 15 then s
  else
    let s := { s with sec := { s.sec with extended := 15 :: s.sec.extended } }
    let s := ((s.measure 5 (sha384 s.ownerFrame)).measure 5 (sha384 s.exclBytes)).measure 5 (sha384 (leBytes 2 (Word.bits (s.stewReg .seat) 0 16)))
    if leAt s.sec.header 0x0E 2 % 2 = 1 then s.raiseSvn (leAt s.sec.header 6 2) (leAt s.sec.header 0x10 4) else s

/-- A mailbox command that a reset abandoned ends with STATUS 8 (R572). -/
def State.abandonMail (s : State) : State :=
  ([0, 1, 2, 3, 4] : List (Fin 5)).foldl (fun (s : State) m =>
    if Word.bit (s.stewReg (.mbstat m)) 0 then s.modReg (.stew (.mbstat m)) (fun w => Word.setBits (Word.setBit w 0 false) 8 8 8) else s) s

/-- B15 passes: the inventory is published, slots are re-admitted, and READY rises. -/
def State.finishStart (s : State) (dur : Nat) : State :=
  let s := s.inventory.measureB15
  let s := s.boot.readmit.foldl (fun (s : State) j => s.readmitSlot j) s
  let s := s.stepRecord 15 0 (s.ladder 15 .none) .none dur 0
  let s := s.abandonMail.modBoot (fun b => { b with ready := true, active := false, left := [], readmit := [] })
  s.setPhase 2

/-! ### Steps B00 to B04 (R465, R525, R526, R532, R540) -/

/-- A failure of B00 to B03: B00 leaves the module off, the others halt it; B00 to B02 are latched on the root die (R463, R465). -/
def State.failEarly (s : State) : State :=
  let step := s.boot.step
  let s := s.modBoot fun b => { b with active := false, left := [], latch := if step ≤ 2 then step else b.latch, powered := b.powered && step != 0 }
  if step = 0 then s else s.modReg (.stew .bootstat) (fun w => Word.setBit w 5 true)

/-- CAPW from the cooling class of the seating code (R486, R515). -/
def State.capFromClass (s : State) : State :=
  let cool := if Word.bits (s.stewReg .cpfault) 21 3 ≠ 0 then 3 else Word.bits (s.stewReg .seat) 14 2
  let w := match cool with | 0 => 4400 | 1 => 3600 | 2 => 3000 | _ => 2400
  s.setReg (.stew .pwrcap) (BitVec.ofNat 64 w)

/-- The severity of a supply or thermal event (R555). -/
def supplySev (code : Nat) : Nat := if (3 ≤ code ∧ code ≤ 5) ∨ code = 0x32 ∨ code = 0x33 ∨ code = 0x50 then 2 else 1

/-- B03 passes: the identity is reconstructed, the journal is open, and what waited for it is written (R465, R471, R526, R540). In
`detail`, bit 0 says that the wrapped RSA key does not decrypt, bits [25:16] are the bit error rate found. -/
def State.selfTestPassed (s : State) (dur detail : Nat) : State :=
  let s := s.modReg (.stew .secstat) fun w =>
    Word.setBits (Word.setBit (Word.setBit w 12 true) 13 (!detail.testBit 0)) 16 10 (bitsOf detail 16 10)
  let s := s.setReg (.stew .jhead) (BitVec.ofNat 64 (s.jnext - 1 + s.boot.torn % 2 ^ 32 * 2 ^ 32))
  let s := if s.boot.kind = 1 then s.resetRecord 1 5 else s
  let s := s.startRecord
  let s := s.boot.early.foldl (fun (s : State) (x : Nat × Nat) => s.stepRecord x.1 0 (s.ladder x.1 .none) .none x.2 0) s
  let s := s.stepRecord 3 0 (s.ladder 3 .none) .none dur 0
  let s := s.boot.owed.foldl (fun (s : State) (x : Nat × List Byte) =>
    (s.eventMerged 0x02 x.1 (supplySev x.1) 0 x.2).journalAdd 0x06 x.1 0 0 0 x.2) s
  let s := (s.measure 0 romDigest).capFromClass
  (s.modBoot (fun b => { b with early := [], owed := [], step := 4, left := [.none] })).setExcl s.boot.exclFlash

/-- An image runs (R526, R546). -/
def State.runImage (s : State) (a : Fin 3) : State :=
  let h := s.imageHeader a
  let s := { s with sec := { s.sec with running := some a, header := h } }
  ((s.measure 1 (sha384 (slice h 0 0x700))).measure 2 (sectionDigest h 1)).showImage

/-- A rejected image's record (R531). -/
def State.rejectImage (s : State) (check dur : Nat) : State := s.stepRecord 4 3 (s.ladder 4 .none) .none dur check

/-- B04 fails for good: the halt record, and only IDENT is served (R532). -/
def State.failFirmware (s : State) : State := (s.halt 4 1).modBoot (fun b => { b with recovery := false })

/-- B04 with the replay-protected block authenticated (R525, R532): the active bank, the other one, then the recovery image. At
B04 check 8 covers the steward section. -/
def State.firmware (s : State) (dur : Nat) : State :=
  let s := (s.modReg (.stew .secstat) (fun w => Word.setBit w 11 true)).showOwner
  let main : Fin 3 := Fin.ofNat 3 s.sec.bank.val
  let other : Fin 3 := Fin.ofNat 3 (1 - s.sec.bank.val)
  let go := fun (s : State) (a : Fin 3) (oc : Nat) =>
    State.beginStep 16 ((s.runImage a).stepRecord 4 oc (s.ladder 4 .none) .none dur 0) 5
  let c := s.imageCheck main [1]
  if c = 0 then go s main 0
  else
    let s := s.rejectImage c dur
    let c := s.imageCheck other [1]
    if c = 0 then go s other 2
    else
      let s := s.rejectImage c dur
      let c := s.imageCheck 2 [1]
      if c = 0 then ((s.runImage 2).halt 4 1).modBoot (fun b => { b with recovery := true })
      else (s.rejectImage c dur).failFirmware

/-- A pass of one of B00 to B04; B02 needs PGOOD (R513), starts the timebase and locks the PLL (R493, R497). -/
def State.passEarly (s : State) (dur detail : Nat) : State :=
  let note := fun (b : Boot) => { b with early := b.early ++ [(b.step, dur)], step := b.step + 1 }
  match s.boot.step with
  | 0 => s.modBoot note
  | 1 => (s.modBoot (fun b => { note b with pgood := true })).setPhase 1
  | 2 =>
    if s.boot.pgood then
      (({ s with timebase := 0 } : State).modBoot note).modReg (.stew .clkstat) (fun w => Word.setBit (Word.setBit w 0 true) 1 true)
    else s
  | 3 => s.selfTestPassed dur detail
  | _ => s.firmware dur

/-! ### The commands of a start -/

/-- The end of a step's last unit: a failure ends the attempt (R467). -/
def State.endUnits (s : State) : State :=
  if s.boot.left ≠ [] ∨ s.boot.active = false then s
  else if s.boot.failed then s.autoRestart
  else State.beginStep 16 s (s.stepAfter s.boot.step)

/-- A step's outcome on one unit, or on every unit that has none yet. -/
def State.stepOutcome (s : State) (u : Option UnitId) (pass expired : Bool) (dur detail : Nat) : State :=
  if s.boot.active = false ∨ s.boot.powered = false ∨ s.boot.mrst ∨ s.power.hold then s
  else if s.boot.step < 4 then (if pass && !expired then s.passEarly dur detail else s.failEarly)
  else if s.boot.step = 4 then
    if pass && !expired then s.firmware dur
    else (s.stepRecord 4 (if expired then 4 else 3) (s.ladder 4 .none) .none dur 0).failFirmware
  else if s.boot.step = 15 then (if pass && !expired then s.finishStart dur else s)
  else
    let us := match u with
      | some u => if s.boot.left.contains u then [u] else []
      | none => s.boot.left
    if us = [] then s
    else
      let entry : Word := BitVec.ofNat 64 (Config.free s.free)
      let s := { s with free := s.free + 1 }
      (us.foldl (fun (s : State) u => s.unitDone u pass expired dur detail entry) s).endUnits

/-- BOOT_STEP: the step in progress passes or fails, on a unit or on all that are left (R463 to R467). -/
def execBootStep (u : Option UnitId) (pass : Bool) (dur detail : BitVec 32) (s : State) : Out :=
  .next (s.stepOutcome u pass false dur.toNat detail.toNat)

/-- BOOT_WATCHDOG: the watchdog of the step in progress expires; at the same moment as a pass it wins (R463, R477). -/
def execBootWatchdog (u : Option UnitId) (dur detail : BitVec 32) (s : State) : Out :=
  .next (s.stepOutcome u false true dur.toNat detail.toNat)

/-! ### Cold and module resets (R460, R475, R513) -/

/-- The state as a cold or module reset leaves it: flash, with the ports' settings and routing tables that the steward writes again from
it at B10 (R398, log 62), and with `module` what else flash and the journal restore (R475), and SUSPECT, which only the extended test
clears short of a cold reset (R553, R558); a job slot keeps its epoch (log 62). -/
def State.baseReset (s : State) (module : Bool) : State :=
  let keep : Reg → Bool := fun r => match r with
    | .stack _ .stkcfg => true
    | .tile _ .jptbase => true
    | r => !dropsWarm r && (match r with | .host _ => true | _ => false)
  let regs := if module then s.regs.filterMap (fun x => match x.1 with
      | .tile t .patstat => if Word.bit x.2 0 then some (.tile t .patstat, 1) else none
      | r => if keep r then some x else none)
    else []
  let saved := s.regs.filter (fun x => match x.1 with
    | .port _ (.route _) => true
    | .port _ r => module && !dropsWarm (.port 0 r)
    | _ => false)
  let b := s.boot
  let n : State := { State.reset with
    pending := s.pending, devId := s.devId, regs := regs, flashRegs := saved ++ s.flashRegs.filter (fun x => !saved.any (fun y => y.1 == x.1)), retired := s.retired, journal := s.journal,
    jnext := s.jnext, free := s.free,
    jobs := s.jobs.map (fun (x : JSlot × Job) => (x.1, { Job.reset with epoch := x.2.epoch })),
    sec := { s.sec with mr := [], running := none, header := [], extended := [], signing := none, queue := [] },
    cpPulse := s.cpPulse,
    boot := { Boot.reset with latch := b.latch, trained := b.trained, exclFlash := b.exclFlash, torn := b.torn, owed := b.owed } }
  if module then n.modReg (.stew .pwrstat) (fun w => Word.setBits w 48 16 (Word.bits (s.stewReg .pwrstat) 48 16)) else n

/-- A start begins at a step, of a kind. -/
def State.startAt (s : State) (kind step : Nat) (pgood : Bool) : State :=
  s.modBoot fun b => { b with powered := true, pgood := pgood, active := true, kind := kind, base := kind, step := step, left := [.none], restarts := 0 }

/-- Whether the thermal latch refuses power-up and MRST#: a sensor is not below 95.0 °C (R492). -/
def State.tooHot (s : State) : Bool := s.power.thermalOff && decide (950 ≤ Word.bits (s.stewReg .tempstat) 0 12)

/-- INPUT_POWER_GOOD: input power enters the operating range and a cold start begins (R460, R503). -/
def execInputPowerGood (s : State) : Out :=
  .next (if s.boot.powered ∨ s.tooHot then s else (s.baseReset false).startAt 0 0 false)

/-- MRST: the carrier asserts MRST#: PGOOD and READY fall, and everything but flash resets (R460, R475, R513). A latch is cleared
(R488); whether the rails were on, and so which start follows, `pgood` keeps until the release. -/
def execMrst (s : State) : Out :=
  .next (
    let p := s.power
    if s.tooHot ∨ (s.boot.powered || p.underVolt || p.overVolt || p.overCurrent || p.thermalOff) = false then s
    else
      let on := s.boot.powered
      let s := (s.readyFall 0).baseReset true
      s.modBoot (fun b => { b with mrst := true, powered := on }))

/-- MRST_RELEASE: seating runs again, and the start begins: from B02, or from B00 where the rails were off (R513, log 63). -/
def execMrstRelease (s : State) : Out :=
  .next (
    if s.boot.mrst then
      let s := s.modBoot (fun b => { b with mrst := false })
      if s.boot.powered then s.startAt 1 2 false else (s.baseReset false).startAt 0 0 false
    else s)

/-! ### Stops and tile resets -/

/-- CONTEXT_HALT: 2 µs after cause 19 every context of the slot halts, and the slot is STOPPED (R66, R448); a stop that calls for
it is followed by a warm reset (R449). -/
def execContextHalt (j : JSlot) (s : State) : Out :=
  .next (
    let b := s.job j
    if b.st = .running ∧ b.stop.isSome then
      let s := s.haltSlot j
      match b.warm with
      | some c => if s.canWarm then s.warmReset c else s
      | none => s
    else s)

/-- A tile reset (R460, R475), by the carving of the job that owns the tile. -/
def State.tileReset (s : State) (t : TileId) : State :=
  s.tileResetCore t (match s.owner t with | some j => (s.job j).scrtop | none => s.unownedTop t)

/-- TILE_RESET: a suspect tile, on which no job runs any more, is reset (R460, R553). -/
def execTileReset (t : TileId) (s : State) : Out :=
  .next (
    if Word.bit (s.tileReg t .patstat) 0 ∧ s.tileExcl t = false ∧ s.computeOn ∧ (List.finRange 4).all (fun j =>
        (s.job j).st != .running || !(s.job j).dies.testBit t.die.val) then s.tileReset t
    else s)

/-! ### Folding (R474 to R476) -/

/-- Whether every context of a tile is PARKED. -/
def Tile.allParked (T : Tile) : Bool := T.ctxs.all (fun (x : CtxId × Ctx) => decide (x.2.st = .parked))

/-- A tile folded: without retention its SRAM and carving are lost, and with the quad's last tile so are the dealer's settings. -/
def State.foldTile (s : State) (t : TileId) (retain : Bool) : State :=
  let s := s.modTile t (fun T => if retain then { T with folded := true, retained := true } else { T.clear with folded := true, retained := false })
  if retain then s
  else
    let s := s.clearCounters [t] []
    let s := s.dropRegs (fun r => r == .tile t .meldcfg || r == .tile t .dlrsave || r == .tile t .kstage)
    let s := { s with mem := Mem.clear s.mem (sramPa t 0) (sramPa t 0x1000000) }
    let q := quadOfTile t
    if (quadTiles q).all (fun u => (s.tile u).folded && !(s.tile u).retained) then s.setReg (.quad q .dlrcfg) QuadReg.dlrcfg.reset else s

end Sys2Proof.Machine
end

