-- ==== Sys2Proof/Machine/Dealer.lean ====
section
/-! DEFINITION. The dealer (R117 to R146), the start and the end of tasks (R84, R114, R128, R129), save records (R135, R136),
and the binding instructions (R34 to R36). -/

namespace Sys2Proof.Machine

/-! ### Items (R118 to R121) -/

/-- Whether a tile's job runs, so that the tile accepts work (R37). -/
def State.live (s : State) (t : TileId) : Bool :=
  s.computeOn && !s.tileExcl t && !(s.tile t).folded &&
  (match s.owner t with
    | some j => decide ((s.job j).st = .running ∧ (s.job j).stop = none)
    | none => false)

/-- The PARKED contexts of a tile that can take work. -/
def State.parked (s : State) (t : TileId) : List CtxId :=
  if s.live t then
    (List.finRange 32).filter (fun c => let k := (s.tile t).ctx c; decide (k.st = .parked) && !k.halted)
  else []

/-- The fired slot of a hand item. -/
def Tile.fired? (T : Tile) (idx : Nat) : Option Slot :=
  match Tab.find? T.slots idx with
  | some e => if e.st = .fired then some e else none
  | none => none

/-- Whether a slot's entry lies on a far page and has not come yet. -/
def State.entryAwaited (s : State) (t : TileId) (e : Slot) : Bool := (s.cachedEntry t e).isNone && s.entryFar t e

/-- The entry of an item on a far page taken up from the data that a command brings (R363). -/
def State.fillEntry (s : State) (t : TileId) (idx : Nat) (far : List Byte) : State :=
  match (s.tile t).fired? idx with
  | some e => if s.entryAwaited t e ∧ 8 ≤ far.length then (s.taskEntry t e far).2 else s
  | none => s

/-- Whether a slot's item is delivered as a deal interrupt (R120). One whose entry has not come from its far page is not known to
be one, and is neither dealt nor delivered. -/
def State.isIrq (s : State) (home : TileId) (e : Slot) : Bool :=
  e.suit == 0 && !s.entryAwaited home e && (match (s.taskEntry home e []).1 with
    | .ok w => w.testBit 0 && decide (2 ≤ w)
    | .error _ => false)

/-- The affinity tile of a slot (R124). -/
def affinity (home : TileId) (e : Slot) : TileId := if quadOfTile e.last = quadOfTile home then e.last else home

/-- The cycles an item has waited since it became FIRED (R124, R141). -/
def State.waited (s : State) (home : TileId) (e : Slot) : Nat := (s.tileReg home .cycle).toNat - e.firedAt

/-- The contexts of a tile that are not PARKED. -/
def Tile.load (T : Tile) : Nat := (T.ctxs.filter (fun p => decide (p.2.st ≠ .parked))).length

/-- The tile that a task item goes to: its affinity tile, or after AFF_WAIT the least loaded of the quad (R124). The value of
AFF_WAIT as it stands applies to the item's age (R139). -/
def State.placeOf (s : State) (home : TileId) (e : Slot) : Option TileId :=
  let q := quadOfTile home
  let aff := affinity home e
  if s.parked aff ≠ [] then some aff
  else if e.suit = 0 ∨ (e.waited ∧ Word.bits (s.quadReg q .dlrcfg) 0 12 ≤ s.waited home e) then
    ((quadTiles q).filter (fun t => s.parked t ≠ [])).foldl (fun (b : Option TileId) t =>
      match b with
      | none => some t
      | some o => if (s.tile t).load < (s.tile o).load then some t else some o) none
  else none

/-- Whether the first of two contexts is taken before the second: lower suit, earlier deal, lower tile, lower context
(R130, R133). A context that runs no task ranks with the suit and deal time of its last one, 0 at reset: the spec gives it none
(the model's choice, log 88). -/
def State.takenFirst (s : State) (a b : CtxRef) : Bool :=
  let x := s.ctx a
  let y := s.ctx b
  if x.suit ≠ y.suit then decide (y.suit < x.suit)
  else if x.dealTime ≠ y.dealTime then decide (x.dealTime < y.dealTime)
  else if a.tile ≠ b.tile then decide (tileNum a.tile < tileNum b.tile)
  else decide (a.ctx < b.ctx)

/-- The context taken first of a list. -/
def State.pickFirst (s : State) (l : List CtxRef) : Option CtxRef :=
  l.foldl (fun (b : Option CtxRef) c => match b with
    | none => some c
    | some o => if s.takenFirst c o then some c else some o) none

/-- Every context of a quad. -/
def quadCtxs (q : QuadId) : List CtxRef := (quadTiles q).flatMap (fun t => (List.finRange 32).map (fun c => { tile := t, ctx := c }))

/-- Whether a context runs a task. -/
def Ctx.inTask (k : Ctx) : Bool := Word.bit k.tasksrc 32

/-- Whether a context may be a pre-emption victim (R133). -/
def State.victimOk (s : State) (c : CtxRef) : Bool :=
  let k := s.ctx c
  let T := s.tile c.tile
  s.live c.tile && T.pre.isNone && !k.halted && decide (k.st = .ready ∨ k.st = .stalled ∨ k.st = .binding ∨ k.st = .waiting)
    && decide (k.priv = .u) && k.inTask && k.suit != 0 && !k.tend && !Word.bit k.mip 16
    && decide (T.saved.length < s.saveI c.tile)
    && (k.vctx.isNone || decide ((T.saved.filter (fun x => x.vrec.isSome)).length < s.saveV c.tile))

/-- The victim of a quad (R133). -/
def State.victim (s : State) (q : QuadId) : Option CtxRef := s.pickFirst ((quadCtxs q).filter s.victimOk)

/-- Whether a running context may be the target of a deal interrupt (R130). -/
def State.targetOk (s : State) (c : CtxRef) : Bool :=
  let k := s.ctx c
  s.live c.tile && !k.halted && decide (k.st ≠ .parked ∧ k.st ≠ .saved)
    && (match (s.tile c.tile).pre with | some p => p.victim != c.ctx | none => true)
    && (match k.wait with | some w => w.kind != .early | none => true)
    && !(k.inTask && k.suit == 0) && Word.bit k.mie 16 && (k.priv == .u || k.mie1) && !Word.bit k.mip 16

/-- The running target of a deal interrupt: contexts of the affinity tile first (R130). -/
def State.irqTarget (s : State) (home : TileId) (e : Slot) : Option CtxRef :=
  let q := quadOfTile home
  if Word.bit (s.quadReg q .dlrcfg) 13 = false then none
  else
    let ok := (quadCtxs q).filter s.targetOk
    match s.pickFirst (ok.filter (fun c => c.tile == affinity home e)) with
    | some c => some c
    | none => s.pickFirst ok

/-- Whether no tile of a quad has a PARKED context. -/
def State.noneParked (s : State) (q : QuadId) : Bool := (quadTiles q).all (fun t => s.parked t == [])

/-- Whether a task item can be placed, by a deal or by a pre-emption (R121, R133). -/
def State.taskEligible (s : State) (home : TileId) (e : Slot) : Bool :=
  let q := quadOfTile home
  (s.placeOf home e).isSome ||
  (e.suit == 0 && Word.bit (s.quadReg q .dlrcfg) 12 && s.noneParked q && (s.victim q).isSome)

/-- Whether a deal-interrupt item has a target (R130). -/
def State.irqEligible (s : State) (home : TileId) (e : Slot) : Bool :=
  (s.irqTarget home e).isSome || !s.noneParked (quadOfTile home)

/-- The SRAM offsets of a tile's records (R135). -/
def State.irecAt (s : State) (t : TileId) (i : Nat) : Nat := s.saveBase t + 1024 * i
def State.vrecAt (s : State) (t : TileId) (i : Nat) : Nat := s.saveBase t + 1024 * s.saveI t + 67584 * i

/-- The vector record that a saved context's integer record names (R135). -/
def State.recVrec (s : State) (t : TileId) (x : Saved) : Option Nat :=
  let w := s.num (sramPa t (s.irecAt t x.irec + 0x170)) 1
  if w.testBit 3 then some (bitsOf w 4 3) else none

/-- Whether a saved context can be restored (R137). -/
def State.restoreEligible (s : State) (t : TileId) (x : Saved) : Bool :=
  s.parked t != [] && (s.tile t).pre.isNone && ((s.recVrec t x).isNone || s.freeVctxs t != [])

/-- Whether a quad has an eligible item of a suit (R121). -/
def State.suitEligible (s : State) (q : QuadId) (u : Suit) : Bool :=
  (quadTiles q).any fun t =>
    (s.tile t).saved.any (fun x => x.suit == u && s.restoreEligible t x) ||
    (s.tile t).hand.any (fun h => h.suit == u && (match (s.tile t).fired? h.idx with
      | some e => if s.isIrq t e then s.irqEligible t e else s.taskEligible t e
      | none => false))

/-! ### Dispatch (R122, R126, R141) -/

/-- The guard count of a quad (R122), shown in DGUARD (R140). -/
def State.guardOf (s : State) (q : QuadId) : Nat := Word.bits (s.quadReg q .dguard) 32 4

/-- Whether the guard makes the next dispatch one of class 2 or 3. -/
def State.guardDue (s : State) (q : QuadId) : Bool := s.guardOf q == 15 && (s.suitEligible q 2 || s.suitEligible q 3)

/-- Whether the dealer takes a suit now: the highest with an eligible item, or the guard's (R121, R122). -/
def State.takesSuit (s : State) (q : QuadId) (u : Suit) : Bool :=
  if s.guardDue q then u == (if s.suitEligible q 2 then 2 else 3)
  else (List.finRange 4).all (fun v => decide (u ≤ v) || !s.suitEligible q v)

/-- A dispatch counted: the suit, the guard count and the guard's dispatches (R122, R140). -/
def State.dispatched (s : State) (q : QuadId) (u : Suit) : State :=
  let due := s.guardDue q
  let low := s.suitEligible q 2 || s.suitEligible q 3
  let g := if 2 ≤ u.val then 0 else if low then min 15 (s.guardOf q + 1) else s.guardOf q
  let s := s.modReg (.quad q .dguard) (fun w => Word.setBits (if due then Word.addBits w 0 32 1 else w) 32 4 g)
  s.modReg (.quad q (dsuitReg u)) (fun w => Word.addBits w 0 32 1)

/-- The histogram bucket of a waiting time (R141). -/
def histBucket (w : Nat) : Fin 16 := if w < 16 then 0 else Fin.ofNat 16 (min 15 (Nat.log2 w - 3))

/-- A waiting time entered in a suit's histogram, and its highest non-empty bucket shown (R140, R141). -/
def State.histAdd (s : State) (q : QuadId) (u : Suit) (w : Nat) : State :=
  let b := histBucket w
  let s := s.modReg (.quad q (.hist u b)) (fun w => Word.addSat w 0 32 1)
  s.modReg (.quad q (dsuitReg u)) (fun w => Word.setBits w 32 4 (max (Word.bits w 32 4) b.val))

/-- Spilled entries refilled while the hand has room, highest suit first (R118). -/
def State.refill : Nat → State → TileId → State
  | 0, s, _ => s
  | n + 1, s, t =>
    let T := s.tile t
    if 1024 ≤ T.hand.length then s
    else
      let high := T.spilled.foldl (fun a h => min a h.suit.val) 3
      match s.pick (T.spilled.filter (fun h => h.suit.val == high)) with
      | (none, s) => s
      | (some h, s) =>
        let s := s.modTile t (fun T => { T with hand := T.hand ++ [h], spilled := eraseFirst (· == h) T.spilled })
        State.refill n ((s.bumpHi (.tile t .dspill)).moveKitty t 16 false) t

/-- An item taken from its hand. -/
def State.takeItem (s : State) (t : TileId) (h : HandItem) : State :=
  State.refill 1024 (s.modTile t (fun T => { T with hand := eraseFirst (· == h) T.hand })) t

/-! ### Task start (R84, R114, R127, R128) -/

/-- TASKPOT of a slot (R114). -/
def Slot.taskpot (e : Slot) : Word :=
  BitVec.ofNat 64 (e.sat.toNat + e.nan.toNat * 2 + (e.n == 0).toNat * 4 + e.cut.toNat * 8
    + (if e.cut then e.km1 % 64 * 16 else 0) + e.satcnt % 2 ^ 32 * 2 ^ 32)

/-- The name of a slot in 20 bits. -/
def Slot.name20 (e : Slot) : Nat :=
  match e.name with
  | .prog n => n.toNat
  | .shard r => r.slot.toNat

/-- TASKSRC of a slot (R128). -/
def Slot.tasksrc (home : TileId) (e : Slot) : Word :=
  BitVec.ofNat 64 (tileNum home + e.name20 * 2 ^ 10 + e.suit.val * 2 ^ 30 + 2 ^ 32)

/-- A context as a deal starts it: pc from the task table, x10 to x15 from the slot, all other integer registers 0 (R84). -/
def Ctx.start (k : Ctx) (home : TileId) (e : Slot) (entry now : Nat) : Ctx :=
  { k with st := .ready, stall := .none, priv := .u, pc := BitVec.ofNat 64 (entry / 2 * 2), resv := none, wait := none, tend := false,
           vctx := none, saud := [], suit := e.suit, dealTime := now, tasksrc := e.tasksrc home, taskn := BitVec.ofNat 64 e.n,
           taskpot := e.taskpot,
           x := [(10, Tab.get 0 e.opw 0), (11, Tab.get 0 e.opw 1), (12, Tab.get 0 e.opw 2), (13, Tab.get 0 e.opw 3),
                 (14, BitVec.ofNat 64 e.name20), (15, match e.ptr with | some o => BitVec.ofNat 64 o | none => Word.ones)] }

/-- The task of a fired slot started in a context (R84, R127); a bad entry is a job fault and starts nothing. -/
def State.startTask (s : State) (home : TileId) (idx : Nat) (e : Slot) (c : CtxRef) (far : List Byte) : State :=
  match s.taskEntry c.tile e far with
  | (.error x, s) => s.raiseEngine c.tile (some c.ctx) x { engine := some .dealer }
  | (.ok w, s) =>
    if w < 2 then s.raiseTile home .taskEntry { addr := e.name20 }
    else
      let s := s.setSlot home idx { e with st := .running, last := c.tile }
      let s := s.modCtx c (fun k => k.start home e w s.now)
      s.flushCache c.tile

/-- A deal counted: an affinity hit or miss (R124). -/
def State.countAff (s : State) (home : TileId) (e : Slot) (t : TileId) : State :=
  if t = affinity home e then s.bumpLo (.tile t .daff) else s.bumpHi (.tile t .daff)

/-- Whether a restore item goes before a new item of a suit on a tile (R137). -/
def State.restoreFirst (s : State) (t : TileId) (u : Suit) : Bool :=
  (s.tile t).saved.any (fun x => x.suit == u && s.restoreEligible t x)

/-- DEAL: a task item placed on a PARKED context (R121 to R127). `idx` names the slot entry of the item, `ctx` the context
that takes it; `far`: the task-table entry where it lies on a far page. -/
def execDeal (home : TileId) (idx : Nat) (ctx : CtxId) (far : List Byte) (s : State) : Out :=
  let q := quadOfTile home
  let s := s.fillEntry home idx far
  .next (
    match (s.tile home).fired? idx, (s.tile home).hand.find? (fun h => h.idx == idx) with
    | some e, some h =>
      match s.placeOf home e with
      | none => s
      | some t =>
        if s.entryAwaited home e ∨ s.isIrq home e ∨ s.takesSuit q e.suit = false ∨ s.restoreFirst t e.suit ∨ (s.parked t).contains ctx = false then s
        else
          let s := (s.dispatched q e.suit).histAdd q e.suit (s.waited home e)
          let s := ((s.bump t .ddeals).countAff home e t).takeItem home h
          s.startTask home idx e { tile := t, ctx := ctx } far
    | _, _ => s)

/-- AFFINITY_WAIT_EXPIRY: where an item's AFF_WAIT cycles have passed since it became FIRED, it may go to any tile of the quad
(R124). -/
def execAffinityWaitExpiry (home : TileId) (idx : Nat) (s : State) : Out :=
  .next (
    match (s.tile home).fired? idx with
    | some e =>
      if (s.tile home).hand.any (fun h => h.idx == idx) ∧ Word.bits (s.quadReg (quadOfTile home) .dlrcfg) 0 12 ≤ s.waited home e then
        s.setSlot home idx { e with waited := true }
      else s
    | none => s)

/-! ### The end of a task (R36, R82, R129) -/

/-- A slot that its task leaves: RETIRED, its pot row freed, operands and counts cleared; the tokens held for it are
replayed (R82). -/
def State.retireSlot (s : State) (t : TileId) (slot : BitVec 20) : State :=
  match (s.tile t).findSlot (.prog slot) with
  | some (i, e) =>
    if e.st = .running then
      let s := s.setSlot t i { Slot.fresh e.name e.last with st := .retired }
      (s.occupancy t).replayEarly t e.name
    else s
  | none => s

/-- Whether the engine work of a context's binding is done (R34, R36): its queue, and sends that read its tile rows. -/
def State.bindingDrained (s : State) (c : CtxRef) : Bool :=
  match (s.ctx c).vctx with
  | none => true
  | some v =>
    (s.vctx c.tile v).queue == [] && !(s.tile c.tile).tokq.any (fun q => match q.kind with
      | .token _ (.rows w _ _) => w == v
      | _ => false)

/-- TEND (R129, R162, R314, R332). -/
def execTend (c : CtxRef) (f : RFields) (s : State) : Out :=
  .next (s.issue c 4 fun s =>
    let k := s.ctx c
    if f.rd ≠ 0 ∨ f.rs1 ≠ 0 ∨ f.rs2 ≠ 0 ∨ k.inTask = false ∨ k.inIrq then s.illegal c (rWord 0x7B 6 0 f)
    else if s.bindingDrained c = false then (s.modCtx c (fun k => { k with tend := true })).stallRetry c
    else
      let s := s.unbind c
      let s := (s.abortStreams c (fun _ => true)).withdrawWait c
      let s := s.auditEnd c (Word.bits k.tasksrc 10 20)
      let home := (tileOf? (Word.bits k.tasksrc 0 10)).getD c.tile
      let s := s.retireSlot home (BitVec.ofNat 20 (Word.bits k.tasksrc 10 20))
      let s := s.modCtx c fun k =>
        { k with st := .parked, stall := .none, tend := false, tasksrc := 0, taskn := 0, taskpot := 0, instret := k.instret + 1,
                 pc := k.pc + 4, resv := none, wait := none }
      s.progress c.tile)

/-! ### Deal interrupts (R130 to R132) -/

/-- The contexts that a deal-interrupt item goes to when no running one qualifies: PARKED ones, of the affinity tile first
(R130). -/
def State.irqParked (s : State) (home : TileId) (e : Slot) : List CtxRef :=
  let aff := affinity home e
  let of := fun (t : TileId) => (s.parked t).map (fun c => ({ tile := t, ctx := c } : CtxRef))
  if s.parked aff ≠ [] then of aff else (quadTiles (quadOfTile home)).flatMap of

/-- The deal-interrupt CSRs of a context (R142). -/
def Ctx.setIrq (k : Ctx) (home : TileId) (e : Slot) (entry : Nat) (park : Bool) : Ctx :=
  { k with mdirq := BitVec.ofNat 64 (1 + park.toNat * 2 + tileNum home * 4 + e.name20 * 2 ^ 12 + e.entry % 2 ^ 16 * 2 ^ 32),
           mdirqw := e.opw, mdirqpc := BitVec.ofNat 64 (entry / 2 * 2) }

/-- DEAL_INTERRUPT: a class 0 event delivered to one context (R130, R131). A running target takes cause 16 by INTERRUPT; a
PARKED one takes the trap at once, from pc 0 in M-mode. `ctx` is the PARKED context where the item goes to one. -/
def execDealInterrupt (home : TileId) (idx : Nat) (ctx : CtxRef) (far : List Byte) (s : State) : Out :=
  let q := quadOfTile home
  let s := s.fillEntry home idx far
  .next (
    match (s.tile home).fired? idx, (s.tile home).hand.find? (fun h => h.idx == idx) with
    | some e, some h =>
      let target := match s.irqTarget home e with
        | some c => some (c, false)
        | none => if (s.irqParked home e).contains ctx then some (ctx, true) else none
      match target with
      | none => s
      | some (c, park) =>
        if s.isIrq home e = false ∨ s.takesSuit q 0 = false then s
        else
          match s.taskEntry c.tile e far with
          | (.error x, s) => s.raiseEngine c.tile (some c.ctx) x { engine := some .dealer }
          | (.ok w, s) =>
            let s := ((s.dispatched q 0).takeItem home h).bumpLo (.tile c.tile .dpre)
            let s := s.setSlot home idx { e with st := .running, last := c.tile }
            if park then
              s.modCtx c fun k =>
                let k := { k.setIrq home e w true with st := .ready, stall := .none, priv := .m, pc := 0 }
                k.trap (s.tile c.tile).mtvec 16 true 0
            else s.modCtx c (fun k => (k.setIrq home e w false).pend 16)
    | _, _ => s)

/-! ### Save records (R135, R136) -/

/-- The code of a context state in a save record (R135). -/
def saveCode (st : CtxSt) : Nat :=
  match st with
  | .binding => 3
  | .waiting => 4
  | _ => 1

/-- The wait state of a record (R315). -/
def waitBytes (w : Option WaitRec) : List Byte :=
  match w with
  | some r =>
      leBytes 8 (r.vid.toNat + r.die.val * 2 ^ 16 + r.cell.val * 2 ^ 18 + 2 ^ 34 + r.consume.toNat * 2 ^ 35 + r.intr.toNat * 2 ^ 36
        + r.hold.toNat * 2 ^ 37 + (r.kind != .signal).toNat * 2 ^ 38) ++ Word.bytes r.threshold ++ List.replicate 16 0
  | none => List.replicate 32 0

/-- Whether a context has blocked in an instruction that has not retired: in BINDING, in a blocking wait or in a hold. -/
def Ctx.blocked (k : Ctx) : Bool :=
  k.st == .binding || (k.st == .waiting && (match k.wait with | some w => !w.armed | none => false))

/-- The pc of a context's next instruction: past the VBIND, WAIT, BWAIT or BARRIVE in which it has blocked (R135). -/
def Ctx.nextPc (k : Ctx) : Word := if k.blocked then k.pc + 4 else k.pc

/-- The integer record of a context (R135). `handles`: its suspended streams (R163). -/
def Ctx.record (k : Ctx) (st : CtxSt) (vrec : Option Nat) (handles : List Nat) : List Byte :=
  ((List.finRange 32).flatMap (fun r => Word.bytes (k.getX r))) ++ Word.bytes k.nextPc
  ++ Word.bytes k.mstatus ++ Word.bytes k.mepc ++ Word.bytes k.mcause ++ Word.bytes k.mtval ++ Word.bytes k.mscratch
  ++ Word.bytes k.mie ++ Word.bytes k.mip ++ Word.bytes k.mtimecmp ++ Word.bytes k.instret
  ++ Word.bytes k.tasksrc ++ Word.bytes k.taskn ++ Word.bytes k.taskpot ++ Word.bytes k.tkarg
  ++ leBytes 8 (saveCode st + vrec.isSome.toNat * 8 + (vrec.getD 0) % 8 * 16 + k.suit.val * 2 ^ 8)
  ++ leBytes 8 k.dealTime
  ++ padTo 128 (Word.bytes k.gctl)
  ++ padTo 64 (Word.bytes k.sigcfg) ++ ((List.finRange 8).flatMap (fun i => Word.bytes (Tab.get 0 k.saud i)))
  ++ waitBytes k.wait
  ++ padTo 96 (handles.flatMap (fun n => leBytes 8 (n + 64))) ++ List.replicate 256 0

/-- A word of a record. -/
def recWord (b : List Byte) (off : Nat) : Word := BitVec.ofNat 64 (leAt b off 8)

/-- A context as its integer record holds it (R135, R137); MIP's timer bit follows from MTIMECMP. -/
def Ctx.ofRecord (k : Ctx) (b : List Byte) (now : Nat) : Ctx :=
  let k := { k with
    x := (List.finRange 32).filterMap (fun (r : XReg) => if r = 0 then none else some (r, recWord b (8 * r.val))), pc := recWord b 0x100,
    mepc := recWord b 0x110, mcause := recWord b 0x118, mtval := recWord b 0x120, mscratch := recWord b 0x128,
    mie := recWord b 0x130, mtimecmp := recWord b 0x140, instret := recWord b 0x148, tasksrc := recWord b 0x150,
    taskn := recWord b 0x158, taskpot := recWord b 0x160, tkarg := recWord b 0x168, suit := Fin.ofNat 4 (bitsOf (leAt b 0x170 8) 8 2),
    dealTime := leAt b 0x178 8, gctl := recWord b 0x180, sigcfg := recWord b 0x200,
    saud := (List.finRange 8).map (fun i => (i, recWord b (0x240 + 8 * i.val))), resv := none, tend := false }
  let k := k.setMstatus (recWord b 0x108)
  { k with mip := Word.setBit (recWord b 0x138) 21 (decide (k.mtimecmp.toNat ≤ now)) }

/-- The vector CSRs in a vector record, by their place. -/
def vrecCsrs : List Nat := [0x800, 0x801, 0x802, 0x810, 0x811, 0x812, 0x818]

/-- The vector record of a vector context (R136). -/
def VCtx.record (v : VCtx) : List Byte :=
  v.file.bytes 0 0x10400
  ++ ((List.range 32).flatMap (fun i => Word.bytes ((v.csr (0x800 + i)).getD 0)))
  ++ Word.bytes v.file.stat ++ ((List.finRange 4).flatMap (fun (a : Fin 4) => Word.bytes (Tab.get 0 v.file.acc a)))
  ++ List.replicate 728 0

/-- A vector context as its record holds it. -/
def VCtx.ofRecord (owner : CtxId) (b : List Byte) : VCtx :=
  let v := { VCtx.reset with owner := some owner }
  let v := vrecCsrs.foldl (fun (v : VCtx) n => v.putCsr n (recWord b (0x10400 + 8 * (n - 0x800)))) v
  { v with file := { image := Mem.setBytes [] 0 (b.take 0x10400), stat := recWord b 0x10500,
                     acc := (List.finRange 4).map (fun a => (a, recWord b (0x10508 + 8 * a.val))) } }

/-! ### Pre-emption (R133, R134, R139) -/

/-- PREEMPT: a class 0 task item that finds no PARKED context in the quad takes a victim, which stops issuing (R133,
R134). -/
def execPreempt (home : TileId) (idx : Nat) (s : State) : Out :=
  let q := quadOfTile home
  .next (
    match (s.tile home).fired? idx, (s.tile home).hand.find? (fun h => h.idx == idx), s.victim q with
    | some e, some h, some c =>
      if e.suit ≠ 0 ∨ s.isIrq home e ∨ Word.bit (s.quadReg q .dlrcfg) 12 = false ∨ s.noneParked q = false
          ∨ s.takesSuit q 0 = false then s
      else
        let s := ((s.dispatched q 0).histAdd q 0 (s.waited home e)).takeItem home h
        let s := s.modTile c.tile (fun T => { T with pre := some { victim := c.ctx, home := home, item := h } })
        (s.modCtx c (fun k => { k with resv := none })).abandonIsect c
    | _, _, _ => s)

/-- Whether a victim's issued loads, its stores, and every engine operation that it queued have completed (R134): its vector context,
its sends and transfers, and far accesses. Stores are waited for too, as the model's choice (log 88); table operations are
not (R295). -/
def State.victimDrained (s : State) (c : CtxRef) : Bool :=
  !(s.tile c.tile).memq.any (fun o => o.ctx == c.ctx)
  && decide ((s.ctx c).stall ≠ .result) && s.bindingDrained c && s.enginesDrained c

/-- A victim saved: records written, its streams suspended, its vector context freed, its hardware context PARKED (R134,
R135, R163, R315). -/
def State.saveCtx (s : State) (c : CtxRef) (irec : Nat) (vrec : Option Nat) : State :=
  let t := c.tile
  let s := { s with free := s.free + 2 }
  let k := s.ctx c
  let mine := ((s.tile t).streams.filter (fun p => p.2.owner == some c.ctx)).map (·.1)
  let s := match vrec, k.vctx with
    | some r, some v => s.write (sramPa t (s.vrecAt t r)) (s.vctx t v).record
    | _, _ => s
  let st : CtxSt := if k.st = .stalled then .ready else k.st
  let s := s.write (sramPa t (s.irecAt t irec)) (k.record st vrec mine)
  let rd := ((s.tile t).bindq.find? (fun b => b.ctx == c.ctx)).elim 0 (·.rd)
  let sv : Saved := { irec := irec, vrec := vrec, suit := k.suit, dealTime := k.dealTime, st := st, priv := k.priv, wait := k.wait,
                      bindRd := rd, oldCtx := c.ctx }
  let s := s.holdTable t (tableKey c.ctx.val) (savedTableKey irec) (s.tbl.hold t c.ctx irec)
  let s := s.modTile t fun T =>
    { T with saved := T.saved ++ [sv], bindq := T.bindq.filter (fun b => b.ctx != c.ctx),
             streams := T.streams.map (fun p => if p.2.owner = some c.ctx then (p.1, { p.2 with owner := none }) else p) }
  let s := s.unbind c
  s.modCtx c fun k => { k with st := .parked, stall := .none, wait := none, tasksrc := 0, taskn := 0, taskpot := 0, resv := none }

/-- The free save records that a save takes: the spec lets it take any (log 22). -/
def State.freeIrec (s : State) (t : TileId) : Option Nat :=
  s.choose 0 ((List.range (s.saveI t)).filter (fun i => !(s.tile t).saved.any (fun x => x.irec == i)))
def State.freeVrec (s : State) (t : TileId) : Option Nat :=
  s.choose 1 ((List.range (s.saveV t)).filter (fun i => !(s.tile t).saved.any (fun x => x.vrec == some i)))

/-- PREEMPT_SAVE: the victim has drained; it is saved, and the class 0 task is dealt into its context (R134). A victim that
parked first is not saved (R139). -/
def execPreemptSave (t : TileId) (far : List Byte) (s : State) : Out :=
  .next (
    match (s.tile t).pre with
    | none => s
    | some p =>
      let c : CtxRef := { tile := t, ctx := p.victim }
      match (s.tile p.home).fired? p.item.idx with
      | none => s
      | some e =>
        let k := s.ctx c
        let go := fun (s : State) =>
          let s := ((s.modTile t (fun T => { T with pre := none })).bump t .ddeals).countAff p.home e t
          (s.startTask p.home p.item.idx e c far).progress t
        if s.live t = false then s
        else if k.st = .parked then go s
        else if s.victimDrained c = false then s
        else
          match s.freeIrec t, k.vctx.isSome, s.freeVrec t with
          | some i, true, some v => go ((s.saveCtx c i (some v)).bumpHi (.tile t .dpre))
          | some i, false, _ => go ((s.saveCtx c i none).bumpHi (.tile t .dpre))
          | _, _, _ => s)

/-! ### Restore (R137, R138) -/

/-- The wait that a saved context's record holds (R315): its kind and register, which the record has no place for, are those kept
beside it. -/
def recWait (b : List Byte) (kept : Option WaitRec) : Option WaitRec :=
  let w := leAt b 0x280 8
  if w.testBit 34 then
    let early : Bool := match kept with | some k => k.kind == .early | none => false
    some { kind := if w.testBit 38 then (if early then .early else .barrier) else .signal, vid := BitVec.ofNat 16 w,
           die := Fin.ofNat 4 (bitsOf w 16 2), cell := Fin.ofNat 65536 (bitsOf w 18 16), consume := w.testBit 35, intr := w.testBit 36,
           hold := w.testBit 37, threshold := recWord b 0x288, armed := w.testBit 36, met := false,
           rd := (kept.map (·.rd)).getD 0 }
  else none

/-- The round number that an early hold's register takes as the round it waited for has closed (R318). -/
def WaitRec.roundAfter (r : WaitRec) : Word := BitVec.ofNat 64 ((r.threshold.toNat + 1) % 2 ^ 32)

/-- A saved wait taken up again by a restored context (R137, R315): one met while saved completes, one met before keeps its pending
cause 17, an unmet one is judged against its cell now. -/
def State.resumeWait (s : State) (c : CtxRef) (r : WaitRec) (while_ before : Bool) : State :=
  let s := s.modCtx c (fun k => { k with wait := some { r with met := before && !while_ } })
  if while_ then s.completeWait (.ctx c) r r.roundAfter
  else if before then s
  else
    match r.kind with
    | .signal => s.judgeWaits r.die r.cell
    | _ => if roundClosed (s.cell r.die r.cell).tricks r.threshold.toNat then s.completeWait (.ctx c) r r.roundAfter else s

/-- The state in which a record saved its context (R135); a reserved code is taken as READY (log 88). -/
def recState (b : List Byte) : CtxSt :=
  match leAt b 0x170 1 % 8 with
  | 3 => .binding
  | 4 => .waiting
  | _ => .ready

/-- A context as its record restores it: in its saved state, with the pc back at the instruction in which it had blocked. -/
def Ctx.restored (k : Ctx) (b : List Byte) (now : Nat) (p : Priv) (w : Option WaitRec) : Ctx :=
  let k := { k.ofRecord b now with st := recState b, stall := .none, priv := p, wait := w }
  { k with pc := if k.blocked then k.pc - 4 else k.pc, wait := none }

/-- RESTORE: a saved context of a tile taken up by a PARKED context, from its records (R137). `i` names it in the tile's list. -/
def execRestore (t : TileId) (i : Nat) (ctx : CtxId) (s : State) : Out :=
  let q := quadOfTile t
  .next (
    match (s.tile t).saved[i]? with
    | none => s
    | some x =>
      if s.restoreEligible t x = false ∨ s.takesSuit q x.suit = false ∨ (s.parked t).contains ctx = false then s
      else
        let c : CtxRef := { tile := t, ctx := ctx }
        let s := (s.dispatched q x.suit).sramSeen t (sramPa t (s.irecAt t x.irec)) 1024
        let b := s.bytes (sramPa t (s.irecAt t x.irec)) 1024
        let handles := (List.range 12).filterMap (fun n =>
          let w := leAt b (0x2A0 + 8 * n) 8
          if w.testBit 6 then some (bitsOf w 0 6) else none)
        let s := match s.recVrec t x, s.freeVctx t with
          | some r, some v =>
            let s := s.sramSeen t (sramPa t (s.vrecAt t r)) 67584
            let s := { s with free := s.free + 1 }.modVctx t v (fun _ => VCtx.ofRecord ctx (s.bytes (sramPa t (s.vrecAt t r)) 67584))
            s.modCtx c (fun k => { k with vctx := some v })
          | _, _ => s.modCtx c (fun k => { k with vctx := none })
        let w := recWait b x.wait
        let s := s.modCtx c fun k => k.restored b s.now x.priv w
        let s := s.holdTable t (savedTableKey x.irec) (tableKey ctx.val) (s.tbl.unhold t ctx x.irec)
        let s := s.modTile t fun T =>
          { T with saved := T.saved.eraseIdx i,
                   streams := T.streams.map (fun p => if handles.contains p.1 ∧ p.2.owner = none then (p.1, { p.2 with owner := some ctx }) else p),
                   bindq := if recState b = .binding then T.bindq ++ [{ ctx := ctx, rd := x.bindRd }] else T.bindq }
        let s := match w with
          | some r => s.resumeWait c r ((leAt b 0x280 8).testBit 39) ((x.wait.map (fun (y : WaitRec) => y.met)).getD false)
          | none => s
        ((s.modCtx c Ctx.wfiEnd).serveBinders 4 t).progress t)

/-- DLRCLR: the histograms, DDEPTHMAX and the DSUIT counts of a quad cleared (R143). -/
def State.dlrclr (s : State) (q : QuadId) : State :=
  let s := { s with regs := s.regs.filter (fun p => match p.1 with
    | .quad q' (.hist _ _) => q' != q
    | _ => true) }
  let s := ([.dsuit0, .dsuit1, .dsuit2, .dsuit3] : List QuadReg).foldl (fun s r => s.setReg (.quad q r) 0) s
  (quadTiles q).foldl (fun s t => s.setReg (.tile t .ddepthmax) 0) s

def execDlrclr (q : QuadId) (w : Word) (s : State) : Out := .next (if s.computeOn ∧ Word.bit w 0 then s.dlrclr q else s)

/-! ### Binding (R34 to R36) -/

/-- VBIND: a free vector context bound, or the context enters BINDING (R34). -/
def execVbind (c : CtxRef) (f : RFields) (s : State) : Out :=
  .next (s.issue c 4 fun s =>
    if f.rs1 ≠ 0 ∨ f.rs2 ≠ 0 ∨ (s.ctx c).vctx.isSome then s.illegal c (rWord 0x0B 7 0 f)
    else
      match s.freeVctx c.tile with
      | some v => s.bindTo c v f.rd
      | none =>
        let s := s.modTile c.tile (fun T => { T with bindq := T.bindq ++ [{ ctx := c.ctx, rd := f.rd }] })
        s.modCtx c (fun k => { k with st := .binding }))

/-- VBIND.T: bound, or -1 at once (R34). -/
def execVbindT (c : CtxRef) (f : RFields) (s : State) : Out :=
  .next (s.issue c 4 fun s =>
    if f.rs1 ≠ 0 ∨ f.rs2 ≠ 0 ∨ (s.ctx c).vctx.isSome then s.illegal c (rWord 0x0B 7 1 f)
    else
      match s.freeVctx c.tile with
      | some v => s.bindTo c v f.rd
      | none => s.retireX c f.rd Word.ones)

/-- VUNBIND (R34, R36). -/
def execVunbind (c : CtxRef) (f : RFields) (s : State) : Out :=
  .next (s.issue c 4 fun s =>
    if f.rd ≠ 0 ∨ f.rs1 ≠ 0 ∨ f.rs2 ≠ 0 then s.illegal c (rWord 0x0B 7 2 f)
    else if s.bindingDrained c = false then s.stallRetry c
    else (s.unbind c).retire c)

end Sys2Proof.Machine
end

