-- ==== Sys2Proof/Machine/Embed.lean ====
section
/-! DEFINITION. The embedding table unit (R271 to R303): tables and shards, look-ups, replicas, gradients, updates, the row,
shard and table commands, and the messages between the units of a job's devices. -/

namespace Sys2Proof.Machine

/-! ### Table descriptors (R273) -/

def tdRow (b : List Byte) : Nat := 16 * bitsOf (leAt b 0 8) 0 9
def tdFmt (b : List Byte) : Nat := bitsOf (leAt b 0 8) 9 3
def tdHash (b : List Byte) : Bool := (leAt b 0 8).testBit 12
def tdOpt (b : List Byte) : Nat := bitsOf (leAt b 0 8) 13 3
def tdScale (b : List Byte) : Nat := bitsOf (leAt b 0 8) 16 8
def tdValid (b : List Byte) : Bool := (leAt b 0 8).testBit 24
def tdRows (b : List Byte) : Nat := leAt b 0x08 8
def tdShards (b : List Byte) : Nat := leAt b 0x10 8 + 1
def tdShardRows (b : List Byte) : Nat := leAt b 0x18 8
def tdMap (b : List Byte) : Nat := leAt b 0x20 8
def tdRepl (b : List Byte) : Nat := leAt b 0x28 8
def tdReplCap (b : List Byte) : Nat := leAt b 0x30 4
/-- The elements of a row. -/
def tdN (b : List Byte) : Nat := tdRow b / outSize (tdFmt b)

/-- Whether a table descriptor is mapped and well formed (R272, R273). -/
def tdOk (b : List Byte) : Bool :=
  tdValid b && decide (16 ≤ tdRow b ∧ tdRow b ≤ 4096) && decide (tdFmt b ≤ 4 ∧ tdOpt b ≤ 5) && bitsOf (leAt b 0 8) 25 39 == 0
  && decide (1 ≤ tdRows b ∧ tdRows b ≤ 2 ^ 40) && decide (tdShards b ≤ 2 ^ 20)
  && (tdHash b || (decide (tdShardRows b < 2 ^ 41) && decide (tdRows b ≤ tdShards b * tdShardRows b)))
  && is48 (tdMap b) && aligned (tdMap b) 32 && is48 (tdRepl b) && aligned (tdRepl b) 64 && tdReplCap b % 4 == 0
  && leAt b 0x34 4 == 0 && leAt b 0x38 8 == 0

/-- The published shard hash (R274). -/
def tblHash (q : Nat) : Nat :=
  let m := 2 ^ 64
  let z := (q + 1) % m * 0x9E3779B97F4A7C15 % m
  let z := (z ^^^ (z >>> 31)) * 0xD6E8FEB86659FD93 % m
  z ^^^ (z >>> 32)

/-- The shard and local index of a row (R274). -/
def tdPlace (b : List Byte) (i : Nat) : Nat × Nat :=
  if tdHash b then
    let n := tdShards b
    ((i % n + tblHash (i / n) % n) % n, i / n)
  else (i / tdShardRows b, i % tdShardRows b)

/-- The row of a shard's local index (R274). -/
def tdRowOf (b : List Byte) (s l : Nat) : Nat :=
  if tdHash b then
    let n := tdShards b
    l * n + (s + n - tblHash l % n) % n
  else s * tdShardRows b + l

/-- The local rows of a shard (R274). -/
def tdLocal (b : List Byte) : Nat := if tdHash b then ceilDiv (tdRows b) (tdShards b) else tdShardRows b

/-! ### The shard area (R276) -/

/-- The offset of a local row. -/
def tdRowOff (b : List Byte) (l : Nat) : Nat := let p := 4096 / tdRow b; l / p * 4096 + l % p * tdRow b
/-- The sizes of a state record and of a gradient record. -/
def tdStateRec (b : List Byte) : Nat :=
  match tdOpt b with
  | 2 => roundUp (4 * tdN b) 64
  | 3 => 64
  | 4 => roundUp (8 * tdN b) 64
  | _ => 0
def tdGradRec (b : List Byte) : Nat := roundUp (16 + 8 * tdN b) 64
/-- The sizes and offsets of the sections. -/
def tdRowsSize (b : List Byte) : Nat := ceilDiv (tdLocal b) (4096 / tdRow b) * 4096
def tdStateSize (b : List Byte) : Nat := roundUp (tdLocal b * tdStateRec b) 4096
def tdGradSize (b : List Byte) : Nat := if tdOpt b = 0 then 0 else roundUp (tdLocal b * tdGradRec b) 4096
def tdBitsSize (b : List Byte) : Nat := roundUp (ceilDiv (tdLocal b) 8) 4096
def tdStateOff (b : List Byte) : Nat := tdRowsSize b
def tdGradOff (b : List Byte) : Nat := tdStateOff b + tdStateSize b
def tdPresOff (b : List Byte) : Nat := tdGradOff b + tdGradSize b
def tdTouchOff (b : List Byte) : Nat := tdPresOff b + tdBitsSize b
def tdDirtyOff (b : List Byte) : Nat := tdTouchOff b + tdBitsSize b

/-! ### Owner-map entries (R275) -/

def meDev (e : List Byte) : BitVec 14 := BitVec.ofNat 14 (leAt e 0 8)
def mePrev (e : List Byte) : BitVec 14 := BitVec.ofNat 14 (bitsOf (leAt e 0 8) 14 14)
def meNext (e : List Byte) : BitVec 14 := BitVec.ofNat 14 (bitsOf (leAt e 0 8) 28 14)
def meValid (e : List Byte) : Bool := (leAt e 0 8).testBit 42
def meMig (e : List Byte) : Bool := (leAt e 0 8).testBit 43
def meShard (e : List Byte) : Nat := leAt e 8 8
def meNextVa (e : List Byte) : Nat := leAt e 16 8

/-- A map entry from its fields. -/
def meBytes (dev prev next : BitVec 14) (valid mig : Bool) (va nextva : Nat) : List Byte :=
  leBytes 8 (dev.toNat + prev.toNat * 2 ^ 14 + next.toNat * 2 ^ 28 + valid.toNat * 2 ^ 42 + mig.toNat * 2 ^ 43)
    ++ leBytes 8 va ++ leBytes 8 nextva ++ List.replicate 8 0

/-! ### The unit's accesses (R45, R295) -/

/-- Why the unit stops: an access that fails, or a job fault with the row or shard and the table and bag (R303; log 74). -/
inductive TErr where
  | eng (e : EFault)
  | job (r : Reason) (addr extra : Nat)

/-- Work of the table unit. -/
abbrev TM (α : Type) := ExceptT TErr (StateM GS) α

/-- For whom it works: the tile whose job's tables translate, the job slot, the table's number and descriptor, the class. -/
structure TC where
  t : TileId
  j : JSlot
  table : Nat
  td : List Byte
  suit : Suit
  asker : Option CtxId := none
  seq : Nat := 0

/-- The unit's accesses are the job's, in U-mode (log 75). Those on behalf of an operation carry the key of the context that
issued it: they are its class B accesses (R48, R50, R295). -/
def TC.by (x : TC) : FarBy :=
  { ctx := none, seq := x.seq, suit := x.suit, stream := match x.asker with | some c => tableKey c.val | none => 64 }

def tRead (x : TC) (va n : Nat) : TM (List Byte) := do
  let g ← get
  match g.s.engineRead x.t .u x.by va n g.far with
  | (.error e, s) => set ({ g with s := s } : GS); throw (.eng e)
  | (.ok r, s) => set ({ s := s, far := r.far } : GS); return r.data

def tWrite (x : TC) (va : Nat) (l : List Byte) : TM Unit := do
  let g ← get
  match g.s.engineWrite x.t .u x.by va l with
  | (.error e, s) => set ({ g with s := s } : GS); throw (.eng e)
  | (.ok _, s) => set ({ g with s := s } : GS)

/-- The state changed, and a value of it. -/
def tMod (f : State → State) : TM Unit := modify (fun g => { g with s := f g.s })
def tGet {α : Type} (f : State → α) : TM α := do return f (← get).s

/-- A number read. -/
def tNum (x : TC) (va n : Nat) : TM Nat := do return leAt (← tRead x va n) 0 n

/-- A bit of a bitmap, and a bitmap with one written (R276). -/
def tBit (x : TC) (base l : Nat) : TM Bool := do return (← tNum x (base + l / 8) 1).testBit (l % 8)
def tSetBit (x : TC) (base l : Nat) (v : Bool) : TM Unit := do
  let w ← tNum x (base + l / 8) 1
  let cleared := if w.testBit (l % 8) then w - 2 ^ (l % 8) else w
  tWrite x (base + l / 8) (leBytes 1 (cleared + v.toNat * 2 ^ (l % 8)))

/-- Actions over a list, in order; the numbers below a bound. -/
def tEach {α : Type} (l : List α) (f : α → TM Unit) : TM Unit :=
  l.foldl (fun (m : TM Unit) a => do m; f a) (pure ())
def tBelow (n : Nat) (f : Nat → TM Unit) : TM Unit := tEach (List.range n) f

/-- A map entry, from the front end's cache or from memory (R275). -/
def tMap (x : TC) (shard : Nat) : TM (List Byte) := do
  match (← tGet (·.tbl.cache)).find? (fun c => c.1 == (x.j, x.table, shard)) with
  | some c => return c.2
  | none =>
    let e ← tRead x (tdMap x.td + 32 * shard) 32
    tMod (fun s => { s with tbl := { s.tbl with cache := ((x.j, x.table, shard), e) :: s.tbl.cache } })
    return e

/-- A map entry written by the unit, which its own cache sees. -/
def tPutMap (x : TC) (shard : Nat) (e : List Byte) : TM Unit := do
  tWrite x (tdMap x.td + 32 * shard) e
  tMod (fun s => { s with tbl := { s.tbl with cache :=
    ((x.j, x.table, shard), e) :: s.tbl.cache.filter (fun c => c.1 != (x.j, x.table, shard)) } })

/-- A job fault of the unit. -/
def tFault {α : Type} (x : TC) (r : Reason) (addr : Nat) (bag : Nat := 0) : TM α :=
  throw (.job r addr (x.table + bag * 2 ^ 8))

/-! ### Pooling (R86, R87, R89, R281) -/

/-- The pool of a request as a pot descriptor: SUM or MAX, the width, the scale, the output format and the finish. -/
def poolDesc (pool : Nat) (wide : Bool) (scale out : Nat) : Nat :=
  (if pool = 3 then 3 else 1) + wide.toNat * 8 + scale * 2 ^ 4 + out * 2 ^ 23 + (if pool = 2 then 1 else 0) * 2 ^ 26

/-- An empty pool for a bag. -/
def emptyPart (d n bag : Nat) : TblPart :=
  { bag := bag, wide := potWidth d == 128, n := 0, m := 0, sat := false, nan := false, absent := 0, row := List.replicate n (potInit d) }

/-- The greatest magnitude of a list. -/
def maxAbs (l : List Int) : Nat := l.foldl (fun a (i : Int) => max a i.natAbs) 0

/-- A row's elements as values. -/
def rowVals (fmt : Nat) (b : List Byte) : List FVal :=
  (List.range (b.length / outSize fmt)).map (fun j => (outFmt fmt).decode (leAt b (j * outSize fmt) (outSize fmt)))

/-- A row pooled (R281): converted, and combined with what the bag holds. -/
def poolRow (d pool : Nat) (p : TblPart) (w : BitVec 32) (vals : List FVal) : TblPart :=
  let ins := vals.map (fun v => potConvert d (if pool = 1 then (mulVal v (fp32.decode w.toNat)).1 else v))
  { p with n := min (2 ^ 40 - 1) (p.n + 1), m := boundAdd d p.m (maxAbs (ins.map (·.s))), sat := p.sat || ins.any (·.sat),
           nan := p.nan || ins.any (·.nan), row := (p.row.zip ins).map (fun q => potCombine d q.1 q.2.s) }

/-- Two partials of a bag merged (R98, R282). -/
def mergePart (d : Nat) (a b : TblPart) : TblPart :=
  { a with n := min (2 ^ 40 - 1) (a.n + b.n), m := boundAdd d a.m b.m, sat := a.sat || b.sat, nan := a.nan || b.nan,
           row := (a.row.zip b.row).map (fun q => potCombine d q.1 q.2) }

/-- The size of a merge record, its bytes, and the record of bytes (R279). -/
def mergeSize (d n : Nat) : Nat := 64 + roundUp (n * (potWidth d / 8)) 64
def partBytes (d : Nat) (p : TblPart) : List Byte :=
  leBytes 16 (p.n + p.sat.toNat * 2 ^ 40 + p.nan.toNat * 2 ^ 41) ++ leBytes 16 p.m ++ List.replicate 32 0
    ++ padTo (roundUp (p.row.length * (potWidth d / 8)) 64) (potRowBytes d p.row)
def partOf (d n bag : Nat) (b : List Byte) : TblPart :=
  let w := potWidth d / 8
  { bag := bag, wide := potWidth d == 128, n := bitsOf (leAt b 0 8) 0 40, m := leAt b 16 16, sat := (leAt b 0 8).testBit 40, nan := (leAt b 0 8).testBit 41,
    absent := 0, row := (List.range n).map (fun j => signed (potWidth d) (leAt b (64 + j * w) w)) }

/-! ### Messages (R294, R296, R387, R388) -/

/-- The data after the table header, as far as the spec gives it a layout (R388; log 68). -/
def tblBytes (b : TblBody) : List Byte :=
  let ent := fun (e : TblEntry) => leBytes 8 e.row ++ leBytes 4 e.bag ++ leBytes 4 e.w.toNat
  match b with
  | .look _ _ _ l => l.flatMap ent
  | .grad l => l.flatMap (fun g => ent g.ent)
  | .read l => l.flatMap (fun p => leBytes 8 p.2 ++ leBytes 8 0)
  | .part p => partBytes (if p.wide then 9 else 1) p ++ leBytes 8 p.bag ++ leBytes 8 p.absent
  | .ack n absent => leBytes 8 n ++ leBytes 8 absent
  | .rows l => l.flatMap (fun r => leBytes 16 r.idx ++ padTo (roundUp r.data.length 16) r.data)
  | .put row d => leBytes 16 row ++ d
  | .del row => leBytes 16 row
  | .copy _ l => l.flatMap (fun p => p.2)
  | .hand _ _ l => l.flatMap (fun r => leBytes 16 r.idx ++ padTo (roundUp r.data.length 16) r.data ++ padTo (roundUp r.state.length 16) r.state)

/-- The packet type and the operation code of a message (R388). -/
def tblCode (b : TblBody) : BitVec 6 × Nat :=
  match b with
  | .look _ _ _ _ => (ptEmbreq, 0)
  | .grad _ => (ptEmbreq, 1)
  | .read _ => (ptEmbreq, 0)
  | .part _ => (ptEmbrsp, 2)
  | .rows _ => (ptEmbrsp, 2)
  | .ack _ _ => (ptEmbrsp, 3)
  | _ => (ptEmbcmd, 4)

/-- The table header of a message (R388). -/
def tblHeader (m : TblMsg) : List Byte :=
  leBytes 8 (m.table.toNat + m.tepoch.toNat * 2 ^ 8 + m.rid.toNat * 2 ^ 16 + m.tile.toNat * 2 ^ 48 + (tblCode m.body).2 * 2 ^ 58)
    ++ leBytes 8 0

/-- The packets of a message: its data in pieces of up to 18 units (R388). One sent on keeps its source (R294). -/
def State.tblPackets (s : State) (die : DieId) (m : TblMsg) : List Packet :=
  let b := tblBytes m.body
  let b := padTo (roundUp b.length 16) b
  (List.range (max 1 (ceilDiv b.length 288))).map fun i =>
    { s.packet die (tblCode m.body).1 m.suit ((tblCode m.body).1 == ptEmbrsp) false m.jslot m.epoch m.dst (tblHeader m ++ slice b (288 * i) 288)
      with fwd := m.fwd, sdev := m.src }

/-- A message sent: kept where it is for this device, else on the links (R399). -/
def State.tblSend (s : State) (die : DieId) (m : TblMsg) : State :=
  if m.dst = s.devId then { s with tbl := { s.tbl with queue := s.tbl.queue ++ [m] } }
  else (s.tblPackets die m).foldl (fun (s : State) k => s.inject die k) s

/-- The epoch of a table on this device (R294, R298). -/
def State.tblEpoch (s : State) (j : JSlot) (table : Nat) : BitVec 8 :=
  BitVec.ofNat 8 (s.reg (.emb (.epoch j (Fin.ofNat 256 table)))).toNat

/-- The register of a job slot's table directory. -/
def etabdir (j : JSlot) : EmbReg :=
  match j with
  | 0 => .etabdir0 | 1 => .etabdir1 | 2 => .etabdir2 | 3 => .etabdir3

/-- The descriptor of a table, read from the directory (R272); a number beyond NTM1 names none. -/
def tTable (x : TC) : TM TC := do
  let w ← tGet (fun s => s.reg (.emb (etabdir x.j)))
  if Word.bits w 48 8 < x.table then tFault x .embDesc x.table
  else
    let td ← tRead x (Word.bits w 0 48 / 64 * 64 + 64 * x.table) 64
    if tdOk td = false then tFault x .embDesc x.table else return { x with td := td }

/-- A device counter raised. -/
def tCount (r : EmbReg) (n : Nat := 1) : TM Unit := tMod (fun s => s.modReg (.emb r) (· + BitVec.ofNat 64 n))

/-! ### The end of an operation (R282, R295) -/

/-- The request ID, descriptor fields and merge records of an EBAG. -/
def ebTable (b : List Byte) : Nat := bitsOf (leAt b 0 8) 0 8
def ebPool (b : List Byte) : Nat := bitsOf (leAt b 0 8) 8 2
def ebWide (b : List Byte) : Bool := (leAt b 0 8).testBit 10
def ebScale (b : List Byte) : Nat := bitsOf (leAt b 0 8) 11 8
def ebOut (b : List Byte) : Nat := bitsOf (leAt b 0 8) 19 3
def ebSuit (b : List Byte) : Suit := Fin.ofNat 4 (bitsOf (leAt b 0 8) 22 2)
def ebDoneEn (b : List Byte) : Bool := (leAt b 0 8).testBit 24
def ebNent (b : List Byte) : Nat := leAt b 0x08 4
def ebNbag (b : List Byte) : Nat := bitsOf (leAt b 0x08 8) 32 24
def ebEnt (b : List Byte) : Nat := leAt b 0x10 8
def ebVa (b : List Byte) : Nat := leAt b 0x18 8
def ebStride (b : List Byte) : Nat := leAt b 0x20 4
def ebCnt (b : List Byte) : Nat := leAt b 0x28 8
def ebMerge (b : List Byte) : Nat := leAt b 0x30 3
def ebDone (b : List Byte) : Nat := leAt b 0x38 8
def ebPot (b : List Byte) : Nat := poolDesc (ebPool b) (ebWide b) (ebScale b) (ebOut b)

/-- The done token: an ARRIVE of 1 in the class of the operation (R282, R287, R289, R292). -/
def State.tblDone (s : State) (t : TileId) (en : Bool) (done : Nat) (suit : Suit) : State :=
  if en then s.queueSend t none (.token (s.tokenTo t done opArrive suit 1 []) (.bytes [])) else s

/-- The merge record of a bag, and the memory with one written. -/
def tRec (t : TileId) (b td : List Byte) (k : Nat) : TM TblPart := do
  let size := mergeSize (ebPot b) (tdN td)
  tMod (fun s => s.sramSeen t (sramPa t (ebMerge b + k * size)) size)
  tGet (fun s => partOf (ebPot b) (tdN td) k (s.bytes (sramPa t (ebMerge b + k * size)) size))
def tPutRec (t : TileId) (b td : List Byte) (k : Nat) (p : TblPart) : TM Unit :=
  tMod (fun s => s.writeAt (sramPa t (ebMerge b + k * mergeSize (ebPot b) (tdN td))) (partBytes (ebPot b) p))

/-- Every bag of an EBAG finished and written, with its count (R90, R91, R282). -/
def tFinish (x : TC) (b : List Byte) : TM Unit := do
  let d := ebPot b
  tBelow (ebNbag b) fun k => do
    let p ← tRec x.t b x.td k
    let bad := p.nan || p.sat || decide (2 ^ (potWidth d - 1) - 1 < p.m)
    if bad then tMod (fun s => s.bumpHi (.tile x.t .emptybag))
    else if p.n = 0 then tMod (fun s => s.bumpLo (.tile x.t .emptybag))
    tWrite x (ebVa b + k * ebStride b) (finishRow d p.n bad p.row [])
    tWrite x (ebCnt b + 4 * k) (leBytes 4 p.n)
  tMod (fun s => s.tblDone x.t (ebDoneEn b) (ebDone b) x.suit)

/-! ### Requests at the owner (R281, R283, R287, R294) -/

/-- The reply to a message. -/
def tblReply (m : TblMsg) (me : BitVec 14) (b : TblBody) : TblMsg := { m with src := me, dst := m.src, fwd := false, body := b }

/-- The owner's part in a row: the map entry says that this device serves it, forwards it, or neither (R294). -/
inductive TRole where
  | serve (e : List Byte) (l : Nat)
  | forward (dev : BitVec 14)
  deriving DecidableEq, Repr

/-- What a map entry says of a message's shard (R294). -/
def tRole (x : TC) (fwd : Bool) (shard l : Nat) : TM TRole := do
  let e ← tMap x shard
  let me ← tGet (·.devId)
  if meDev e = me then return .serve e l
  else if mePrev e = me ∧ fwd = false then return .forward (meDev e)
  else tFault x .embMisroute shard

/-- A list of items parted by the device that serves them: those for this one, and the others with their device. -/
def tPart {α : Type} (x : TC) (fwd : Bool) (row : α → Nat) (l : List α) : TM (List (α × List Byte × Nat) × List (α × BitVec 14)) :=
  l.foldl (fun (m : TM (List (α × List Byte × Nat) × List (α × BitVec 14))) a => do
    let r ← m
    let p := tdPlace x.td (row a)
    match ← tRole x fwd p.1 p.2 with
    | .serve e l => return (r.1 ++ [(a, e, l)], r.2)
    | .forward d => return (r.1, r.2 ++ [(a, d)])) (pure ([], []))

/-- The devices of a list, each once. -/
def tDevs {α : Type} (l : List (α × BitVec 14)) : List (BitVec 14) := (l.map (·.2)).eraseDups

/-- Items sent on to the devices that own them, one message each, with their epoch kept (R294). -/
def tForward {α : Type} (die : DieId) (m : TblMsg) (l : List (α × BitVec 14)) (mk : List α → TblBody) : TM Unit :=
  tEach (tDevs l) fun d => do
    let f : TblMsg := { m with dst := d, fwd := true, body := mk ((l.filter (fun p => p.2 == d)).map (·.1)) }
    tCount .efwd (← tGet (fun s => (s.tblPackets die f).length))
    tMod (fun s => s.tblSend die f)

/-- A local row and its presence. -/
def tLocalRow (x : TC) (e : List Byte) (l : Nat) : TM (Bool × List Byte) := do
  let p ← tBit x (meShard e + tdPresOff x.td) l
  let r ← tRead x (meShard e + tdRowOff x.td l) (tdRow x.td)
  return (p, r)

/-- Look-up entries pooled at the owner, and one partial sent for each bag (R281). -/
def tServeLook (x : TC) (die : DieId) (m : TblMsg) (pool : Nat) (wide : Bool) (scale : Nat)
    (l : List (TblEntry × List Byte × Nat)) : TM Unit := do
  let d := poolDesc pool wide scale 0
  tCount .eserved l.length
  let parts ← l.foldl (fun (a : TM (List TblPart)) q => do
    let ps ← a
    let old := (ps.find? (fun p => p.bag == q.1.bag)).getD (emptyPart d (tdN x.td) q.1.bag)
    let new ← if ← tBit x (meShard q.2.1 + tdPresOff x.td) q.2.2 then do
        let r ← tRead x (meShard q.2.1 + tdRowOff x.td q.2.2) (tdRow x.td)
        pure (poolRow d pool old q.1.w (rowVals (tdFmt x.td) r))
      else pure { old with absent := old.absent + 1 }
    return ps.filter (fun p => p.bag != q.1.bag) ++ [new]) (pure [])
  let me ← tGet (·.devId)
  tEach parts (fun p => tMod (fun s => s.tblSend die (tblReply m me (.part p))))

/-- A gradient contribution added to its row's record (R286, R287). -/
def tAddGrad (x : TC) (e : List Byte) (l : Nat) (g : TblGrad) : TM Unit := do
  let a := meShard e + tdGradOff x.td + l * tdGradRec x.td
  let h ← tNum x a 8
  let m ← tNum x (a + 8) 8
  let n := min (2 ^ 40 - 1) (bitsOf h 0 40 + 1)
  tWrite x a (leBytes 8 (n + (h.testBit 40 || g.sat).toNat * 2 ^ 40 + (h.testBit 41 || g.nan).toNat * 2 ^ 41)
    ++ leBytes 8 (min (2 ^ 64 - 1) (m + maxAbs g.s)))
  let old ← tRead x (a + 16) (8 * g.s.length)
  tWrite x (a + 16) ((List.range g.s.length).flatMap (fun j =>
    leBytes 8 ((leAt old (8 * j) 8 + unsigned 64 (g.s.getD j 0)) % 2 ^ 64)))
  tSetBit x (meShard e + tdTouchOff x.td) l true
  if meMig e then tSetBit x (meShard e + tdDirtyOff x.td) l true

/-- Contributions added at the owner and acknowledged; those for absent rows are dropped, and one of a MEAN bag whose count is
0 is EMB_DESC where its row is present (R287). -/
def tServeGrad (x : TC) (die : DieId) (m : TblMsg) (l : List (TblGrad × List Byte × Nat)) : TM Unit := do
  tCount .eserved l.length
  let absent ← l.foldl (fun (a : TM Nat) q => do
    let n ← a
    if ← tBit x (meShard q.2.1 + tdPresOff x.td) q.2.2 then
      if q.1.empty then tFault x .embDesc q.1.ent.row q.1.ent.bag
      else
        tAddGrad x q.2.1 q.2.2 q.1
        return n
    else return n + 1) (pure 0)
  let me ← tGet (·.devId)
  if l = [] then pure () else tMod (fun s => s.tblSend die (tblReply m me (.ack l.length absent)))

/-- Rows read for replicas (R284). -/
def tServeRead (x : TC) (die : DieId) (m : TblMsg) (l : List ((Nat × Nat) × List Byte × Nat)) : TM Unit := do
  tCount .eserved l.length
  let rows ← l.foldl (fun (a : TM (List TblRow)) q => do
    let rs ← a
    let r ← tLocalRow x q.2.1 q.2.2
    return rs ++ [{ idx := q.1.1, present := r.1, data := r.2, state := [] }]) (pure [])
  let me ← tGet (·.devId)
  if l = [] then pure () else tMod (fun s => s.tblSend die (tblReply m me (.rows rows)))

/-- A request's entries served, forwarded or refused (R281, R284, R287, R294). -/
def tRequest (x : TC) (die : DieId) (m : TblMsg) : TM Unit := do
  match m.body with
  | .look pool wide scale l =>
    let p ← tPart x m.fwd (fun (e : TblEntry) => e.row) l
    tServeLook x die m pool.val wide scale.toNat p.1
    tForward die m p.2 (fun l => .look pool wide scale l)
  | .grad l =>
    let p ← tPart x m.fwd (fun (g : TblGrad) => g.ent.row) l
    tServeGrad x die m p.1
    tForward die m p.2 .grad
  | .read l =>
    let p ← tPart x m.fwd (fun (q : Nat × Nat) => q.2) l
    tServeRead x die m p.1
    tForward die m p.2 .read
  | _ => pure ()

/-- ROWPUT and ROWDEL at the owner: the row and its presence, and the dirty bit (R283). -/
def tServeRow (x : TC) (die : DieId) (m : TblMsg) (row : Nat) (data : Option (List Byte)) : TM Unit := do
  let p := tdPlace x.td row
  match ← tRole x m.fwd p.1 p.2 with
  | .forward d => tForward die m [(row, d)] (fun _ => m.body)
  | .serve e l =>
    tCount .eserved
    match data with
    | some b => tWrite x (meShard e + tdRowOff x.td l) b
    | none => pure ()
    tSetBit x (meShard e + tdPresOff x.td) l data.isSome
    tSetBit x (meShard e + tdDirtyOff x.td) l true
    tMod (fun s => if data.isSome then s.bumpLo (.emb .erowput) else s.bumpHi (.emb .erowput))
    let me ← tGet (·.devId)
    tMod (fun s => s.tblSend die (tblReply m me (.ack 1 0)))

/-- A command packet performed: row commands at their owner; the sections of SHADOW and HAND at their target, which is not yet
the owner (R283, R293, R294). -/
def tCommand (x : TC) (die : DieId) (m : TblMsg) : TM Unit := do
  let me ← tGet (·.devId)
  let ack := tMod (fun s => s.tblSend die (tblReply m me (.ack 1 0)))
  match m.body with
  | .put row d => tServeRow x die m row (some d)
  | .del row => tServeRow x die m row none
  | .copy _ l =>
    tEach l (fun p => tWrite x p.1 p.2)
    ack
  | .hand shard va l =>
    tEach l fun r => do
      tWrite x (va + tdRowOff x.td r.idx) r.data
      if r.state = [] then pure () else tWrite x (va + tdStateOff x.td + r.idx * tdStateRec x.td) r.state
      tSetBit x (va + tdPresOff x.td) r.idx r.present
    let e ← tMap x shard
    tPutMap x shard (meBytes me m.src (meNext e) (meValid e) false va (meNextVa e))
    ack
  | _ => pure ()

/-! ### Answers at the requester (R282, R284, R287, R293) -/

/-- An operation finished: outputs and counts for an EBAG, the own map entry for a HAND, then the done token (R282, R293, R295). -/
def tEnd (x : TC) (o : TblOp) : TM Unit := do
  tMod (fun s => { s with tbl := { s.tbl with ops := s.tbl.ops.filter (fun p => p.id != o.id) } })
  let done := fun (bit : Nat) => tMod (fun s => s.tblDone o.tile ((leAt o.desc 0 8).testBit bit) (ebDone o.desc) o.suit)
  match o.form with
  | .bag => tFinish x o.desc
  | .grad => done 15
  | .cmd => done 14
  | .hand shard =>
    let e ← tMap x shard
    let me ← tGet (·.devId)
    tPutMap x shard (meBytes (meNext e) me (meNext e) (meValid e) false (meNextVa e) (meNextVa e))
    done 14

/-- Entries or answers of an operation that have come back; with the last of them it ends. -/
def tProgress (x : TC) (o : TblOp) (n : Nat) : TM Unit := do
  let o := { o with left := o.left - n }
  if o.left = 0 then tEnd x o
  else tMod (fun s => { s with tbl := { s.tbl with ops := s.tbl.ops.map (fun p => if p.id = o.id then o else p) } })

/-- DROP_ABSENT of a tile. -/
def tAbsent (t : TileId) (n : Nat) : TM Unit := tMod (fun s => s.bumpHi (.tile t .embdrop) n)

/-- A refreshed row written into its replica entry (R284). -/
def tReplica (x : TC) (r : TblRow) : TM Unit := do
  let a := tdRepl x.td + r.idx * roundUp (16 + tdRow x.td) 64
  let tag ← tNum x a 8
  tWrite x a (leBytes 8 (bitsOf tag 0 61 + (!r.present).toNat * 2 ^ 61 + 2 ^ 62 + 2 ^ 63))
  tWrite x (a + 16) r.data

/-- An answer taken by the operation it belongs to (R282, R284, R287). -/
def tAnswer (x : TC) (o : TblOp) (b : TblBody) : TM Unit := do
  match b with
  | .part p =>
    let r ← tRec x.t o.desc x.td p.bag
    tPutRec x.t o.desc x.td p.bag (mergePart (ebPot o.desc) r p)
    tAbsent o.tile p.absent
    tProgress x o (p.n + p.absent)
  | .ack n absent =>
    tAbsent o.tile absent
    tProgress x o n
  | .rows l =>
    tEach l (tReplica x)
    tProgress x o l.length
  | _ => pure ()

/-! ### Resolution (R280, R284, R285) -/

/-- The replica entry that a look-up of a row hits: its ABSENT bit and the row. -/
def tReplHit (x : TC) (row : Nat) : TM (Option (Bool × List Byte)) := do
  let buckets := tdReplCap x.td / 4
  if buckets = 0 then return none
  else
    let stride := roundUp (16 + tdRow x.td) 64
    let base := tdRepl x.td + 4 * (tblHash row % buckets) * stride
    let hit ← (List.range 4).foldl (fun (m : TM (Option (Bool × Nat))) i => do
      match ← m with
      | some h => return some h
      | none =>
        let w ← tNum x (base + i * stride) 8
        if w.testBit 63 ∧ w.testBit 62 ∧ bitsOf w 0 41 = row then return some (w.testBit 61, base + i * stride) else return none)
      (pure none)
    match hit with
    | none => return none
    | some (absent, a) => return some (absent, ← tRead x (a + 16) (tdRow x.td))

/-- The outcome of an entry's resolution (R280): dropped, pooled here from a replica, or for a device. -/
inductive Resolved where
  | dropped
  | replica (absent : Bool) (row : List Byte)
  | owner (dev : BitVec 14)
  deriving DecidableEq, Repr

/-- An entry resolved in the order of R280. -/
def tResolve (x : TC) (nbag : Nat) (repl : Bool) (e : TblEntry) : TM Resolved := do
  if nbag ≤ e.bag then tFault x .embBag e.row e.bag
  else if tdRows x.td ≤ e.row then return .dropped
  else
    let m ← tMap x (tdPlace x.td e.row).1
    if meValid m = false then return .dropped
    else
      let h ← if repl then tReplHit x e.row else pure none
      match h with
      | some (absent, r) => return .replica absent r
      | none => return .owner (meDev m)

/-- An entry of an array (R278). A negative index is one beyond every table. -/
def entryOf (b : List Byte) : TblEntry := { row := leAt b 0 8, bag := leAt b 8 4, w := BitVec.ofNat 32 (leAt b 12 4) }

/-- The message of an operation to a device, with the table's epoch (R294). -/
def State.tblMsg (s : State) (x : TC) (id : Nat) (dev : BitVec 14) (b : TblBody) : TblMsg :=
  { table := BitVec.ofNat 8 x.table, tepoch := s.tblEpoch x.j x.table, rid := BitVec.ofNat 32 id, tile := BitVec.ofNat 10 (tileNum x.t),
    src := s.devId, dst := dev, jslot := x.j, epoch := s.tileEpoch x.t, suit := x.suit, fwd := false, body := b }

/-- An operation taken into flight with its messages, one to each device; without any it ends at once. Its place in program
order is the one that its unit works under (R50, R295). -/
def tLaunch (x : TC) (o : TblOp) (l : List (BitVec 14 × TblBody)) : TM Unit := do
  tMod (fun s => { s with tbl := { s.tbl with next := (s.tbl.next + 1) % 2 ^ 32, ops := s.tbl.ops ++ [o] } })
  tEach l (fun p => tMod (fun s => s.tblSend x.t.die (s.tblMsg x o.id p.1 p.2)))
  if o.left = 0 then tEnd x o

/-- A new operation of a context. -/
def State.tblOp (s : State) (c : CtxRef) (x : TC) (form : TblForm) (desc : List Byte) (left : Nat) : TblOp :=
  { id := s.tbl.next, tile := c.tile, ctx := c.ctx, seq := x.seq, slot := x.j, form := form, suit := x.suit,
    table := x.table, desc := desc, tab := x.td, left := left }

/-! ### EBAG (R278 to R282) -/

/-- Whether the DONE field and the class of a descriptor are well formed (R76, R278). -/
def ebDoneOk (b : List Byte) (spades : Bool) (suit : Suit) : Bool := decide (ebDone b < 2 ^ 44) && (spades || suit != 0)

/-- Whether an EBAG descriptor is well formed for a table (R278, R279). -/
def State.ebOk (s : State) (t : TileId) (b td : List Byte) : Bool :=
  bitsOf (leAt b 0 8) 25 39 == 0 && decide (ebOut b ≤ 4) && leAt b 0x0F 1 == 0 && decide (1 ≤ ebNbag b)
  && is48 (ebEnt b) && aligned (ebEnt b) 16 && is48 (ebVa b) && aligned (ebVa b) 16
  && aligned (ebStride b) 16 && decide (tdN td * outSize (ebOut b) ≤ ebStride b) && leAt b 0x24 4 == 0
  && is48 (ebCnt b) && aligned (ebCnt b) 4 && aligned (ebMerge b) 64 && leAt b 0x33 5 == 0
  && s.inScratch t (ebMerge b) (ebNbag b * mergeSize (ebPot b) (tdN td))

/-- An EBAG's work at its issue: the merge records emptied, the entries resolved, replica rows pooled, and one message to each
owner (R279 to R281). -/
def tBag (c : CtxRef) (x : TC) (b : List Byte) : TM Unit := do
  let d := ebPot b
  let n := tdN x.td
  tBelow (ebNbag b) (fun k => tPutRec x.t b x.td k (emptyPart d n k))
  let ents ← tRead x (ebEnt b) (16 * ebNent b)
  let sent ← (List.range (ebNent b)).foldl (fun (m : TM (List (TblEntry × BitVec 14))) i => do
    let l ← m
    let e := entryOf (slice ents (16 * i) 16)
    match ← tResolve x (ebNbag b) true e with
    | .dropped =>
      tMod (fun s => s.bumpLo (.tile x.t .embdrop))
      return l
    | .replica absent row =>
      tMod (fun s => s.bump x.t .erephit)
      if absent then tAbsent x.t 1
      else
        let p ← tRec x.t b x.td e.bag
        tPutRec x.t b x.td e.bag (poolRow d (ebPool b) p e.w (rowVals (tdFmt x.td) row))
      return l
    | .owner dev =>
      tMod (fun s => s.bump x.t .elook)
      return l ++ [(e, dev)]) (pure [])
  let o ← tGet (fun s => s.tblOp c x .bag b sent.length)
  tLaunch x o ((tDevs sent).map (fun dev =>
    (dev, .look (Fin.ofNat 4 (ebPool b)) (ebWide b) (BitVec.ofNat 8 (ebScale b)) ((sent.filter (fun p => p.2 == dev)).map (·.1)))))

/-! ### EGRAD (R286, R287) -/

def egPool (b : List Byte) : Nat := bitsOf (leAt b 0 8) 8 2
def egFmt (b : List Byte) : Nat := bitsOf (leAt b 0 8) 10 3
def egSuit (b : List Byte) : Suit := Fin.ofNat 4 (bitsOf (leAt b 0 8) 13 2)

/-- Whether an EGRAD descriptor is well formed for a table (R287). -/
def egOk (b td : List Byte) : Bool :=
  tdOpt td != 0 && egPool b != 3 && decide (egFmt b ≤ 2) && bitsOf (leAt b 0 8) 16 48 == 0 && leAt b 0x0F 1 == 0
  && decide (1 ≤ ebNbag b) && is48 (ebEnt b) && aligned (ebEnt b) 16 && is48 (ebVa b) && aligned (ebVa b) 16
  && aligned (ebStride b) 16 && leAt b 0x24 4 == 0 && leAt b 0x30 8 == 0
  && (egPool b != 2 || (is48 (ebCnt b) && aligned (ebCnt b) 4))

/-- A gradient element times its factor, over a count, scaled by 2^-GSCALE and rounded once to nearest even (R86, R287). -/
def gradConvert (scale : Int) (v : FVal) (den : Nat) : PotIn :=
  let lim : Int := 2 ^ 63 - 1
  let cut := fun (n : Bool) (k : Nat) =>
    if lim < (k : Int) then ({ s := if n then -lim else lim, sat := true, nan := false } : PotIn)
    else { s := signedMant n k, sat := false, nan := false }
  match v with
  | .nan => { s := 0, sat := false, nan := true }
  | .inf n => { s := if n then -lim else lim, sat := true, nan := false }
  | .fin n m e =>
    let k := e - scale
    cut n (if 0 ≤ k then roundQuot (m * 2 ^ k.toNat) den else roundQuot m (den * 2 ^ (-k).toNat))

/-- The contribution of an entry: its bag's gradient, by 1, by the weight or by the bag's count (R287). -/
def tContribution (x : TC) (b : List Byte) (e : TblEntry) : TM TblGrad := do
  let size := outSize (egFmt b)
  let row ← tRead x (ebVa b + e.bag * ebStride b) (tdN x.td * size)
  let den ← if egPool b = 2 then tNum x (ebCnt b + 4 * e.bag) 4 else pure 1
  let w := fp32.decode e.w.toNat
  let ins := (rowVals (egFmt b) row).map (fun v =>
    gradConvert (signed 8 (tdScale x.td)) (if egPool b = 1 then (mulVal v w).1 else v) (max 1 den))
  return { ent := e, s := ins.map (·.s), sat := ins.any (·.sat), nan := ins.any (·.nan), empty := den == 0 }

/-- An EGRAD's work at its issue. -/
def tGrad (c : CtxRef) (x : TC) (b : List Byte) : TM Unit := do
  let ents ← tRead x (ebEnt b) (16 * ebNent b)
  let sent ← (List.range (ebNent b)).foldl (fun (m : TM (List (TblGrad × BitVec 14))) i => do
    let l ← m
    let e := entryOf (slice ents (16 * i) 16)
    match ← tResolve x (ebNbag b) false e with
    | .owner dev =>
      let g ← tContribution x b e
      tMod (fun s => s.bump x.t .elook)
      return l ++ [(g, dev)]
    | _ =>
      tMod (fun s => s.bumpLo (.tile x.t .embdrop))
      return l) (pure [])
  let o ← tGet (fun s => s.tblOp c x .grad b sent.length)
  tLaunch x o ((tDevs sent).map (fun dev => (dev, .grad ((sent.filter (fun p => p.2 == dev)).map (·.1)))))

/-! ### EAPPLY (R289 to R291) -/

def eaSuit (b : List Byte) : Suit := Fin.ofNat 4 (bitsOf (leAt b 0 8) 9 2)
def eaDoneEn (b : List Byte) : Bool := (leAt b 0 8).testBit 8
def eaLr (b : List Byte) : Nat := leAt b 0x08 4
def eaB1 (b : List Byte) : Nat := leAt b 0x0C 4
def eaB2 (b : List Byte) : Nat := leAt b 0x10 4
def eaEps (b : List Byte) : Nat := leAt b 0x14 4
def eaList (b : List Byte) : Nat := leAt b 0x18 8
def eaCap (b : List Byte) : Nat := leAt b 0x20 4

/-- Whether an EAPPLY descriptor is well formed for a table (R289). -/
def eaOk (b td : List Byte) : Bool :=
  bitsOf (leAt b 0 8) 11 53 == 0 && leAt b 0x24 4 == 0 && leAt b 0x28 8 == 0 && leAt b 0x30 8 == 0
  && (tdOpt td != 5 || (is48 (eaList b) && aligned (eaList b) 64))

/-- The FP32 operations of R290, each rounded once. -/
def f32add (a b : Nat) : Nat := (fp32.add a b).bits
def f32sub (a b : Nat) : Nat := (fp32.sub a b).bits
def f32mul (a b : Nat) : Nat := (fp32.mul a b).bits
def f32div (a b : Nat) : Nat := (fp32.div a b).bits
def f32sqrt (a : Nat) : Nat := (fp32.sqrt a).bits

/-- The exact sum of the squares of a list divided by its length, rounded once to FP32 (R290). -/
def f32meanSq (l : List Nat) : Nat :=
  match (sumVals (l.map (fun g => sqVal (fp32.decode g)))).val.1 with
  | .fin n m e => finishRound 0 (signedMant n m) l.length e
  | v => (fp32.put .even v).bits

/-- The words of a state record. -/
def stateWords (b : List Byte) : List Nat := (List.range (b.length / 4)).map (fun i => leAt b (4 * i) 4)

/-- One row's update (R290): the new row elements in FP32 and the new state record, from the elements, the record and the
finished gradients. -/
def optStep (opt : Nat) (b : List Byte) (w g st : List Nat) : List Nat × List Nat :=
  let lr := eaLr b
  let b1 := eaB1 b
  let n := w.length
  match opt with
  | 1 => ((w.zip g).map (fun p => f32sub p.1 (f32mul lr p.2)), st)
  | 2 =>
    let v := (st.zip g).map (fun p => f32add (f32mul b1 p.1) p.2)
    ((w.zip v).map (fun p => f32sub p.1 (f32mul lr p.2)), v ++ st.drop n)
  | 3 =>
    let a := f32add (st.getD 0 0) (f32meanSq g)
    let d := f32add (f32sqrt a) (eaEps b)
    ((w.zip g).map (fun p => f32sub p.1 (f32div (f32mul lr p.2) d)), a :: st.drop 1)
  | _ =>
    let one := (fp32.one false).bits
    let c1 := f32sub one b1
    let c2 := f32sub one (eaB2 b)
    let m := (st.zip g).map (fun p => f32add (f32mul b1 p.1) (f32mul c1 p.2))
    let v := ((st.drop n).zip g).map (fun p => f32add (f32mul (eaB2 b) p.1) (f32mul c2 (f32mul p.2 p.2)))
    ((w.zip (m.zip v)).map (fun p => f32sub p.1 (f32mul lr (f32div p.2.1 (f32add (f32sqrt p.2.2) (eaEps b))))),
      m ++ v ++ st.drop (2 * n))

/-- A touched row's update; the number of LIST records so far goes in and comes out (R289, R291). -/
def tApplyRow (x : TC) (b : List Byte) (e : List Byte) (shard l listed : Nat) : TM Nat := do
  let n := tdN x.td
  let va := meShard e
  let ga := va + tdGradOff x.td + l * tdGradRec x.td
  let rec_ ← tRead x ga (16 + 8 * n)
  let h := leAt rec_ 0 8
  let g := (List.range n).map (fun j => finishRound 0 (signed 64 (leAt rec_ (16 + 8 * j) 8)) 1 (signed 8 (tdScale x.td)))
  let r ← tLocalRow x e l
  let skip := h.testBit 40 || h.testBit 41 || decide (2 ^ 63 - 1 < leAt rec_ 8 8) || !r.1
  let out ← if skip then do
      tCount .egskip
      pure listed
    else if tdOpt x.td = 5 then
      if eaCap b ≤ listed then tFault x .embList (tdRowOf x.td shard l)
      else do
        let size := roundUp (16 + 4 * n) 64
        tWrite x (eaList b + 64 + listed * size)
          (padTo size (leBytes 8 (tdRowOf x.td shard l) ++ leBytes 8 (bitsOf h 0 40) ++ g.flatMap (leBytes 4)))
        tCount .eapplied
        pure (listed + 1)
    else do
      let f := outFmt (tdFmt x.td)
      let sa := va + tdStateOff x.td + l * tdStateRec x.td
      let st ← if tdStateRec x.td = 0 then pure [] else tRead x sa (tdStateRec x.td)
      let w := (rowVals (tdFmt x.td) r.2).map (fun v => (fp32.put .even v).bits)
      let u := optStep (tdOpt x.td) b w g (stateWords st)
      tWrite x (va + tdRowOff x.td l) (u.1.flatMap (fun y => leBytes (outSize (tdFmt x.td)) (cvtFloat fp32 f .even y).bits))
      if tdStateRec x.td = 0 then pure () else tWrite x sa (u.2.flatMap (leBytes 4))
      tCount .eapplied
      pure listed
  tWrite x ga (List.replicate (tdGradRec x.td) 0)
  tSetBit x (va + tdTouchOff x.td) l false
  if meMig e then tSetBit x (va + tdDirtyOff x.td) l true
  return out

/-- EAPPLY over the shards that this device owns, in ascending shard and local row (R289, R291). -/
def tApply (x : TC) (b : List Byte) : TM Unit := do
  let me ← tGet (·.devId)
  let listed ← (List.range (tdShards x.td)).foldl (fun (m : TM Nat) shard => do
    let k ← m
    let e ← tMap x shard
    if meValid e = false ∨ meDev e ≠ me ∨ tdOpt x.td = 0 then return k
    else
      (List.range (tdLocal x.td)).foldl (fun (m : TM Nat) l => do
        let k ← m
        if tdRows x.td ≤ tdRowOf x.td shard l then return k
        else if ← tBit x (meShard e + tdTouchOff x.td) l then tApplyRow x b e shard l k
        else return k) (pure k)) (pure 0)
  if tdOpt x.td = 5 then tWrite x (eaList b) (leBytes 4 listed)
  tMod (fun s => s.tblDone x.t (eaDoneEn b) (ebDone b) x.suit)

/-! ### ECMD (R283, R284, R292, R293) -/

def ecCmd (b : List Byte) : Nat := bitsOf (leAt b 0 8) 8 4
def ecSuit (b : List Byte) : Suit := Fin.ofNat 4 (bitsOf (leAt b 0 8) 12 2)
def ecArg (b : List Byte) : Nat := leAt b 0x08 8

/-- Whether an ECMD descriptor is well formed for a table (R292); fields that the command does not use are ignored. -/
def ecOk (b td : List Byte) : Bool :=
  bitsOf (leAt b 0 8) 15 49 == 0 && leAt b 0x28 8 == 0 && leAt b 0x30 8 == 0
  && (match ecCmd b with
    | 0 => decide (ecArg b < 2 ^ 41) && is48 (leAt b 0x10 8) && aligned (leAt b 0x10 8) 16
    | 1 => decide (ecArg b < 2 ^ 41)
    | 2 => decide (ecArg b < tdShards td) && decide (leAt b 0x18 8 < 2 ^ 14) && is48 (leAt b 0x20 8) && aligned (leAt b 0x20 8) 4096
    | 3 => decide (ecArg b < tdShards td)
    | 4 => true
    | 5 => true
    | 6 => true
    | _ => false)

/-- An operation of one message to a device. -/
def tSingle (c : CtxRef) (x : TC) (b : List Byte) (form : TblForm) (dev : BitVec 14) (body : TblBody) : TM Unit := do
  let o ← tGet (fun s => s.tblOp c x form b 1)
  tLaunch x o [(dev, body)]

/-- An operation that is over as it is issued: its done token. -/
def tOver (c : CtxRef) (x : TC) (b : List Byte) : TM Unit := do
  let o ← tGet (fun s => s.tblOp c x .cmd b 0)
  tLaunch x o []

/-- ROWPUT and ROWDEL: the row's index and map entry checked, and the command sent to the owner (R283). -/
def tRowCommand (c : CtxRef) (x : TC) (b : List Byte) (put : Bool) : TM Unit := do
  let row := ecArg b
  if tdRows x.td ≤ row then tFault x .embRow row
  else
    let e ← tMap x (tdPlace x.td row).1
    if meValid e = false then tFault x .embRow row
    else if put then
      let d ← tRead x (leAt b 0x10 8) (tdRow x.td)
      tSingle c x b .cmd (meDev e) (.put row d)
    else tSingle c x b .cmd (meDev e) (.del row)

/-- SHADOW: the rows, state and presence of a shard sent to the new device, the dirty bitmap cleared, and MIG set (R293). -/
def tShadow (c : CtxRef) (x : TC) (b : List Byte) : TM Unit := do
  let shard := ecArg b
  let e ← tMap x shard
  let me ← tGet (·.devId)
  if meDev e ≠ me then tFault x .embMisroute shard
  else
    let va := meShard e
    let dst := leAt b 0x20 8
    let rows ← tRead x va (tdRowsSize x.td)
    let st ← tRead x (va + tdStateOff x.td) (tdStateSize x.td)
    let pres ← tRead x (va + tdPresOff x.td) (tdBitsSize x.td)
    tWrite x (va + tdDirtyOff x.td) (List.replicate (tdBitsSize x.td) 0)
    let dev := BitVec.ofNat 14 (leAt b 0x18 8)
    tPutMap x shard (meBytes me (mePrev e) dev (meValid e) true va dst)
    tSingle c x b .cmd dev (.copy shard [(dst, rows), (dst + tdStateOff x.td, st), (dst + tdPresOff x.td, pres)])

/-- HAND: every dirty local row sent to the new owner, which takes the shard; the own entry follows with its answer (R293). -/
def tHand (c : CtxRef) (x : TC) (b : List Byte) : TM Unit := do
  let shard := ecArg b
  let e ← tMap x shard
  let me ← tGet (·.devId)
  if meDev e ≠ me then tFault x .embMisroute shard
  else
    let va := meShard e
    let touched ← tRead x (va + tdTouchOff x.td) (tdBitsSize x.td)
    if meMig e = false ∨ touched.any (fun y => y != 0) then tFault x .embDesc shard
    else
      let l ← (List.range (tdLocal x.td)).foldl (fun (m : TM (List TblRow)) i => do
        let rs ← m
        if ← tBit x (va + tdDirtyOff x.td) i then
          let r ← tLocalRow x e i
          let st ← if tdStateRec x.td = 0 then pure [] else tRead x (va + tdStateOff x.td + i * tdStateRec x.td) (tdStateRec x.td)
          return rs ++ [{ idx := i, present := r.1, data := r.2, state := st }]
        else return rs) (pure [])
      tSingle c x b (.hand shard) (meNext e) (.hand shard (meNextVa e) l)

/-- The cached map entries of a table invalidated (R292). -/
def tInvMap (x : TC) : TM Unit :=
  tMod (fun s => { s with tbl := { s.tbl with cache := s.tbl.cache.filter (fun c => !(c.1.1 == x.j && c.1.2.1 == x.table)) } })

/-- RSYNC: the owner of every valid replica entry is asked for its row (R284). An entry whose row no owner has is left (log 76). -/
def tRsync (c : CtxRef) (x : TC) (b : List Byte) : TM Unit := do
  let stride := roundUp (16 + tdRow x.td) 64
  let l ← (List.range (tdReplCap x.td)).foldl (fun (m : TM (List ((Nat × Nat) × BitVec 14))) i => do
    let rs ← m
    let w ← tNum x (tdRepl x.td + i * stride) 8
    let row := bitsOf w 0 41
    if w.testBit 63 = false ∨ tdRows x.td ≤ row then return rs
    else
      let e ← tMap x (tdPlace x.td row).1
      if meValid e then return rs ++ [((i, row), meDev e)] else return rs) (pure [])
  let o ← tGet (fun s => s.tblOp c x .cmd b l.length)
  tLaunch x o ((tDevs l).map (fun dev => (dev, .read ((l.filter (fun p => p.2 == dev)).map (·.1)))))

/-! ### Instructions (R295, R297, R298) -/

/-- Work of the unit run on a state, with what happens where it stops. -/
def State.tRun (s : State) (far : List Byte) (m : TM Unit) (stop : State → TErr → State) : State :=
  match (m.run).run ({ s := s, far := far } : GS) with
  | (.ok _, g) => g.s
  | (.error e, g) => stop g.s e

/-- The job fault of a table instruction (R303). -/
def State.tblFault (s : State) (c : CtxRef) (e : TErr) : State :=
  match e with
  | .eng e => s.raiseEngine c.tile (some c.ctx) e { engine := some .table }
  | .job r addr extra => s.raiseTile c.tile r { ctx := some c.ctx, addr := addr, extra := extra, engine := some .table }

/-- A table instruction: cause 2 for a reserved encoding or a unit that is not enabled; it waits until the context's earlier
accesses are performed, reads its descriptor once and hands the work to the unit (R295, R297, R298). `mine`: whether the
descriptor's command is the row's; where it is not, nothing happens. -/
def State.tblInstr (s : State) (c : CtxRef) (f7 : Nat) (f : LFields) (far : List Byte) (mine : List Byte → Bool)
    (suit : List Byte → Suit) (ok : State → List Byte → List Byte → Bool) (work : TC → List Byte → TM Unit) : State :=
  let s0 := s
  s.issue c 8 fun s =>
    let j := s.jslot c.tile
    if f.rd ≠ 0 ∨ f.rs2 ≠ 0 ∨ f.imm ≠ 0 ∨ Word.bit (s.reg (.emb (etabdir j))) 63 = false then s.illegal c (lWord 3 f7 f)
    else if s.allPerformed c = false then s.stallRetry c
    else
      let spades := s.spadesOk c
      s.withDesc c 8 .table (s.getX c f.rs1).toNat (s.readDesc c (s.getX c f.rs1).toNat 64 64 far) fun s b =>
        if mine b = false then s0
        else if s.stopping c.tile then s.retire c 8
        else
          let (seq, T) := (s.tile c.tile).nextSeq
          let s := s.setTile c.tile T
          let x : TC := { t := c.tile, j := j, table := ebTable b, td := [], suit := suit b, asker := some c.ctx, seq := seq }
          let m : TM Unit := do
            let x ← tTable x
            let good ← tGet (fun s => ok s b x.td)
            if good && ebDoneOk b spades x.suit then work x b else tFault x .embDesc x.table
          (s.tRun (far.drop 64) m (fun s e => s.tblFault c e)).retire c 8

/-- EBAG (R278). -/
def execEbag (c : CtxRef) (f : LFields) (far : List Byte) (s : State) : Out :=
  .next (s.tblInstr c 0 f far (fun _ => true) ebSuit (fun s b td => s.ebOk c.tile b td) (tBag c))
/-- EGRAD (R287). -/
def execEgrad (c : CtxRef) (f : LFields) (far : List Byte) (s : State) : Out :=
  .next (s.tblInstr c 1 f far (fun _ => true) egSuit (fun _ b td => egOk b td) (tGrad c))
/-- EAPPLY (R289). -/
def execEapply (c : CtxRef) (f : LFields) (far : List Byte) (s : State) : Out :=
  .next (s.tblInstr c 2 f far (fun _ => true) eaSuit (fun _ b td => eaOk b td) tApply)

/-- An ECMD of a command code (R292); a reserved code is EMB_DESC whichever row is asked. -/
def State.ecmd (s : State) (c : CtxRef) (f : LFields) (far : List Byte) (cmd : Nat) (work : TC → List Byte → TM Unit) : State :=
  s.tblInstr c 3 f far (fun b => ecCmd b == cmd || decide (6 < ecCmd b)) ecSuit (fun _ b td => ecOk b td) work

/-- ROWPUT and ROWDEL (R283). -/
def execRowput (c : CtxRef) (f : LFields) (far : List Byte) (s : State) : Out := .next (s.ecmd c f far 0 (fun x b => tRowCommand c x b true))
def execRowdel (c : CtxRef) (f : LFields) (far : List Byte) (s : State) : Out := .next (s.ecmd c f far 1 (fun x b => tRowCommand c x b false))
/-- SHADOW and HAND (R293). -/
def execShadow (c : CtxRef) (f : LFields) (far : List Byte) (s : State) : Out := .next (s.ecmd c f far 2 (tShadow c))
def execHand (c : CtxRef) (f : LFields) (far : List Byte) (s : State) : Out := .next (s.ecmd c f far 3 (tHand c))
/-- FLIP: the table's epoch on this device advances (R292). -/
def execFlip (c : CtxRef) (f : LFields) (far : List Byte) (s : State) : Out :=
  .next (s.ecmd c f far 4 fun x b => do
    tMod (fun s => s.modReg (.emb (.epoch x.j (Fin.ofNat 256 x.table))) (fun w => BitVec.ofNat 64 ((w.toNat + 1) % 256)))
    tInvMap x
    tOver c x b)
/-- MAPINV (R292). -/
def execMapinv (c : CtxRef) (f : LFields) (far : List Byte) (s : State) : Out :=
  .next (s.ecmd c f far 5 fun x b => do
    tInvMap x
    tOver c x b)
/-- RSYNC (R284). -/
def execRsync (c : CtxRef) (f : LFields) (far : List Byte) (s : State) : Out := .next (s.ecmd c f far 6 (tRsync c))

/-! ### Messages received (R281, R282, R294) -/

/-- The packets of a message that wait at the ports. -/
def State.tableWaiting (s : State) (m : TblMsg) : List (PortId × Packet) :=
  s.inbox.filter (fun q => q.2.ptype == (tblCode m.body).1 && q.2.sdev == m.src && q.2.jslot == m.jslot && q.2.epoch == m.epoch
    && bitsOf (leAt q.2.body 0 8) 16 32 == m.rid.toNat)

/-- They are taken with their antes freed (R392). -/
def State.takeTable (s : State) (m : TblMsg) : State :=
  (s.tableWaiting m).foldl (fun (s : State) q =>
    { s with inbox := eraseFirst (· == q) s.inbox }.freeAntesOf q.1 q.2) s

/-- The job fault of a message, at the port it came by or at the tile it came from; the issuing tile and device are given either
way (R303). -/
def State.tblRecvFault (s : State) (p : PortId) (own : Bool) (m : TblMsg) (e : TErr) : State :=
  let u : UnitId := if own then (match tileOf? m.tile.toNat with | some t => .tile t | none => .none) else .port p
  let i : FaultInfo := { unit := u, tile := tileOf? m.tile.toNat, engine := some .table, src := some m.src }
  match e with
  | .eng (.xlate va kind) => s.raise m.jslot .engineXlate { i with addr := va, kind := some kind }
  | .eng (.poison pa dram) => s.raise m.jslot (if dram then .dramUe else .sramUe) { i with addr := pa, found := some 0 }
  | .job r addr extra => s.raise m.jslot r { i with addr := addr, extra := extra }

/-- A message taken by the table unit: one of this device, or one that a port brings (R391, R574). One of an earlier rubber is
dropped and counted; nothing is served for a job that stops (R448). -/
def State.tblRecv (s : State) (p : PortId) (m : TblMsg) (pt : BitVec 6) (f : State → Bool → DieId → State) : State :=
  if (tblCode m.body).1 ≠ pt ∨ s.computeOn = false then s
  else
    let own := s.tbl.queue.contains m
    if own = false ∧ (s.portUp p = false ∨ m.dst ≠ s.devId) then s
    else
      let n := max (s.tableWaiting m).length 1
      let s := if own then { s with tbl := { s.tbl with queue := eraseFirst (· == m) s.tbl.queue } } else s.takeTable m
      if (s.job m.jslot).epoch ≠ m.epoch ∨ (s.job m.jslot).st = .stopped then
        if own then s else s.modReg (.port p .lkdrop) (fun w => Word.addBits w 32 16 n)
      else if (s.job m.jslot).stop.isSome then s
      else f s own (if own then (match tileOf? m.tile.toNat with | some t => t.die | none => 0) else dieOfPort p)

/-- A request or command served at this device: its epoch first, then its shards (R294). -/
def State.tblServe (s : State) (p : PortId) (own : Bool) (m : TblMsg) (far : List Byte) (work : TC → TM Unit) : State :=
  match s.jobTile m.jslot with
  | none => s.tblRecvFault p own m (.eng (.xlate 0 .page))
  | some t =>
    let x : TC := { t := t, j := m.jslot, table := m.table.toNat, td := [], suit := m.suit }
    let go : TM Unit := do
      let e ← tGet (fun s => s.tblEpoch m.jslot m.table.toNat)
      if e ≠ m.tepoch then tFault x .embEpoch m.table.toNat
      else
        let x ← tTable x
        work x
    s.tRun far go (fun s e => s.tblRecvFault p own m e)

/-- EMBREQ: look-up entries, contributions or replica reads at their owner (R281, R284, R287, R294). -/
def execEmbreq (p : PortId) (m : TblMsg) (far : List Byte) (s : State) : Out :=
  .next (s.tblRecv p m ptEmbreq fun s own die => s.tblServe p own m far (fun x => tRequest x die m))

/-- EMBCMD: a row command or a section at the device it is for (R283, R293, R294). -/
def execEmbcmd (p : PortId) (m : TblMsg) (far : List Byte) (s : State) : Out :=
  .next (s.tblRecv p m ptEmbcmd fun s own die => s.tblServe p own m far (fun x => tCommand x die m))

/-- EMBRSP: a partial, rows or an acknowledgement at the requester (R282). -/
def execEmbrsp (p : PortId) (m : TblMsg) (far : List Byte) (s : State) : Out :=
  .next (s.tblRecv p m ptEmbrsp fun s own _ =>
    match s.tbl.ops.find? (fun o => o.id == m.rid.toNat && o.slot == m.jslot) with
    | none => s
    | some o =>
      let x : TC := { t := o.tile, j := o.slot, table := o.table, td := o.tab, suit := o.suit, asker := some o.ctx, seq := o.seq }
      s.tRun far (tAnswer x o m.body) (fun s e => s.tblRecvFault p own m e))

end Sys2Proof.Machine
end

