-- ==== Sys2Proof/Machine/Vector.lean ====
section
/-! DEFINITION. The vector engine (R183 to R215): the issue of its instructions, row transfers, and their completion. -/

namespace Sys2Proof.Machine

/-- A 32-bit vector word issued (R189); the scalar operand is read at issue. -/
def State.vecWord (s : State) (c : CtxRef) (i : VWord) : State :=
  let scalar := s.getX c (if i.op = 15 then Fin.ofNat 32 i.rs1 else Fin.ofNat 32 i.rs2)
  s.issueV c 4 (vWordBits i) (i.op == 14) fun V =>
    if vWordOk i V.vcfg then some (.word i scalar) else none

/-- A two-source word of an operation and format. -/
def binWord (op f : Nat) (v : VFields) : VWord :=
  { m := v.m, sm := v.sm.val, op := op, rs2 := v.rs2.val, rs1 := v.rs1.val, f := f, rd := v.rd.val }

/-- A word whose rs2 field is a code. -/
def codeWord (op code f : Nat) (u : UFields) : VWord :=
  { m := u.m, sm := u.sm.val, op := op, rs2 := code, rs1 := u.rs1.val, f := f, rd := u.rd.val }

/-! ### OP 0 to 11: one definition per instruction -/

def execVadd (c : CtxRef) (f : Fin 6) (v : VFields) (s : State) : Out := .next (s.vecWord c (binWord 0 f.val v))
def execVsub (c : CtxRef) (f : Fin 6) (v : VFields) (s : State) : Out := .next (s.vecWord c (binWord 1 f.val v))
def execVmul (c : CtxRef) (f : Fin 6) (v : VFields) (s : State) : Out := .next (s.vecWord c (binWord 2 f.val v))
def execVfma (c : CtxRef) (f : Fin 5) (v : VFields) (s : State) : Out := .next (s.vecWord c (binWord 3 f.val v))
def execVmacc (c : CtxRef) (v : VFields) (s : State) : Out := .next (s.vecWord c (binWord 3 5 v))
def execVmin (c : CtxRef) (f : Fin 6) (v : VFields) (s : State) : Out := .next (s.vecWord c (binWord 4 f.val v))
def execVmax (c : CtxRef) (f : Fin 6) (v : VFields) (s : State) : Out := .next (s.vecWord c (binWord 5 f.val v))
def execVdiv (c : CtxRef) (f : Fin 6) (v : VFields) (s : State) : Out := .next (s.vecWord c (binWord 6 f.val v))
def execVsgnj (c : CtxRef) (f : Fin 5) (v : VFields) (s : State) : Out := .next (s.vecWord c (binWord 7 f.val v))
def execVrem (c : CtxRef) (v : VFields) (s : State) : Out := .next (s.vecWord c (binWord 7 5 v))
def execVcmpeq (c : CtxRef) (f : Fin 6) (v : VFields) (s : State) : Out := .next (s.vecWord c (binWord 8 f.val v))
def execVcmplt (c : CtxRef) (f : Fin 6) (v : VFields) (s : State) : Out := .next (s.vecWord c (binWord 9 f.val v))
def execVcmple (c : CtxRef) (f : Fin 6) (v : VFields) (s : State) : Out := .next (s.vecWord c (binWord 10 f.val v))
def execVcmpun (c : CtxRef) (f : Fin 5) (v : VFields) (s : State) : Out := .next (s.vecWord c (binWord 11 f.val v))
def execVsra (c : CtxRef) (v : VFields) (s : State) : Out := .next (s.vecWord c (binWord 11 5 v))
def execVand (c : CtxRef) (v : VFields) (s : State) : Out := .next (s.vecWord c (binWord 0 6 v))
def execVor (c : CtxRef) (v : VFields) (s : State) : Out := .next (s.vecWord c (binWord 1 6 v))
def execVxor (c : CtxRef) (v : VFields) (s : State) : Out := .next (s.vecWord c (binWord 2 6 v))
def execVshl (c : CtxRef) (v : VFields) (s : State) : Out := .next (s.vecWord c (binWord 3 6 v))
def execVminu (c : CtxRef) (v : VFields) (s : State) : Out := .next (s.vecWord c (binWord 4 6 v))
def execVmaxu (c : CtxRef) (v : VFields) (s : State) : Out := .next (s.vecWord c (binWord 5 6 v))
def execVdivu (c : CtxRef) (v : VFields) (s : State) : Out := .next (s.vecWord c (binWord 6 6 v))
def execVremu (c : CtxRef) (v : VFields) (s : State) : Out := .next (s.vecWord c (binWord 7 6 v))
def execVandn (c : CtxRef) (v : VFields) (s : State) : Out := .next (s.vecWord c (binWord 8 6 v))
def execVcmpltu (c : CtxRef) (v : VFields) (s : State) : Out := .next (s.vecWord c (binWord 9 6 v))
def execVcmpleu (c : CtxRef) (v : VFields) (s : State) : Out := .next (s.vecWord c (binWord 10 6 v))
def execVsrl (c : CtxRef) (v : VFields) (s : State) : Out := .next (s.vecWord c (binWord 11 6 v))

/-! ### OP 15 -/

def execMov (c : CtxRef) (f : Fin 7) (u : UFields) (s : State) : Out := .next (s.vecWord c (codeWord 15 0 f.val u))
def execNeg (c : CtxRef) (f : Fin 7) (u : UFields) (s : State) : Out := .next (s.vecWord c (codeWord 15 1 f.val u))
def execAbs (c : CtxRef) (f : Fin 7) (u : UFields) (s : State) : Out := .next (s.vecWord c (codeWord 15 2 f.val u))
def execSqrt (c : CtxRef) (f : Fin 7) (u : UFields) (s : State) : Out := .next (s.vecWord c (codeWord 15 3 f.val u))
def execRsqrt (c : CtxRef) (f : Fin 7) (u : UFields) (s : State) : Out := .next (s.vecWord c (codeWord 15 4 f.val u))
def execRecip (c : CtxRef) (f : Fin 7) (u : UFields) (s : State) : Out := .next (s.vecWord c (codeWord 15 5 f.val u))
def execExp (c : CtxRef) (f : Fin 7) (u : UFields) (s : State) : Out := .next (s.vecWord c (codeWord 15 6 f.val u))
def execExp2 (c : CtxRef) (f : Fin 7) (u : UFields) (s : State) : Out := .next (s.vecWord c (codeWord 15 7 f.val u))
def execLog (c : CtxRef) (f : Fin 7) (u : UFields) (s : State) : Out := .next (s.vecWord c (codeWord 15 8 f.val u))
def execLog2 (c : CtxRef) (f : Fin 7) (u : UFields) (s : State) : Out := .next (s.vecWord c (codeWord 15 9 f.val u))
def execTanh (c : CtxRef) (f : Fin 7) (u : UFields) (s : State) : Out := .next (s.vecWord c (codeWord 15 10 f.val u))
def execSigmoid (c : CtxRef) (f : Fin 7) (u : UFields) (s : State) : Out := .next (s.vecWord c (codeWord 15 11 f.val u))
def execGelu (c : CtxRef) (f : Fin 7) (u : UFields) (s : State) : Out := .next (s.vecWord c (codeWord 15 12 f.val u))
def execSilu (c : CtxRef) (f : Fin 7) (u : UFields) (s : State) : Out := .next (s.vecWord c (codeWord 15 13 f.val u))
def execErf (c : CtxRef) (f : Fin 7) (u : UFields) (s : State) : Out := .next (s.vecWord c (codeWord 15 14 f.val u))
def execSin (c : CtxRef) (f : Fin 7) (u : UFields) (s : State) : Out := .next (s.vecWord c (codeWord 15 15 f.val u))
def execCos (c : CtxRef) (f : Fin 7) (u : UFields) (s : State) : Out := .next (s.vecWord c (codeWord 15 16 f.val u))
def execFloor (c : CtxRef) (f : Fin 7) (u : UFields) (s : State) : Out := .next (s.vecWord c (codeWord 15 17 f.val u))
def execCeil (c : CtxRef) (f : Fin 7) (u : UFields) (s : State) : Out := .next (s.vecWord c (codeWord 15 18 f.val u))
def execRint (c : CtxRef) (f : Fin 7) (u : UFields) (s : State) : Out := .next (s.vecWord c (codeWord 15 19 f.val u))
def execTrunc (c : CtxRef) (f : Fin 7) (u : UFields) (s : State) : Out := .next (s.vecWord c (codeWord 15 20 f.val u))
def execTranspose (c : CtxRef) (f : Fin 7) (u : UFields) (s : State) : Out := .next (s.vecWord c (codeWord 15 21 f.val u))
def execNot (c : CtxRef) (f : Fin 7) (u : UFields) (s : State) : Out := .next (s.vecWord c (codeWord 15 23 f.val u))
def execPopcnt (c : CtxRef) (f : Fin 7) (u : UFields) (s : State) : Out := .next (s.vecWord c (codeWord 15 24 f.val u))
def execClz (c : CtxRef) (f : Fin 7) (u : UFields) (s : State) : Out := .next (s.vecWord c (codeWord 15 25 f.val u))

/-! ### OP 12 to 14 -/

def execReduceSum (c : CtxRef) (f : Fin 7) (u : UFields) (s : State) : Out := .next (s.vecWord c (codeWord 12 0 f.val u))
def execReduceMax (c : CtxRef) (f : Fin 7) (u : UFields) (s : State) : Out := .next (s.vecWord c (codeWord 12 1 f.val u))
def execReduceMin (c : CtxRef) (f : Fin 7) (u : UFields) (s : State) : Out := .next (s.vecWord c (codeWord 12 2 f.val u))
def execReduceSumsq (c : CtxRef) (f : Fin 7) (u : UFields) (s : State) : Out := .next (s.vecWord c (codeWord 12 3 f.val u))
def execShuffle (c : CtxRef) (f : Fin 7) (v : VFields) (s : State) : Out := .next (s.vecWord c (binWord 13 f.val v))
def execPopc (c : CtxRef) (f : Fin 7) (u : UFields) (s : State) : Out := .next (s.vecWord c (codeWord 14 0 f.val u))
def execAny (c : CtxRef) (f : Fin 7) (u : UFields) (s : State) : Out := .next (s.vecWord c (codeWord 14 1 f.val u))
def execAll (c : CtxRef) (f : Fin 7) (u : UFields) (s : State) : Out := .next (s.vecWord c (codeWord 14 2 f.val u))
def execFirst (c : CtxRef) (f : Fin 7) (u : UFields) (s : State) : Out := .next (s.vecWord c (codeWord 14 3 f.val u))
def execFmax (c : CtxRef) (f : Fin 7) (u : UFields) (s : State) : Out := .next (s.vecWord c (codeWord 14 4 f.val u))
def execFmin (c : CtxRef) (f : Fin 7) (u : UFields) (s : State) : Out := .next (s.vecWord c (codeWord 14 5 f.val u))
def execSum (c : CtxRef) (f : Fin 7) (u : UFields) (s : State) : Out := .next (s.vecWord c (codeWord 14 6 f.val u))

/-! ### VLD and VST (R205, R206) -/

/-- Bytes of a row of a transfer by its W field. -/
def rowSize (w : Fin 4) : Nat :=
  match w with
  | 0 => 64 | 1 => 128 | 2 => 256 | 3 => 128

/-- Whether a transfer's register suits its W field (R205). -/
def transferOk (rd : Nat) (w : Fin 4) : Bool :=
  match w with
  | 0 => isT rd
  | 1 => (isT rd && rd % 2 == 0) || isA rd
  | 2 => isT rd && rd % 4 == 0
  | 3 => isQ rd

/-- VLD and VST at issue (R205, R206). -/
def State.vecTransfer (s : State) (c : CtxRef) (f7 : Nat) (f : LFields) (acc : AccKind)
    (mk : Nat → Fin 4 → List (List RowPiece) → VOp) : State :=
  let bits := lWord 4 f7 f
  let imm := f.imm.toNat
  let w : Fin 4 := Fin.ofNat 4 (bitsOf imm 16 2)
  s.issue c 8 fun s =>
    match (s.ctx c).vctx with
    | none => s.illegal c bits
    | some v =>
      let V := s.vctx c.tile v
      if bitsOf imm 19 13 ≠ 0 ∨ transferOk f.rd.val w = false then s.illegal c bits
      else if 16 ≤ V.queue.length then s.stallRetry c
      else
        let base := (s.getX c f.rs1 + sext 16 (bitsOf imm 0 16) * 16).toNat
        let stride := if f.rs2 = 0 then rowSize w else (s.getX c f.rs2).toNat
        let mis := if acc = AccKind.read then 4 else 6
        if base % 16 ≠ 0 then s.exception c mis (BitVec.ofNat 64 base)
        else if stride % 16 ≠ 0 then s.exception c mis (BitVec.ofNat 64 (base + stride))
        else
          let rows := if w = 3 then 1 else if imm.testBit 18 then 32 else Word.bits V.vlr 0 6
          match s.rowsOf c.tile (s.ctx c).priv base stride (rowSize w) acc rows with
          | (.error e, s) => s.exception c e.cause (BitVec.ofNat 64 e.va)
          | (.ok l, s) => (s.pushV c v (mk f.rd.val w l)).retire c 8

def execVld (c : CtxRef) (f : LFields) (s : State) : Out := .next (s.vecTransfer c 0 f .read .load)
def execVst (c : CtxRef) (f : LFields) (s : State) : Out := .next (s.vecTransfer c 1 f .write .store)

/-! ### VCVT, VMLOGIC, VCLRST (R192) -/

def execVcvt (c : CtxRef) (f : LFields) (s : State) : Out :=
  let i := f.imm.toNat
  .next (s.issueV c 8 (lWord 4 2 f) false fun _ =>
    if f.rs2 = 0 ∧ bitsOf i 13 19 = 0 ∧ cvtOk f.rd.val f.rs1.val (bitsOf i 0 5) (bitsOf i 5 5) then
      some (.cvt f.rd.val f.rs1.val (bitsOf i 0 5) (bitsOf i 5 5) (bitsOf i 10 2) (i.testBit 12))
    else none)

def execVmlogic (c : CtxRef) (f : LFields) (s : State) : Out :=
  let i := f.imm.toNat
  .next (s.issueV c 8 (lWord 4 3 f) false fun _ =>
    if bitsOf i 3 29 = 0 ∧ isQ f.rd.val ∧ isQ f.rs1.val ∧ isQ f.rs2.val then
      some (.mlogic f.rd.val f.rs1.val f.rs2.val (bitsOf i 0 3))
    else none)

def execVclrst (c : CtxRef) (f : LFields) (s : State) : Out :=
  .next (s.issueV c 8 (lWord 4 4 f) false fun _ =>
    if f.rd = 0 ∧ f.rs1 = 0 ∧ f.rs2 = 0 ∧ f.imm = 0 then some .clrst else none)

/-! ### Completion (R212) -/

/-- Rows written to memory (R206). -/
def State.writeRows (s : State) (t : TileId) (fb : FarBy) (rows : List (List RowPiece)) (data : List (List Byte)) : State :=
  (rows.zip data).foldl (fun s rd =>
    (rd.1.foldl (fun (a : State × List Byte) (p : RowPiece) =>
      let part := a.2.take p.len
      (match p.far with
        | none => a.1.writeAt p.pa part
        | some dev => a.1.farWrites t fb dev p.pa part,
       a.2.drop p.len)) (s, rd.2)).1) s

/-- A register loaded with rows of bytes (R205). -/
def VFile.loadRows (v : VFile) (rd : Nat) (w : Fin 4) (rows : List (List Byte)) : VFile :=
  if w = 3 then v.put (0x10000 + (rd - 20) * 128) (padTo 128 (rows.headD []))
  else if isA rd then
    v.putGrid rd 32 ((List.range rows.length).flatMap fun r =>
      (List.range 32).map fun c => ((r, c), leAt (rows.getD r []) (4 * c) 4))
  else
    (List.range rows.length).foldl (fun v r =>
      (List.range (rowSize w / 64)).foldl (fun v k =>
        v.put ((rd + k) * 2048 + r * 64) (slice (rows.getD r []) (64 * k) 64)) v) v

/-- The rows of a register as VST writes them (R205, R240). -/
def VFile.storeRows (v : VFile) (rd : Nat) (w : Fin 4) (n : Nat) : List (List Byte) :=
  if w = 3 then [v.bytes (0x10000 + (rd - 20) * 128) 128]
  else if isA rd then
    (List.range n).map fun r => (List.range 32).flatMap fun c => leBytes 4 (v.elem rd 32 r c)
  else
    (List.range n).map fun r =>
      (List.range (rowSize w / 64)).flatMap fun k => v.bytes ((rd + k) * 2048 + r * 64) 64

/-- For whom a vector context's operation goes to a far page (R363). -/
def State.vby (s : State) (t : TileId) (v : VctxId) (q : VQ) : FarBy :=
  match (s.vctx t v).owner with
  | some c => { ctx := some c, seq := q.seq, suit := (s.ctx { tile := t, ctx := c }).suit }
  | none => { ctx := none, seq := q.seq, suit := 2 }

/-- The configuration a queued instruction captured. -/
def VQ.cap (q : VQ) : VCap := { vcfg := q.vcfg, vlr := q.vlr, vlc := q.vlc }

/-- The head of a queue gone, the instruction counted (R210), and contexts that waited for it going on. -/
def State.popV (s : State) (t : TileId) (v : VctxId) (counted : Bool) : State :=
  let s := s.modVctx t v (fun V => { V with queue := V.queue.tail })
  (if counted then s.bump t .vinstr else s).progress t

/-- A register file put back. -/
def State.setFile (s : State) (t : TileId) (v : VctxId) (f : VFile) : State := s.modVctx t v (fun V => { V with file := f })

/-- The completion of a plain vector instruction at the head of a vector context's queue (R212). EPRUN and VSMX complete
by the epilogue unit's definitions, MMA and MMA.D by their passes: those answer none. -/
def State.completeVec (s : State) (t : TileId) (v : VctxId) (q : VQ) (far : List Byte) : Option State :=
  let V := s.vctx t v
  let f := V.file
  let c : Option CtxRef := V.owner.map (fun x => { tile := t, ctx := x })
  let fb := s.vby t v q
  let done := fun (s : State) => some (s.popV t v true)
  match q.op with
  | .word i scalar =>
    if i.op = 14 then
      let (r, fl) := f.summary q.cap i
      let s := s.setFile t v (f.flag fl 0)
      let s := match c with
        | some c => s.modCtx c (fun k => ((k.setX (Fin.ofNat 32 i.rd) r).retire 4).wake)
        | none => s
      done s
    else
      let (f, bad) := f.exec q.cap i scalar
      done ((s.setFile t v f).bump t .vlane bad)
  | .cvt rd rs1 d sf rm m => done (s.setFile t v (f.cvt q.cap m rd rs1 d sf rm))
  | .mlogic rd rs1 rs2 lop => done (s.setFile t v (f.mlogic q.cap rd rs1 rs2 lop))
  | .clrst => done (s.setFile t v { f with stat := 0 })
  | .load rd w rows =>
    match s.readRows t fb rows far with
    | (.error e, s) => done (s.raiseEngine t V.owner e { engine := some .vector, vctx := some v, extra := v.val })
    | (.ok l, s) => done (s.setFile t v (f.loadRows rd w l))
  | .store rd w rows => done (s.writeRows t fb rows (f.storeRows rd w rows.length))
  | _ => none

end Sys2Proof.Machine
end

