-- ==== Sys2Proof/Machine/Matrix.lean ====
section
/-! DEFINITION. The matrix engine (R216 to R247) and the epilogues and prologues that run on it (R248 to R262): operand
images, passes, accumulators, and the commands MMA, MMA.D, EPRUN, VSMX, MATRIX_PASS_COMPLETE and
VECTOR_INSTRUCTION_COMPLETE. -/

namespace Sys2Proof.Machine

/-! ### Configuration (R217, R243) -/

def mxA (cfg : Word) : Nat := Word.bits cfg 0 5
def mxB (cfg : Word) : Nat := Word.bits cfg 5 5
def mxSparse (cfg : Word) : Bool := Word.bit cfg 10
def mxSplit (cfg : Word) : Bool := Word.bit cfg 11
def mxScratch (cfg : Word) : Bool := Word.bit cfg 12
def mxComp (cfg : Word) : Bool := Word.bit cfg 13

/-- Whether the operand formats may be combined (R217). -/
def mxFormatsOk (a b : Nat) : Bool :=
  let mid := fun (x : Nat) => decide (16 ≤ x ∧ x ≤ 19)
  ((a == 3 || a == 4) && (b == 3 || b == 4)) || ((mid a || a == 20) && (mid b || b == 20)) || (a == 21 && b == 21)
  || (a == 5 && b == 5) || ((a == 1 || a == 2) && (b == 1 || b == 2))

/-- Whether a format has 8-bit elements in unpacked rows. -/
def mx8 (f : Nat) : Bool := f == 3 || f == 4 || f == 5

/-- Whether an A image, and a B image, needs two registers (R218, R219). -/
def mxTwoA (cfg : Word) : Bool := !(mx8 (mxA cfg) && !mxSplit cfg)
def mxTwoB (cfg : Word) : Bool := mxSparse cfg || !mx8 (mxB cfg)

/-! ### Operand images (R218, R219) -/

/-- An operand image: its bytes by offset. -/
abbrev Img := Nat → Nat

/-- The image in registers from Tn on, and the image in a list of bytes. -/
def VFile.img (v : VFile) (reg : Nat) : Img := fun o => (Mem.get v.image (reg * 2048 + o)).toNat
def listImg (l : List Byte) : Img := fun o => (l.getD o 0).toNat

/-- Element c of a packed row of `w`-bit elements at an offset. -/
def Img.packed (i : Img) (off w c : Nat) : Nat :=
  let b := w * c
  bitsOf (i (off + b / 8) + 256 * i (off + b / 8 + 1)) (b % 8) w

/-- The width of an MX element by its code. -/
def mxWidth (f : Nat) : Nat :=
  match f with
  | 18 => 6 | 19 => 6 | 20 => 4 | _ => 8

/-- The code of element (row, k) of a dense image (R218). -/
def Img.dense (i : Img) (f : Nat) (split : Bool) (row k : Nat) : Nat :=
  if mx8 f then (if split && decide (32 ≤ k) then i (2048 + row * 64 + k - 32) else i (row * 64 + k))
  else
    let base := 2048 * (k / 32) + row * 64
    if f ≤ 2 then i (base + 2 * (k % 32)) + 256 * i (base + 2 * (k % 32) + 1)
    else i.packed base (mxWidth f) (k % 32)

/-- Kept value j of column n of a sparse image, and its position in its group (R219). -/
def Img.kept (i : Img) (f n j : Nat) : Nat :=
  if mx8 f then i (n * 64 + j)
  else if f ≤ 2 then i (n * 64 + 2 * j) + 256 * i (n * 64 + 2 * j + 1)
  else i.packed (n * 64) (mxWidth f) j
def Img.keptPos (i : Img) (n j : Nat) : Nat := bitsOf (i (2048 + n * 64 + j / 4)) (2 * (j % 4)) 2

/-- The scale byte of block h of a row (R218, R219). -/
def Img.scaleA (i : Img) (row h : Nat) : Nat := i (2048 * h + row * 64 + 63)
def Img.scaleB (i : Img) (sparse : Bool) (n h : Nat) : Nat :=
  if sparse then i (n * 64 + 62 + h) else i (2048 * h + n * 64 + 63)

/-- The value of an operand element; an MXINT8 element is its integer, scaled at promotion (R231). -/
def mxVal (f b : Nat) : FVal :=
  match f with
  | 1 => bf16.decode b
  | 2 => fp16.decode b
  | 3 => e4m3.decode b
  | 4 => e5m2.decode b
  | 16 => e4m3.decode b
  | 17 => e5m2.decode b
  | 18 => e3m2.decode b
  | 19 => e2m3.decode b
  | 20 => e2m1.decode b
  | _ => dyadic (signed 8 b) 0

/-- The products of group g of one output element in their order: pairs of codes of A and B (R219, R230). -/
def groupPairs (cfg : Word) (a b : Img) (m n g : Nat) : List (Nat × Nat) :=
  if mxSparse cfg then
    (List.range 8).map fun i =>
      let j := 8 * g + i
      (a.dense (mxA cfg) (mxSplit cfg) m (4 * (j / 2) + b.keptPos n j), b.kept (mxB cfg) n j)
  else
    (List.range 16).map fun i =>
      (a.dense (mxA cfg) (mxSplit cfg) m (16 * g + i), b.dense (mxB cfg) false n (16 * g + i))

/-! ### The narrow chain and promotion (R230 to R233) -/

/-- Status flags of a result: NV and OF only (R232). -/
def accFlags (fl : Nat) : Nat := (if fl % 2 = 1 then 2 ^ 43 else 0) + (if fl.testBit 1 then 2 ^ 44 else 0)

/-- The narrow partial of a group, with the flags its chain raised (R230, R232). -/
def narrowChain (cfg : Word) (bad : Bool) (l : List (Nat × Nat)) : Res :=
  l.foldl (fun a p =>
    let pr := if bad then (FVal.nan, false) else mulVal (mxVal (mxA cfg) p.1) (mxVal (mxB cfg) p.2)
    let r := narrow.deliver (addVal (narrow.decode a.bits) pr.1)
    { bits := r.bits, flags := a.flags ||| r.flags ||| (if pr.2 then fNV else 0) }) (Res.ok 0)

/-- An accumulator element: hi, its compensation word, and status flags raised. -/
structure AccElem where
  hi : Nat
  lo : Nat
  flags : Nat
  deriving DecidableEq, Repr

/-- A partial promoted into an element (R231). Where the sum is not finite, hi takes it and lo is +0 (R232). -/
def promote (comp : Bool) (e : AccElem) (x : Res) : AccElem :=
  let sum := addVal (fp32.decode e.hi) (fp32.decode x.bits)
  let t := fp32.deliver sum
  if !comp then { e with hi := t.bits, flags := e.flags ||| accFlags (x.flags ||| t.flags) }
  else if !(fp32.decode t.bits).isFin then
    { hi := t.bits, lo := 0, flags := e.flags ||| accFlags (x.flags ||| t.flags) }
  else
    let err := (addVal sum.1 (fp32.decode t.bits).neg).1
    let lo := fp32.put .even (addVal (fp32.decode e.lo) err).1
    let u := fp32.add t.bits lo.bits
    let lo2 := fp32.sub lo.bits (fp32.sub u.bits t.bits).bits
    { hi := u.bits, lo := if (fp32.decode u.bits).isFin then lo2.bits else 0,
      flags := e.flags ||| accFlags (x.flags ||| t.flags ||| u.flags) }

/-- One element's pass in a float format: four groups in ascending order (R230, R231). -/
def floatPass (cfg : Word) (a b : Img) (comp : Bool) (m n : Nat) (e : AccElem) : AccElem :=
  (List.range 4).foldl (fun e g =>
    let h := g / 2
    let mx := decide (16 ≤ mxA cfg)
    let sa := a.scaleA m h
    let sb := b.scaleB (mxSparse cfg) n h
    let x := narrowChain cfg (mx && (sa == 255 || sb == 255)) (groupPairs cfg a b m n g)
    let v := narrow.decode x.bits
    let x := if mx then
        let r := fp32.put .even (v.scaleBy ((sa : Int) - 127 + ((sb : Int) - 127) + (if mxA cfg = 21 then -12 else 0)))
        { r with flags := r.flags ||| x.flags }
      else { bits := (fp32.put .even v).bits, flags := x.flags }
    promote comp e x) e

/-- One element's pass in INT8: exact, modulo 2^32, with WRAP (R233). -/
def intPass (cfg : Word) (a b : Img) (m n : Nat) (e : AccElem) : AccElem :=
  (List.range 4).foldl (fun e g =>
    let x := (groupPairs cfg a b m n g).foldl (fun s p => s + signed 8 p.1 * signed 8 p.2) (0 : Int)
    let y := signed 32 e.hi + x
    { e with hi := unsigned 32 y,
             flags := e.flags ||| (if y < intLo 32 true ∨ intHi 32 true < y then 2 ^ 45 else 0) }) e

/-- The status word of an accumulator before and after a pass: whether it is compensated, and the word (R234). -/
def passStatus (cfg st : Word) : Bool × Word :=
  let cnt := Word.bits st 0 41
  let comp := mxComp cfg || decide (2 ^ 20 ≤ cnt)
  let st := Word.setBits st 0 41 (min (2 ^ 40) (cnt + 64))
  let st := if comp then Word.setBit st 41 true else st
  (comp, if 2 ^ 40 < cnt + 64 then Word.setBit st 42 true else st)

/-- The accumulator of a register file after one pass over the given rows (R225, R226, R230 to R234). -/
def VFile.pass (v : VFile) (reg : Nat) (cfg : Word) (a b : Img) (rows : List Nat) : VFile × Bool :=
  let (comp, st) := passStatus cfg (Tab.get 0 v.acc (accIdx reg))
  let cells := rows.flatMap (fun m => (List.range 32).map (fun n => (m, n)))
  let (v, fl) := cells.foldl (fun (w : VFile × Nat) p =>
    let e : AccElem := { hi := w.1.num (gridOff reg 32 p.1 p.2) 4, lo := w.1.num (loOff reg p.1 p.2) 4, flags := 0 }
    let e' := if mxA cfg = 5 then intPass cfg a b p.1 p.2 e else floatPass cfg a b comp p.1 p.2 e
    ((w.1.put (gridOff reg 32 p.1 p.2) (leBytes 4 e'.hi)).put (loOff reg p.1 p.2) (leBytes 4 e'.lo), w.2 ||| e'.flags)) (v, 0)
  ({ v with acc := Tab.set v.acc (accIdx reg) (st ||| BitVec.ofNat 64 fl) }, comp)

/-- An accumulator's status word after a pass that the block mask skips: it counts as any other does (R226, R234). -/
def VFile.skipPass (v : VFile) (reg : Nat) (cfg : Word) : VFile :=
  { v with acc := Tab.set v.acc (accIdx reg) (passStatus cfg (Tab.get 0 v.acc (accIdx reg))).2 }

/-- An accumulator cleared: hi, lo and the status word (R220, R241). -/
def VFile.clearAcc (v : VFile) (reg : Nat) : VFile :=
  { v with image := Mem.clear (Mem.clear v.image (gridOff reg 32 0 0) (gridOff reg 32 0 0 + 4096)) (loOff reg 0 0) (loOff reg 0 0 + 4096)
           acc := Tab.set v.acc (accIdx reg) 0 }

/-- The rows named by a mask. -/
def maskRows (w : Nat) : List Nat := onesOf 32 w

/-! ### MMA (R220, R221) -/

/-- MMA issued: `top` holds bits [31:26]. -/
def execMma (c : CtxRef) (z : Bool) (top : BitVec 6) (f : RFields) (s : State) : Out :=
  .next (s.issueV c 4 (rWord 0x2B 0 (z.toNat + 2 * top.toNat) f) false fun V =>
    let cfg := V.mxcfg
    if top = 0 ∧ isA f.rd.val ∧ isT f.rs1.val ∧ isT f.rs2.val ∧ (mxTwoA cfg = false ∨ f.rs1.val % 2 = 0)
        ∧ (mxTwoB cfg = false ∨ f.rs2.val % 2 = 0) ∧ mxFormatsOk (mxA cfg) (mxB cfg) then
      some (.mma f.rd.val f.rs1.val f.rs2.val z cfg V.mxrmask)
    else none)

/-! ### MMA.D (R222 to R229) -/

def mdAva (b : List Byte) : Nat := leAt b 0x00 8
def mdBva (b : List Byte) : Nat := leAt b 0x08 8
def mdKb (b : List Byte) : Nat := bitsOf (leAt b 0x10 8) 0 12 + 1
def mdNb (b : List Byte) : Nat := bitsOf (leAt b 0x10 8) 12 6 + 1
def mdAcc (b : List Byte) : Nat := bitsOf (leAt b 0x10 8) 18 2
def mdRt (b : List Byte) : Bool := (leAt b 0x10 8).testBit 20
def mdBm (b : List Byte) : Bool := (leAt b 0x10 8).testBit 21
def mdPro (b : List Byte) : Bool := (leAt b 0x10 8).testBit 22
def mdEpi (b : List Byte) : Bool := (leAt b 0x10 8).testBit 23
def mdRowmask (b : List Byte) : Nat := leAt b 0x18 4
def mdBmva (b : List Byte) : Nat := leAt b 0x20 8
def mdTagva (b : List Byte) : Nat := leAt b 0x28 8
def mdStride (b : List Byte) : Nat := leAt b 0x30 8
def mdPsoff (b : List Byte) : Nat := bitsOf (leAt b 0x38 8) 0 24
def mdProva (b : List Byte) : Nat := leAt b 0x40 8
def mdEpiva (b : List Byte) : Nat := leAt b 0x48 8

/-- Whether a VA field has its reserved bits 0. -/
def vaOk (x : Nat) : Bool := decide (x < 2 ^ 48)

/-- Whether an MMA.D descriptor keeps R223 and R224, its program descriptors apart. -/
def State.mdOk (s : State) (t : TileId) (b : List Byte) (scratch : Bool) : Bool :=
  bitsOf (leAt b 0x10 8) 24 40 == 0 && leAt b 0x1C 4 == 0 && bitsOf (leAt b 0x30 8) 40 24 == 0
  && bitsOf (leAt b 0x38 8) 24 40 == 0 && leAt b 0x50 16 == 0
  && vaOk (mdAva b) && vaOk (mdBva b) && aligned (mdAva b) 64 && aligned (mdBva b) 64
  && (!mdBm b || (vaOk (mdBmva b) && aligned (mdBmva b) 8))
  && (!mdRt b || (vaOk (mdTagva b) && aligned (mdStride b) 64))
  && (!mdPro b || (vaOk (mdProva b) && aligned (mdProva b) 64))
  && (!mdEpi b || (vaOk (mdEpiva b) && aligned (mdEpiva b) 64))
  && (if scratch then aligned (mdPsoff b) 64 && s.inScratch t (mdPsoff b) (mdNb b * 8200)
      else decide (mdAcc b + mdNb b ≤ 4))

/-- MATRIX_DESC raised for a context, and the instruction retired without further effect. -/
def State.matrixDesc (s : State) (c : CtxRef) (va n : Nat) : State :=
  (s.raiseTile c.tile .matrixDesc { ctx := some c.ctx, addr := va, engine := some .matrix, vctx := (s.ctx c).vctx, desc := some va }).retire c n

/-- A program descriptor read when it is named, else nothing. -/
def State.readProg (s : State) (c : CtxRef) (on : Bool) (va : Nat) (far : List Byte) : DescRead × State :=
  if on then s.readDesc c va 448 64 far else (.ok [], s)

/-- The bytes of far pages that a descriptor's read used up. -/
def State.farUsed (s : State) (c : CtxRef) (va : Nat) (n : Nat) : Nat :=
  match s.rowPieces c.tile (s.ctx c).priv va n .read with
  | (.ok ps, _) => (ps.filter (fun p => p.far.isSome)).foldl (fun a p => a + p.len) 0
  | _ => 0

/-- MMA.D issued (R222 to R224, R251). `far`: the data of far pages that its descriptors lie in. -/
def execMmaD (c : CtxRef) (f : LFields) (far : List Byte) (s : State) : Out :=
  let bits := lWord 0 0 f
  let va := (s.getX c f.rs1).toNat
  .next (s.issue c 8 fun s =>
    match (s.ctx c).vctx with
    | none => s.illegal c bits
    | some v =>
      let V := s.vctx c.tile v
      let cfg := V.mxcfg
      if f.rd ≠ 0 ∨ f.rs2 ≠ 0 ∨ bitsOf f.imm.toNat 1 31 ≠ 0 ∨ mxFormatsOk (mxA cfg) (mxB cfg) = false then s.illegal c bits
      else if 16 ≤ V.queue.length then s.stallRetry c
      else
        s.withDesc c 8 .matrix va (s.readDesc c va 96 32 far) fun s b =>
          if s.mdOk c.tile b (mxScratch cfg) = false then s.matrixDesc c va 8
          else
            let far := far.drop (s.farUsed c va 96)
            s.withDesc c 8 .matrix va (s.readProg c (mdPro b) (mdProva b) far) fun s pro =>
              let far := if mdPro b then far.drop (s.farUsed c (mdProva b) 448) else far
              s.withDesc c 8 .matrix va (s.readProg c (mdEpi b) (mdEpiva b) far) fun s epi =>
                if (mdPro b ∧ pgOk pro 1 V.vcfg (s.spadesOk c) = false) ∨ (mdEpi b ∧ pgOk epi 0 V.vcfg (s.spadesOk c) = false) then
                  s.matrixDesc c va 8
                else
                  (s.pushV c v (.mmad { va := va, desc := b, pro := pro, epi := epi, z := f.imm.getLsbD 0, cfg := cfg, pred := V.mxpred,
                                        tags := none, started := false, done := [], blocks := 0 })).retire c 8)

/-! ### Output blocks in either placement (R237) -/

/-- The register file that holds output block nb: the context's own with its accumulator, or one whose A0 is the
scratchpad block. -/
def State.blockFile (s : State) (t : TileId) (f : VFile) (d : MmaD) (nb : Nat) : VFile × Nat :=
  if mxScratch d.cfg then
    let base := sramPa t (mdPsoff d.desc)
    let f := f.put 0x8000 (s.bytes (base + nb * 8192) 4096)
    let f := f.put 0xC000 (s.bytes (base + nb * 8192 + 4096) 4096)
    ({ f with acc := Tab.set f.acc 0 (BitVec.ofNat 64 (s.num (base + mdNb d.desc * 8192 + nb * 8) 8)) }, 16)
  else (f, 16 + mdAcc d.desc + nb)

/-- The read of a scratchpad block checked (R347). -/
def State.seeBlock (s : State) (t : TileId) (d : MmaD) (nb : Nat) : State :=
  if mxScratch d.cfg then
    let base := sramPa t (mdPsoff d.desc)
    (s.sramSeen t (base + nb * 8192) 8192).sramSeen t (base + mdNb d.desc * 8192 + nb * 8) 8
  else s

/-- An output block put back where it is kept. -/
def State.putBlock (s : State) (t : TileId) (v : VctxId) (d : MmaD) (nb : Nat) (g : VFile) : State :=
  if mxScratch d.cfg then
    let base := sramPa t (mdPsoff d.desc)
    let s := s.writeAt (base + nb * 8192) (g.bytes 0x8000 4096)
    let s := s.writeAt (base + nb * 8192 + 4096) (g.bytes 0xC000 4096)
    s.writeAt (base + mdNb d.desc * 8192 + nb * 8) (Word.bytes (Tab.get 0 g.acc 0))
  else s.modVctx t v (fun V => { V with file := { g with stat := V.file.stat } })

/-- Every output block cleared (R222, R237). -/
def State.clearBlocks (s : State) (t : TileId) (v : VctxId) (d : MmaD) : State :=
  if mxScratch d.cfg then
    let base := sramPa t (mdPsoff d.desc)
    s.writeAt base (List.replicate (mdNb d.desc * 8200) 0)
  else
    s.modVctx t v fun V =>
      { V with file := (List.range (mdNb d.desc)).foldl (fun f i => f.clearAcc (16 + mdAcc d.desc + i)) V.file }

/-! ### Passes of MMA.D -/

/-- The rows present (R226, R227, R253). -/
def MmaD.present (d : MmaD) : List Nat :=
  (maskRows (mdRowmask d.desc)).filter fun m =>
    match d.tags with
    | some l => !(l.getD m 0).getLsbD 7
    | none => true

/-- The expert of a row. -/
def MmaD.expert (d : MmaD) (m : Nat) : Nat :=
  match d.tags with
  | some l => ((l.getD m 0).toNat) % 64
  | none => 0

/-- The distinct experts present in ascending order; one, 0, when the instruction is not routed (R227). -/
def MmaD.experts (d : MmaD) : List Nat :=
  if mdRt d.desc then (List.range 64).filter (fun x => d.present.any (fun m => d.expert m == x)) else [0]

/-- The number of passes of a block, and whether a block has had them all (R225). -/
def MmaD.total (d : MmaD) : Nat := d.experts.length * mdKb d.desc
def MmaD.blockDone (d : MmaD) (nb : Nat) : Bool := decide (d.total ≤ Tab.get 0 d.done nb)

/-- The image size of A and of B in bytes (R218). -/
def aSize (cfg : Word) : Nat := if mxTwoA cfg then 4096 else 2048
def bSize (cfg : Word) : Nat := if mxTwoB cfg then 4096 else 2048

/-- The address of the first B image of an expert (R227). -/
def MmaD.bBase (d : MmaD) (x : Nat) : Nat := mdBva d.desc + (if mdRt d.desc then x * mdStride d.desc else 0)

/-- An A image through the prologue: each half decoded, run and encoded, with the status bits of its entries and of the two
conversions (R199, R200, R256; log 36), and the lanes out of range. -/
def runPrologue (d : MmaD) (k : VCap) (f : VFile) (img : List Byte) : List Byte × VFile × Nat :=
  let fmt := mxA d.cfg
  let i := listImg img
  let half := fun (h : Nat) (f : VFile) =>
    let vals := allPositions.map fun p =>
      let kk := 32 * h + p.2
      let v := mxVal fmt (i.dense fmt (mxSplit d.cfg) p.1 kk)
      let v := if fmt < 16 then v
        else if i.scaleA p.1 h = 255 then FVal.nan
        else v.scaleBy ((i.scaleA p.1 h : Int) - 127 + (if fmt = 21 then -6 else 0))
      (p, fp32.put .even v)
    let fl := vals.foldl (fun a e => a ||| e.2.flags) 0
    let (w, bad) := pgRun d.pro k (workFile (f.flag fl 0) (vals.map (fun e => (e.1, e.2.bits))))
    (w, afterRun f w, bad)
  let (w0, f, b0) := half 0 f
  let (w1, f, b1) := half 1 f
  let el := fun (m kk : Nat) => fp32.decode ((if kk < 32 then w0 else w1).elem 16 32 m (kk % 32))
  let plainR := fun (v : FVal) =>
    match fmt with
    | 1 => bf16.put .even v
    | 2 => fp16.put .even v
    | 3 => e4m3.put .even v
    | 4 => e5m2.put .even v
    | _ => valToInt 8 true .even v
  let plain := fun (v : FVal) => (plainR v).bits
  let row := fun (h m : Nat) => (List.range 32).map (fun c => el m (32 * h + c))
  let rows := (List.range 2).flatMap (fun h => (List.range 32).map (fun m => row h m))
  let fl := rows.foldl (fun a l =>
    if mx8 fmt ∨ fmt ≤ 2 then l.foldl (fun a v => a ||| (plainR v).flags) a
    else a ||| (((cfmtOf fmt).getD .mxint).encodeRow (l.map some)).2.2) 0
  let bytes :=
    if mx8 fmt then
      if mxSplit d.cfg then
        (List.range 2).flatMap fun h => (List.range 32).flatMap fun m => padTo 64 ((row h m).map (fun v => BitVec.ofNat 8 (plain v)))
      else (List.range 32).flatMap fun m => (List.range 64).map fun kk => BitVec.ofNat 8 (plain (el m kk))
    else
      (List.range 2).flatMap fun h => (List.range 32).flatMap fun m =>
        if fmt ≤ 2 then (row h m).flatMap (fun v => leBytes 2 (plain v))
        else
          let c := (cfmtOf fmt).getD .mxint
          let e := c.encodeRow ((row h m).map some)
          mxRowBytes c.width e.1 e.2.1
  (bytes, f.flag fl 0, b0 + b1)

/-- The first step of an MMA.D: tags read and checked, the staged image used or discarded, blocks cleared (R222, R227,
R228). -/
def State.startMmaD (s : State) (t : TileId) (v : VctxId) (q : VQ) (d : MmaD) (far : List Byte) :
    Except (Option EFault) (MmaD × List Byte) × State :=
  let go := fun (s : State) (d : MmaD) (far : List Byte) =>
    let s := if d.z then s.clearBlocks t v d else s
    (Except.ok ({ d with started := true }, far), s)
  if mdRt d.desc then
    match s.engineRead t q.priv (s.vby t v q) (mdTagva d.desc) 32 far with
    | (.error e, s) => (.error (some e), s)
    | (.ok r, s) =>
      if r.data.any (fun b => b.getLsbD 6) then (.error none, s)
      else
        let d := { d with tags := some r.data }
        let s := match (s.vctx t v).staged with
          | some (bva, st, x) =>
            let hit := bva == mdBva d.desc && st == mdStride d.desc && d.experts.head? == some x
            let s := if hit then s.bumpLo (.tile t .mxra) else s.bumpHi (.tile t .mxra)
            s.modVctx t v (fun V => { V with staged := none })
          | none => s
        go s d r.far
  else go s d far

/-- Whether `n` bytes translate by the TLB to pages that are not far: only then a predicted image is loaded (R228). -/
def State.predictable (s : State) (t : TileId) (p : Priv) (va n : Nat) : Bool :=
  match p with
  | .m => true
  | .u =>
    (pieces va n).all (fun pc =>
      match (s.tile t).tlbFind (s.jslot t) pc.1 with
      | some e => ptePermits e.pte .read && Word.bits e.pte 8 2 != 2
      | none => false)

/-- The staged image after a routed MMA.D (R228): the GX4 loads it whenever it may. -/
def State.stageNext (s : State) (t : TileId) (v : VctxId) (q : VQ) (d : MmaD) : State :=
  if mdRt d.desc then
    let x := if Word.bit d.pred 7 then some (Word.bits d.pred 0 6) else d.experts.head?
    match x with
    | some x =>
      if s.predictable t q.priv (d.bBase x) (bSize d.cfg) then
        s.modVctx t v (fun V => { V with staged := some (mdBva d.desc, mdStride d.desc, x) })
      else s
    | none => s
  else s

/-- One pass of output block nb: the images read, the prologue run, the rows accumulated (R225 to R227). -/
def State.mmadPass (s : State) (t : TileId) (v : VctxId) (q : VQ) (d : MmaD) (nb : Nat) (far : List Byte) :
    Except EFault MmaD × State :=
  let i := Tab.get 0 d.done nb
  let kb := mdKb d.desc
  let x := d.experts.getD (i / kb) 0
  let kc := i % kb
  let d' := { d with done := Tab.set d.done nb (i + 1) }
  let idx := (if mdRt d.desc then x * mdNb d.desc * kb else 0) + nb * kb + kc
  let bm := if mdBm d.desc then
      s.engineRead t q.priv (s.vby t v q) (mdBmva d.desc + idx / 8) 1 far
    else (.ok { data := [255], far := far }, s)
  match bm with
  | (.error e, s) => (.error e, s)
  | (.ok mb, s) =>
    let absent := 32 - d.present.length
    let s := s.bumpLo (.tile t .mxskip) absent
    if (mb.data.headD 255).getLsbD (idx % 8) = false ∧ mdBm d.desc then
      let s := s.seeBlock t d nb
      let (g, reg) := s.blockFile t (s.vctx t v).file d nb
      (.ok d', (s.putBlock t v d nb (g.skipPass reg d.cfg)).bumpHi (.tile t .mxskip))
    else
      match s.engineRead t q.priv (s.vby t v q) (mdAva d.desc + kc * aSize d.cfg) (aSize d.cfg) mb.far with
      | (.error e, s) => (.error e, s)
      | (.ok ra, s) =>
        match s.engineRead t q.priv (s.vby t v q) (d.bBase x + (nb * kb + kc) * bSize d.cfg) (bSize d.cfg) ra.far with
        | (.error e, s) => (.error e, s)
        | (.ok rb, s) =>
          let f := (s.vctx t v).file
          let (a, s) := if mdPro d.desc then
              let (a, f', bad) := runPrologue d q.cap f ra.data
              (a, ((s.setFile t v f').bumpHi (.tile t .epirun) 2).bump t .vlane bad)
            else (ra.data, s)
          let s := s.seeBlock t d nb
          let (g, reg) := s.blockFile t (s.vctx t v).file d nb
          let rows := d.present.filter (fun m => d.expert m == x)
          let (g, comp) := g.pass reg d.cfg (listImg a) (listImg rb.data) rows
          let s := (s.putBlock t v d nb g).bump t .mxpass
          (.ok d', if comp then s.bump t .mxcpass else s)

/-! ### Epilogues (R253, R254) -/

/-- The sends an epilogue makes: their tokens (R259, R263). -/
def State.statTokens (s : State) (t : TileId) (b : List Byte) (k : VCap) (work : VFile) (nb : Nat) : List Token :=
  let d := pgStatpot b
  match pgStatm b with
  | 1 => [s.tokenTo t (pgStatdst b) opStat (pgSuit b) (pgIdxbase b + nb) (softmaxPayload work k (pgSmask b) (potElems d))]
  | 2 => (List.range k.cols).map fun c =>
      s.tokenTo t (pgStatdst b) (if potKind d = 1 then opPotAdd else opPotAddSq) (pgSuit b) d (momentPayload work d (potElems d) c)
  | _ => []

/-- The number of tokens an epilogue sends. -/
def statCount (b : List Byte) (k : VCap) : Nat :=
  match pgStatm b with
  | 1 => 1
  | 2 => k.cols
  | _ => 0

/-- A row of W in a write-out format (R253), and the flags of its conversions (R199). -/
def outBytes (work : VFile) (fmt r : Nat) : List Byte :=
  (List.range 32).flatMap fun c =>
    let w := work.elem 16 32 r c
    if fmt = 0 then leBytes 4 w else leBytes ((fmtOf fmt).width / 8) ((fmtOf fmt).put .even (fp32.decode w)).bits
def outFlags (work : VFile) (fmt : Nat) (rows : List Nat) : Nat :=
  if fmt = 0 ∨ 4 < fmt then 0
  else rows.foldl (fun a r => (List.range 32).foldl (fun a c =>
    a ||| ((fmtOf fmt).put .even (fp32.decode (work.elem 16 32 r c))).flags) a) 0

/-- A statistics token queued: it stands at its instruction's place in program order, and waits for the instruction's own far
writes too (R254). -/
def State.queueEpi (s : State) (t : TileId) (fb : FarBy) (kind : SendKind) : State :=
  s.modTile t fun T => { T with tokq := T.tokq ++ [{ seq := fb.seq, ctx := fb.ctx, kind := kind, own := true }] }

/-- An epilogue on the accumulator `reg` of the register file `g` as block nb (R253). The result is the file's
accumulator as ACCW leaves it, VSTAT, and the state after the writes and sends. -/
def State.epilogue (s : State) (t : TileId) (fb : FarBy) (q : VQ) (b : List Byte) (g : VFile)
    (reg nb : Nat) (rows : List Nat) : Except EFault VFile × State :=
  let k := q.cap
  let fmt := pgOutfmt b
  let trip := Word.bit q.epicfg 0 && decide (1 ≤ fmt ∧ fmt ≤ 4)
  let narrow := fun (p : Nat × Nat) => cvtFloat fp32 (fmtOf fmt) .even (g.elem reg 32 p.1 p.2)
  let w0 := allPositions.map fun p =>
    (p, if trip then (cvtFloat (fmtOf fmt) fp32 .even (narrow p).bits).bits else g.elem reg 32 p.1 p.2)
  let fl := if trip then allPositions.foldl (fun a p => a ||| (narrow p).flags) 0 else 0
  let (work, bad) := pgRun b k (workFile (g.flag fl 0) w0)
  let red := work.reduceLines k false 0 (pgRed b) (pgRedop b) 16 32
  let work := if pgRed b = 0 then work else work.flag (red.foldl (fun a e => a ||| e.2.flags) 0) 0
  let d := pgStatpot b
  let work := work.flag (outFlags work fmt rows ||| (if pgStatm b = 2 then momentFlags work d (potElems d) k.cols else 0)) 0
  let s := s.bumpLo (.tile t .epirun)
  let s := s.bump t .vlane bad
  let (r, s) := if pgRed b = 0 then (Except.ok (), s)
    else s.engineWrite t q.priv fb (pgRedva b + nb * 128) (red.flatMap (fun e => leBytes 4 e.2.bits))
  match r with
  | .error e => (.error e, s)
  | .ok _ =>
    let (r, s) := if fmt = 7 then (Except.ok (), s)
      else rows.foldl (fun (a : Except EFault Unit × State) r =>
        match a.1 with
        | .error e => (.error e, a.2)
        | .ok _ => a.2.engineWrite t q.priv fb (pgOutva b + nb * pgBlkstride b + r * pgOutstride b) (outBytes work fmt r)) (.ok (), s)
    match r with
    | .error e => (.error e, s)
    | .ok _ =>
      let s := (s.statTokens t b k work nb).foldl (fun s tk => s.queueEpi t fb (.token tk (.bytes tk.payload))) s
      let g := if pgAccw b then g.putGrid reg 32 (allPositions.map (fun p => (p, work.elem 16 32 p.1 p.2))) else g
      (.ok { g with stat := work.stat }, s)

/-- Whether the token unit has room for an epilogue's sends (R106). -/
def State.epilogueRoom (s : State) (t : TileId) (b : List Byte) (k : VCap) : Bool :=
  decide ((s.tile t).tokq.length + statCount b k ≤ 64)

/-- Blocks finished in ascending order while their passes are done and the token unit has room (R253). -/
def State.finishBlocks : Nat → State → TileId → VctxId → VQ → MmaD → Except EFault MmaD × State
  | 0, s, _, _, _, d => (.ok d, s)
  | n + 1, s, t, v, q, d =>
    if d.blocks < mdNb d.desc ∧ d.blockDone d.blocks then
      if mdEpi d.desc then
        if s.epilogueRoom t d.epi q.cap then
          let s := s.seeBlock t d d.blocks
          let V := s.vctx t v
          let (g, reg) := s.blockFile t V.file d d.blocks
          match s.epilogue t (s.vby t v q) q d.epi g reg d.blocks d.present with
          | (.error e, s) => (.error e, s)
          | (.ok g, s) =>
            let s := s.putBlock t v d d.blocks g
            let s := s.modVctx t v (fun V => { V with file := { V.file with stat := g.stat } })
            State.finishBlocks n s t v q { d with blocks := d.blocks + 1 }
        else (.ok d, s)
      else State.finishBlocks n s t v q { d with blocks := d.blocks + 1 }
    else (.ok d, s)

/-- A fault of an engine operation: raised with its vector context and descriptor, and the operation gone (R246). -/
def State.failV (s : State) (t : TileId) (v : VctxId) (desc : Nat) (e : EFault) : State :=
  (s.raiseEngine t (s.vctx t v).owner e { engine := some .matrix, vctx := some v, desc := some desc, extra := v.val }).popV t v false

/-- The address of the descriptor of a matrix operation. -/
def VOp.descVa : VOp → Nat
  | .mmad d => d.va
  | .eprun va _ _ _ => va
  | _ => 0

/-- The head of a queue replaced. -/
def State.setHead (s : State) (t : TileId) (v : VctxId) (q : VQ) : State :=
  s.modVctx t v (fun V => { V with queue := q :: V.queue.tail })

/-- An MMA.D carried on by one pass of block nb, then by the blocks that are complete. -/
def State.mmadStep (s : State) (t : TileId) (v : VctxId) (q : VQ) (d : MmaD) (nb : Nat) (far : List Byte) : State :=
  let st := if d.started then (Except.ok (d, far), s) else s.startMmaD t v q d far
  match st with
  | (.error none, s) =>
    (s.raiseTile t .matrixDesc { ctx := (s.vctx t v).owner, addr := d.va, engine := some .matrix, vctx := some v, desc := some d.va,
                                 extra := v.val }).popV t v false
  | (.error (some e), s) => s.failV t v d.va e
  | (.ok (d, far), s) =>
    let r := if nb < mdNb d.desc ∧ d.blockDone nb = false then s.mmadPass t v q d nb far else (.ok d, s)
    match r with
    | (.error e, s) => s.failV t v q.op.descVa e
    | (.ok d, s) =>
      match s.finishBlocks (mdNb d.desc) t v q d with
      | (.error e, s) => s.failV t v q.op.descVa e
      | (.ok d, s) =>
        if mdNb d.desc ≤ d.blocks then (s.stageNext t v q d).popV t v false
        else s.setHead t v { q with op := .mmad d }

/-- MATRIX_PASS_COMPLETE: the pass of the MMA, or of block `nb` of the MMA.D, at the head of a vector context's queue
leaves the array (R225, R239). `far`: the data that peers returned for far pages. -/
def execMatrixPassComplete (t : TileId) (v : VctxId) (nb : Nat) (far : List Byte) (s : State) : Out :=
  .next (
    if s.computeOn = false ∨ s.stopping t then s
    else
      match (s.vctx t v).queue with
      | q :: _ =>
        match q.op with
        | .mma rd rs1 rs2 z cfg rmask =>
          let f := (s.vctx t v).file
          let f := if z then f.clearAcc rd else f
          let rows := maskRows rmask.toNat
          let (f, comp) := f.pass rd cfg (f.img rs1) (f.img rs2) rows
          let s := ((s.setFile t v f).bump t .mxpass).bumpLo (.tile t .mxskip) (32 - rows.length)
          (if comp then s.bump t .mxcpass else s).popV t v false
        | .mmad d => s.mmadStep t v q d nb far
        | _ => s
      | [] => s)

/-! ### EPRUN and VSMX (R255, R261, R262) -/

/-- EPRUN issued (R255). -/
def execEprun (c : CtxRef) (f : RFields) (far : List Byte) (s : State) : Out :=
  let bits := rWord 0x2B 4 0 f
  let va := (s.getX c f.rs1).toNat
  .next (s.issue c 4 fun s =>
    match (s.ctx c).vctx with
    | none => s.illegal c bits
    | some v =>
      let V := s.vctx c.tile v
      if f.rs2 ≠ 0 ∨ isA f.rd.val = false then s.illegal c bits
      else if 16 ≤ V.queue.length then s.stallRetry c
      else
        s.withDesc c 4 .matrix va (s.readDesc c va 448 64 far) fun s b =>
          if pgOk b 0 V.vcfg (s.spadesOk c) = false then s.matrixDesc c va 4
          else (s.pushV c v (.eprun va f.rd.val b V.mxrmask)).retire c 4)

/-- VSMX issued: `m` is bit 31, `zero` bits [30:28], `fmt` bits [27:25] (R261). -/
def execVsmx (c : CtxRef) (m : Bool) (zero fmt : Fin 8) (f : RFields) (s : State) : Out :=
  let f7 := fmt.val + zero.val * 8 + m.toNat * 64
  .next (s.issueV c 4 (rWord 0x2B 5 f7 f) false fun _ =>
    if zero = 0 ∧ fmt.val < 5 ∧ gridOk f.rs1.val 32 ∧ isT f.rs2.val ∧ gridOk f.rd.val (fmtOf fmt.val).width then
      some (.vsmx m fmt.val f.rd.val f.rs1.val f.rs2.val)
    else none)

/-- The result of VSMX at a position (R262). -/
def vsmxElem (g : FFmt) (x mr sr : Nat) : Res :=
  match fp32.decode mr with
  | .nan => Res.ok g.nan
  | .inf neg =>
    if neg then Res.ok 0
    else if fp32.decode x = .inf false then g.deliver (divVal g.mb (.fin false 1 0) (fp32.decode sr))
    else Res.ok 0
  | .fin _ _ _ =>
    let e := exp32 (fp32.sub x mr).bits
    let r := g.deliver (divVal g.mb (fp32.decode e.bits) (fp32.decode sr))
    { r with flags := r.flags ||| (e.flags &&& fOF) }

/-- VSMX executed: masked-off positions get +0 (R262). -/
def VFile.softmax (v : VFile) (k : VCap) (m : Bool) (f rd rs1 rs2 : Nat) : VFile :=
  let g := fmtOf f
  let stat := fun (r o : Nat) => v.num (rs2 * 2048 + r * 64 + o) 4
  let k' := { k with vcfg := Word.setBit k.vcfg 5 true }
  let (l, fl) := v.results k' m (fun p => vsmxElem g (v.elem rs1 32 p.1 p.2) (stat p.1 0) (stat p.1 4))
  (v.putGrid rd g.width l).flag fl 0

/-- VECTOR_INSTRUCTION_COMPLETE: the instruction at the head of a vector context's queue completes (R212). `far`: the
data that peers returned for a VLD of far pages. -/
def execVectorInstructionComplete (t : TileId) (v : VctxId) (far : List Byte) (s : State) : Out :=
  .next (
    if s.computeOn = false ∨ s.stopping t then s
    else
      match (s.vctx t v).queue with
      | q :: _ =>
        match q.op with
        | .eprun va rd b rmask =>
          if s.epilogueRoom t b q.cap then
            let V := s.vctx t v
            match s.epilogue t (s.vby t v q) q b V.file rd 0 (maskRows rmask.toNat) with
            | (.error e, s) => s.failV t v va e
            | (.ok g, s) => (s.setFile t v g).popV t v false
          else s
        | .vsmx m f rd rs1 rs2 =>
          let g := (s.vctx t v).file.softmax q.cap m f rd rs1 rs2
          (s.setFile t v g).popV t v true
        | _ => (s.completeVec t v q far).getD s
      | [] => s)

end Sys2Proof.Machine
end

