-- ==== Sys2Proof/Machine/Power.lean ====
section
/-! DEFINITION. Supplies, temperatures, the throttle and the loss of the root clock (R480 to R499, R503, R504). -/

namespace Sys2Proof.Machine

/-! ### Supply records (R495, R555) -/

/-- The state's power with a change. -/
def State.modPower (s : State) (f : Power → Power) : State := { s with power := f s.power }

/-- The DETAIL of a SUPPLY record: reading, index, duration, and the events suppressed (R495). -/
def supplyDetail (reading idx dur held : Nat) : List Byte := leBytes 2 reading ++ leBytes 1 idx ++ leBytes 4 dur ++ leBytes 1 held

/-- A supply record: at most one of a code per 100 ms, those in between counted in byte 25 of the next; before the steward runs
it waits for B03 (R465, R488). -/
def State.supply (s : State) (code reading : Nat) (idx : Nat := 0) (dur : Nat := 0) : State :=
  if s.boot.powered = false ∨ s.boot.step < 4 ∨ s.boot.mrst then
    s.modBoot (fun b => { b with owed := b.owed ++ [(code, supplyDetail reading idx dur 0)] })
  else
    let s := s.eventMerged 0x02 code (supplySev code) 0 (supplyDetail reading idx dur 0)
    match Tab.find? s.power.supply code with
    | some (last, n) =>
      if s.now < last + 100000000 then s.modPower (fun p => { p with supply := Tab.set p.supply code (last, n + 1) })
      else (s.modPower (fun p => { p with supply := Tab.set p.supply code (s.now, 0) })).journalAdd 0x06 code 0 0 0 (supplyDetail reading idx dur n)
    | none => (s.modPower (fun p => { p with supply := Tab.set p.supply code (s.now, 0) })).journalAdd 0x06 code 0 0 0 (supplyDetail reading idx dur 0)

/-! ### The throttle (R482 to R485) -/

/-- The level that a set of active causes requests, with a forced level (R483). -/
def levelOf (causes force : Nat) : Nat :=
  let a := if causes.testBit 0 || causes.testBit 1 || causes.testBit 2 || causes.testBit 4 || causes.testBit 5 then 1 else 0
  max (if causes.testBit 3 then 2 else a) (if causes.testBit 6 then force else 0)

/-- The level in force. -/
def State.level (s : State) : Nat := Word.bits (s.stewReg .clkstat) 2 2

/-- The causes active as given: the level follows, and a rise posts cause 20 to context 0 of every owned tile (R484). -/
def State.setCauses (s : State) (causes : Nat) : State :=
  let old := s.level
  let lv := levelOf causes (Word.bits (s.stewReg .thrcfg) 0 2)
  let s := s.modPower (fun p => { p with causes := causes })
  let s := s.modReg (.stew .clkstat) (fun w => Word.setBits (Word.setBits w 2 2 lv) 4 7 causes)
  if old < lv then
    (allTiles.filter (fun t => (s.owner t).isSome && !s.tileExcl t)).foldl (fun (s : State) t => s.pend { tile := t, ctx := 0 } 20) s
  else s

/-- A cause engaged and counted (R484), or released. -/
def State.engage (s : State) (c : Nat) : State :=
  if s.power.causes.testBit c then s.setCauses s.power.causes
  else (s.modReg (.stew .threng) (fun w => Word.addSat w (8 * c) 8 1)).setCauses (s.power.causes ||| 2 ^ c)
def State.release (s : State) (c : Nat) : State := s.setCauses (s.power.causes - (s.power.causes &&& 2 ^ c))

/-- The forced level as THRCFG holds it (R483). -/
def State.applyForce (s : State) : State := if Word.bits (s.stewReg .thrcfg) 0 2 = 0 then s.release 6 else s.engage 6

/-- THROTTLE_FORCE: the steward writes THRCFG.FORCE; 3 is a reserved value and changes nothing (R12, R483). -/
def execThrottleForce (v : Fin 4) (s : State) : Out :=
  .next (if s.boot.powered then (s.writeReg (.stew .thrcfg) (BitVec.ofNat 64 v.val) 3).applyForce else s)

/-- PWRSTAT.VIN and PWRSTAT.PIN as measured (R497). -/
def State.setVin (s : State) (v : Nat) : State := s.modReg (.stew .pwrstat) (fun w => Word.setBits w 0 16 v)
def State.setPin (s : State) (p : Nat) : State :=
  s.modReg (.stew .pwrstat) (fun w => let w := Word.setBits w 32 16 p; if Word.bits w 48 16 < p then Word.setBits w 48 16 p else w)

/-- INPUT_WARNING: the input, in 10 mV, is below 44.0 V (R488). -/
def execInputWarning (v : BitVec 16) (s : State) : Out :=
  .next (if s.boot.powered ∧ v.toNat < 4400 then ((s.setVin v.toNat).engage 0).supply 0x01 v.toNat else s)

/-- POWER_CAP: the 10 ms average input power, in W, exceeds CAPW (R486, R495). In what units the record gives a power the spec does not
say: its reading is a free value (log 93). -/
def execPowerCap (p : BitVec 16) (s : State) : Out :=
  .next (
    if s.boot.powered ∧ Word.bits (s.stewReg .pwrcap) 0 13 < p.toNat then
      let r := ((s.setPin p.toNat).engage 4).takeFree
      r.2.supply 0x40 (Word.bits r.1 0 16)
    else s)

/-- CHASSIS_THROTTLE: CP6 has been low for 100 ns in play, and the module obeys it (R485). -/
def execChassisThrottle (s : State) : Out :=
  .next (
    if s.phase = 2 ∧ s.cpFunction 6 then
      let s := s.modPower (fun p => { p with chassisLow := true })
      if Word.bit (s.stewReg .thrcfg) 2 then (s.engage 5).supply 0x41 0 else s
    else s)

/-- Whether the module itself asserts CP6 (R485). -/
def State.drivesThrottle (s : State) : Bool :=
  s.phase == 2 && s.cpFunction 6 && Word.bit (s.stewReg .thrcfg) 3 && s.power.causes.testBit 0

/-- THROTTLE_RELEASE: the release condition of a cause has held for its time (R483): the reading is the one the cause goes by, and
`dur` how long the condition lasted, in µs. A reading below 97.0 °C ends cause 3 with cause 2; a forced level ends by its
write. -/
def execThrottleRelease (c : Fin 7) (reading : BitVec 16) (dur : BitVec 32) (s : State) : Out :=
  .next (
    let v := reading.toNat
    if s.boot.powered = false ∨ s.power.causes.testBit c.val = false then s
    else
      match c.val with
      | 0 => if 4500 < v then ((s.setVin v).release 0).supply 0x02 v 0 dur.toNat else s
      | 1 => s.release 1
      | 2 => if v < 970 then (s.release 3).release 2 else s
      | 3 => if v < 1000 then s.release 3 else s
      | 4 => if 100 * v < 95 * Word.bits (s.stewReg .pwrcap) 0 13 then (s.setPin v).release 4 else s
      | 5 => if s.drivesThrottle then s else (s.modPower (fun p => { p with chassisLow := false })).release 5
      | _ => s)

/-! ### Power-fail (R489, R490, R492) -/

/-- The power-fail from its second row: jobs stop, dirty lines are written back, DRAM is in self-refresh, and the device holds with
ARITH and FABRIC stopped. A reset under way from B05 on is abandoned (R498). -/
def State.powerFail (s : State) (r : Reason) (cause : Nat) : State :=
  let s := s.stopAll r
  let s := (s.readyFall (if s.boot.pgood then 1 else 0)).flushStacks
  let s := s.modBoot (fun b => { b with active := b.active && decide (b.step < 5) })
  { s with computeOn := false,
           power := { s.power with hold := true, holdCause := if s.power.hold then s.power.holdCause else cause, selfRefresh := true } }

/-- The hold ends with a warm reset once nothing that caused it remains (R489, R490, R492); a start that had not verified its
firmware begins again from B02 (log 64). -/
def State.endHold (s : State) : State :=
  if s.power.hold ∧ s.power.inputLow = false ∧ s.power.railDown = [] ∧ s.power.critical = false then
    if s.boot.active then (s.baseReset true).startAt 1 2 true else s.warmReset s.power.holdCause
  else s

/-- POWER_FAIL: the input is below 41.0 V (R488, R489). -/
def execPowerFail (v : BitVec 16) (s : State) : Out :=
  .next (
    if s.boot.powered ∧ s.boot.mrst = false ∧ v.toNat < 4100 then
      let s := ((s.setVin v.toNat).engage 0).supply 0x03 v.toNat
      (s.modPower (fun p => { p with inputLow := true })).powerFail .powerFail 2
    else s)

/-- POWER_RECOVERY: the input has been above 46.0 V for 10 ms in the hold (R489). -/
def execPowerRecovery (v : BitVec 16) (s : State) : Out :=
  .next (
    if s.boot.powered ∧ s.power.hold ∧ 4600 < v.toNat then ((s.setVin v.toNat).modPower (fun p => { p with inputLow := false })).endHold
    else s)

/-- Every rail but VAUX goes off: nothing but flash stays (R488, R489); `torn`: a journal write was under way, and the torn record
is ignored from then on (R471, R477). -/
def State.railsOff (s : State) (torn : Bool) : State :=
  let s := s.readyFall 0
  let s := s.baseReset false
  if torn then { s with journal := s.journal.drop 1, boot := { s.boot with torn := s.boot.torn + 1 } } else s

/-- A SUPPLY record that the next B03 owes (R465, R488). -/
def State.owe (s : State) (code reading : Nat) (idx : Nat := 0) : State :=
  s.modBoot (fun b => { b with owed := b.owed ++ [(code, supplyDetail reading idx 0 0)] })

/-- UNDERVOLTAGE_LOCKOUT: the input is below 38.0 V (R488). -/
def execUndervoltageLockout (v : BitVec 16) (torn : Bool) (s : State) : Out :=
  .next (
    if s.boot.powered ∧ v.toNat < 3800 then ((s.railsOff torn).owe 0x04 v.toNat).modPower (fun p => { p with underVolt := true }) else s)

/-- OVERVOLTAGE: the input has been above 60.0 V for 10 µs (R488). -/
def execOvervoltage (v : BitVec 16) (s : State) : Out :=
  .next (
    if s.boot.powered ∧ 6000 < v.toNat then ((s.railsOff false).owe 0x05 v.toNat).modPower (fun p => { p with overVolt := true }) else s)

/-- OVERCURRENT: the input current has been above 115 A for 1 ms: latched as a failure of B00 (R504). -/
def execOvercurrent (s : State) : Out :=
  .next (
    if s.boot.powered then
      ((s.railsOff false).modPower (fun p => { p with overCurrent := true })).modBoot (fun b => { b with latch := 0 })
    else s)

/-- INPUT_POLARITY_REVERSED: no rail starts (R504). -/
def execInputPolarityReversed (s : State) : Out :=
  .next (if s.boot.powered then s else s.modPower (fun p => { p with reversed := true }))

/-- The warning and reset levels of a rail, in mV (R490). -/
def railLevels (r : Fin 12) : Nat × Nat :=
  if r.val < 4 then (720, 690) else if r.val = 8 then (1008, 966) else if r.val = 11 then (1728, 1656) else (768, 736)

/-- RAIL_WARNING: a rail is below its warning level (R490). -/
def execRailWarning (r : Fin 12) (mv : BitVec 16) (s : State) : Out :=
  .next (
    if s.boot.powered ∧ mv.toNat < (railLevels r).1 then (s.engage 1).supply (0x10 + r.val) mv.toNat r.val else s)

/-- RAIL_RESET: a rail is below its reset level: a power-fail, or for VAUX a lockout (R490). -/
def execRailReset (r : Fin 12) (mv : BitVec 16) (torn : Bool) (s : State) : Out :=
  .next (
    if s.boot.powered = false ∨ s.boot.mrst ∨ (railLevels r).2 ≤ mv.toNat then s
    else if r.val = 11 then ((s.railsOff torn).owe 0x2B mv.toNat 11).modPower (fun p => { p with underVolt := true })
    else
      let s := s.supply (0x20 + r.val) mv.toNat r.val
      (s.modPower (fun p => { p with railDown := r :: p.railDown.filter (· != r) })).powerFail .powerFail 2)

/-- RAIL_RECOVERY: a rail that had reset has stayed above its release level for 10 ms (R490). -/
def execRailRecovery (r : Fin 12) (s : State) : Out :=
  .next (if s.power.railDown.contains r then (s.modPower (fun p => { p with railDown := p.railDown.filter (· != r) })).endHold else s)

/-! ### Temperatures (R491, R492) -/

/-- TEMPSTAT: the highest reading, in 0.1 °C, and its sensor. -/
def State.setTemp (s : State) (t : BitVec 12) (sensor : Fin 36) : State :=
  s.setReg (.stew .tempstat) (BitVec.ofNat 64 (t.toNat + sensor.val * 2 ^ 12))

def execThermalThrottle (t : BitVec 12) (sensor : Fin 36) (s : State) : Out :=
  .next (
    if s.boot.powered ∧ 1000 ≤ t.toNat then ((s.setTemp t sensor).engage 2).supply 0x30 t.toNat sensor.val else s)

def execThermalSevere (t : BitVec 12) (sensor : Fin 36) (s : State) : Out :=
  .next (
    if s.boot.powered ∧ 1030 ≤ t.toNat ∧ s.power.causes.testBit 2 then ((s.setTemp t sensor).engage 3).supply 0x31 t.toNat sensor.val else s)

/-- THERMAL_CRIT: jobs stop, the power-fail sequence runs, and admission is refused (R492). -/
def execThermalCrit (t : BitVec 12) (sensor : Fin 36) (s : State) : Out :=
  .next (
    if s.boot.powered ∧ s.boot.mrst = false ∧ 1050 ≤ t.toNat then
      let s := (s.setTemp t sensor).supply 0x32 t.toNat sensor.val
      (s.modPower (fun p => { p with critical := true })).powerFail .thermalCrit 3
    else s)

/-- THERMAL_RECOVERY: every sensor has been below 95.0 °C for 1 s (R492). -/
def execThermalRecovery (t : BitVec 12) (sensor : Fin 36) (s : State) : Out :=
  .next (
    if t.toNat < 950 then ((s.setTemp t sensor).modPower (fun p => { p with critical := false })).endHold else s)

/-- THERMAL_SHUTDOWN: every rail but VAUX goes off in hardware and stays off (R492). -/
def execThermalShutdown (t : BitVec 12) (sensor : Fin 36) (s : State) : Out :=
  .next (
    if s.boot.powered ∧ 1150 ≤ t.toNat then
      (((s.railsOff false).owe 0x33 t.toNat sensor.val).modPower (fun p => { p with thermalOff := true })).setTemp t sensor
    else s)

/-- STACK_REFRESH_HALVED: a stack's sensor is above 85 °C, or below it again (R491). -/
def execStackRefreshHalved (k : StackId) (t : BitVec 12) (s : State) : Out :=
  .next (s.modPower (fun p =>
    let l := p.halved.filter (· != k)
    { p with halved := if 850 < t.toNat then k :: l else l }))

/-! ### The root clock (R481) -/

/-- LOSS_OF_LOCK: the root PLL has lost its lock, or with `ref` its reference, for 1 µs: the dies are held in reset, DRAM is lost,
and a module-type start begins from B02. No seating runs, so its registers stand. -/
def execLossOfLock (ref : Bool) (s : State) : Out :=
  .next (
    if s.boot.powered = false ∨ s.boot.mrst ∨ s.boot.step < 3 then s
    else
      let s := (s.supply 0x50 0).readyFall 1
      let seat := s.regs.filter (fun x => [Reg.stew .seat, .stew .cpfault, .stew .cpsense0, .stew .cpsense1, .stew .cpsense2,
        .stew .cpsense3, .stew .cpsense4, .stew .cpsense5, .stew .cpsense6, .stew .cpsense7].contains x.1)
      let s := s.baseReset true
      let s := (({ s with regs := s.regs ++ seat } : State).startAt 1 2 true).setPhase 1
      s.modReg (.stew .clkstat) (fun w => Word.setBit w 1 (!ref)))

end Sys2Proof.Machine
end

