-- ==== Sys2Proof/Machine/Module.lean ====
section
/-! DEFINITION. The module's call lines and its I3C target (R509 to R524, R537). -/

namespace Sys2Proof.Machine

/-! ### Seating (R514, R515) -/

/-- The level code of a measured resistance, or the fault it shows (R514). -/
def pinClass (p : PinSense) : Except Nat Nat :=
  let r := p.ohms.toNat
  if p.driven then .error 2
  else if r < 200 then .error 1
  else if 1200 ≤ r ∧ r ≤ 4000 then .ok 0
  else if 6000 ≤ r ∧ r ≤ 20000 then .ok 1
  else if 30000 ≤ r ∧ r ≤ 100000 then .ok 2
  else if 250000 < r then .ok 3
  else .error 3

/-- CPSENSEn. -/
def cpsense (n : Nat) : StewReg :=
  match n with
  | 0 => .cpsense0 | 1 => .cpsense1 | 2 => .cpsense2 | 3 => .cpsense3 | 4 => .cpsense4 | 5 => .cpsense5 | 6 => .cpsense6 | _ => .cpsense7

/-- A call-line event (R555). -/
def State.lineEvent (s : State) (pin fault : Nat) : State :=
  s.eventAdd 0x07 pin 1 0 (leBytes 1 fault ++ leBytes 1 (Word.bits (s.stewReg .cpfault) 24 8))

/-- One pin sensed. -/
def State.sensePin (s : State) (n : Nat) (p : PinSense) : State :=
  let s := s.setReg (.stew (cpsense n)) (BitVec.ofNat 64 (if p.driven then 0 else p.ohms.toNat))
  match pinClass p with
  | .ok c => s.modReg (.stew .seat) (fun w => Word.setBits w (2 * n) 2 c)
  | .error f =>
    let s := s.modReg (.stew .seat) (fun w => Word.setBit w 16 false)
    let s := s.modReg (.stew .cpfault) (fun w => Word.setBits (Word.setBits w (3 * n) 3 f) 24 8 (Word.bits w 24 8 ||| pinFunctions n))
    s.lineEvent n f

/-- SEATING: each pin sensed, and the seating code latched; a module start goes on to PGOOD (R512 to R515). A pin not given is
open. -/
def execSeating (pins : List PinSense) (s : State) : Out :=
  .next (
    if s.boot.powered = false ∨ s.boot.active = false ∨ s.boot.mrst ∨ s.phase ≠ 0 then s
    else
      let s := (s.setReg (.stew .seat) (BitVec.ofNat 64 (2 ^ 16))).setReg (.stew .cpfault) 0
      let s := (List.range 8).foldl (fun (s : State) n => s.sensePin n (pins.getD n { ohms := 0xFFFFFF, driven := false })) s
      if s.boot.kind = 1 then (s.modBoot (fun b => { b with pgood := true })).setPhase 1 else s)

/-! ### Functions (R512, R516, R519, R520) -/

/-- CALL_LINE_ENABLE: 2 ms after a change of PGOOD or READY; in play SIGSTAT.CHASOK says whether the chassis barrier is available. -/
def execCallLineEnable (s : State) : Out :=
  .next (
    if s.phase = 0 ∨ s.cpOn then s
    else
      let s := { s with cpOn := true }
      if s.phase = 2 then s.setChasOk (s.cpFunction 5) else s)

/-- Whether a line fault of R519 can be found: the function on its pin, in the phase that it belongs to. -/
def stuckOk (pin fn phase : Nat) (high : Bool) : Bool :=
  match fn with
  | 1 => pin == 2 && phase == 1
  | 2 => pin == 2 && phase == 2
  | 4 => decide (4 ≤ pin) && phase == 1
  | 5 => (pin == 4 || pin == 5) && phase == 2 && high
  | 6 => pin == 6 && phase == 2
  | 7 => pin == 7 && phase == 2
  | _ => false

/-- CALL_LINE_STUCK: a line is stuck low, or with `high` stuck high; the function is disabled until the next entry into play. -/
def execCallLineStuck (pin fn : Fin 8) (high : Bool) (s : State) : Out :=
  .next (
    if stuckOk pin.val fn.val s.phase high = false ∨ Word.bit (s.stewReg .cpfault) (24 + fn.val) then s
    else
      let code := if high then 5 else 4
      let s := s.modReg (.stew .cpfault) fun w =>
        let w := Word.setBit w (24 + fn.val) true
        if Word.bits w (3 * pin.val) 3 = 0 then Word.setBits w (3 * pin.val) 3 code else w
      let s := s.lineEvent pin.val code
      match fn.val with
      | 2 => { s with cpPulse := false }
      | 5 => s.setChasOk false
      | 6 => (s.modPower (fun p => { p with chassisLow := false })).release 5
      | _ => s)

/-- A RUNNING job stopped by the chassis FAULT bus: its faults and FAULT packets, but no pulse of this module (R448, R516). -/
def State.chassisStop (s : State) (j : JSlot) : State :=
  let b := s.job j
  if b.st = .running ∧ b.stop = none then
    let code := Reason.chassisStop.code
    ((s.recordFault j code { unit := .job j } true).stopSlot j code none).floodFault j code 0 s.now
  else s

/-- CHASSIS_FAULT: CP2 has been low for 200 ns while this module does not pull it: counted, and jobs that hold a CHAS barrier stop
(R448, R516). -/
def execChassisFault (s : State) : Out :=
  .next (
    if s.phase ≠ 2 ∨ s.cpPulse ∨ Word.bit (s.stewReg .cpcfg) 2 = false ∨ Word.bit (s.stewReg .cpfault) 26 then s
    else
      let s := s.modReg (.stew .cpcnt) (fun w => Word.addSat w 16 16 1)
      match s.chasCell with
      | some (d, n) => s.chassisStop (Fin.ofNat 4 (s.cell d n).slot)
      | none => s)

/-- FAULT_PULSE_END: 100 µs after it began, the module's pulse on CP2 ends. -/
def execFaultPulseEnd (s : State) : Out := .next { s with cpPulse := false }

/-! ### CP3 (R494, R517, R520) -/

/-- Whether the module reads CP3: in deal and play, with the function in effect. -/
def State.readsCp3 (s : State) : Bool := s.phase != 0 && Word.bit (s.stewReg .cpcfg) 3 && !Word.bit (s.stewReg .cpfault) 27

/-- How far the nearest multiple of `n` lies from a time. -/
def toNearest (t n : Nat) : Int := if 2 * (t % n) < n then -((t % n : Nat) : Int) else ((n - t % n : Nat) : Int)

/-- SECOND_PULSE: a pulse of `width` ns, 50 to 150 ms, whose rising edge marks a second boundary. -/
def execSecondPulse (width : BitVec 32) (s : State) : Out :=
  .next (
    if s.readsCp3 ∧ 50000000 ≤ width.toNat ∧ width.toNat ≤ 150000000 then
      let s := s.modReg (.stew .cpcnt) (fun w => Word.addBits w 32 16 1)
      let s := ({ s with power := { s.power with ppsOk := true } } : State).updateSrc
      s.measured 3 (toNearest (s.now - width.toNat) 1000000000)
    else s)

/-- TICK: a pulse of 1 to 10 µs on an integer millisecond: a further phase point while second pulses arrive. -/
def execTick (width : BitVec 32) (s : State) : Out :=
  .next (
    if s.readsCp3 ∧ 1000 ≤ width.toNat ∧ width.toNat ≤ 10000 ∧ s.power.ppsOk then
      s.measured 3 (toNearest (s.now - width.toNat) 1000000)
    else s)

/-- CP3_INVALID_PULSE: any other width is counted and ignored. -/
def execCp3InvalidPulse (width : BitVec 32) (s : State) : Out :=
  let w := width.toNat
  .next (
    if s.readsCp3 ∧ ¬(50000000 ≤ w ∧ w ≤ 150000000) ∧ ¬(1000 ≤ w ∧ w ≤ 10000) then s.modReg (.stew .cpcnt) (fun w => Word.addSat w 48 16 1)
    else s)

/-! ### The I3C target (R518, R537) -/

/-- Whether the I3C target is active: from B03, with the function not disabled (R512, R520). -/
def State.i3cUp (s : State) : Bool :=
  s.boot.powered && !s.boot.mrst && decide (4 ≤ s.boot.step) && s.i3cFunction

/-- The largest joined body (R537). -/
def i3cMax : Nat := 81920

/-- I3C_PRIVATE_WRITE: a management message, or a part of a long one, by the bytes of the write. A write without a whole header
names no endpoint and is ignored; one whose length is not that of its body is answered BAD_BODY. -/
def execI3cPrivateWrite (b : List Byte) (s : State) : Out :=
  .next (
    if s.i3cUp = false ∨ s.host.i3cAddr = none ∨ b.length < 8 then s
    else
      let r : MgmtReq := { via := none, suit := 3, endpoint := leAt b 0 2, tag := leAt b 2 4, body := b.drop 8 }
      let n := leAt b 6 2
      let joined := match s.host.part with
        | some p => if p.endpoint = r.endpoint ∧ p.tag = r.tag then p.body ++ r.body else r.body
        | none => r.body
      let s := s.modHost (fun h => { h with part := none })
      if n % 0x8000 ≠ r.body.length ∨ 4096 < r.body.length then s.answer r stBadBody
      else if 0x8000 ≤ n then s.modHost (fun h => { h with part := some { r with body := joined } })
      else if i3cMax < joined.length then s.answer r stBadBody
      else s.takeRequest { r with body := joined })

/-- The in-band interrupt, with mandatory byte 0x01: an answer waits, and the controller has not disabled it. -/
def State.i3cInterrupt (s : State) : Bool := s.i3cUp && s.host.i3cEvents.getLsbD 0 && !s.host.i3cOut.isEmpty

/-- I3C_PRIVATE_READ: the oldest answer is fetched, in parts framed as a write's are (log 65). -/
def execI3cPrivateRead (s : State) : Out :=
  .next (
    if s.i3cUp = false ∨ s.host.i3cAddr = none then s
    else
      match s.host.i3cOut with
      | [] => s.modHost (fun h => { h with i3cRead := [] })
      | a :: t =>
        let more := decide (4096 < a.body.length)
        let hdr := leBytes 2 a.endpoint ++ leBytes 4 a.tag ++ leBytes 2 (min 4096 a.body.length + (if more then 0x8000 else 0))
        s.modHost (fun h => { h with i3cRead := hdr ++ a.body.take 4096,
                                     i3cOut := if more then { a with body := a.body.drop 4096 } :: t else t }))

/-- ENTDAA: a target without a dynamic address is given one. -/
def execEntdaa (a : BitVec 7) (s : State) : Out :=
  .next (if s.i3cUp ∧ s.host.i3cAddr = none then s.modHost (fun h => { h with i3cAddr := some a }) else s)

/-- The provisional ID (R518): VENDOR and PART of STEW.IDENT, and the seating code; most significant byte first, as I3C sends it. -/
def State.provisionalId (s : State) : List Byte :=
  (leBytes 6 (Word.bits (s.stewReg .ident) 0 16 * 2 ^ 32 + Word.bits (s.stewReg .ident) 16 16 * 2 ^ 16 + Word.bits (s.stewReg .seat) 0 16)).reverse

/-- I3C_COMMON_COMMAND: what the target answers with that the spec does not give is a free value (log 66). -/
def execI3cCommonCommand (c : I3cCcc) (s : State) : Out :=
  let free := fun (n : Nat) =>
    ({ s with free := s.free + 1 } : State).modHost (fun h => { h with i3cRead := leBytes n (Config.free s.free) })
  .next (
    if s.i3cUp = false then s
    else
      match c with
      | .enec m => s.modHost (fun h => { h with i3cEvents := h.i3cEvents ||| m })
      | .disec m => s.modHost (fun h => { h with i3cEvents := h.i3cEvents &&& ~~~m })
      | .rstdaa => s.modHost (fun h => { h with i3cAddr := none })
      | .getpid => s.modHost (fun h => { h with i3cRead := s.provisionalId })
      | .getbcr => free 1
      | .getdcr => free 1
      | .getstatus => free 2
      | .other _ => s)

/-! ### The status LED (R505) -/

/-- What the status LED shows: amber with so many blinks, steady amber, green blinking or steady, or nothing. -/
inductive Led where
  | blinks (n : Fin 6)
  | amber
  | greenBlink
  | green
  | off
  deriving DecidableEq, Repr

/-- The status LED, in the order of precedence of R505. -/
def State.led (s : State) : Led :=
  let p := s.power
  if p.reversed then .blinks 1
  else if p.overVolt then .blinks 2
  else if p.underVolt then .blinks 3
  else if p.thermalOff then .blinks 4
  else if p.overCurrent then .blinks 5
  else if s.boot.powered = false then .off
  else if Word.bit (s.stewReg .bootstat) 5 then .amber
  else if s.phase = 2 then .green
  else .greenBlink

end Sys2Proof.Machine
end

