-- ==== Sys2Proof/Machine/Patience.lean ====
section
/-! DEFINITION. Patience, the in-service test (R548 to R553, R558). -/

namespace Sys2Proof.Machine

/-- Whether a tile is idle (R317, R548): every context PARKED or WAITING, every engine queue, the token unit queue and every gather
stream empty. -/
def Tile.idle (T : Tile) : Bool :=
  T.ctxs.all (fun (x : CtxId × Ctx) => x.2.st == .parked || x.2.st == .waiting) && T.tokq.isEmpty && T.streams.isEmpty
    && T.vctxs.all (fun (x : VctxId × VCtx) => x.2.queue.isEmpty)

/-- The slices of one pass by kind (R549), and those of a pass over the kinds enabled. -/
def slicesOf (kind : Nat) : Nat := match kind with | 1 => 512 | 2 => 256 | 3 => 3072 | 4 => 256 | _ => 0
def passLength (kinds : Nat) : Nat := ([1, 2, 3, 4].filter (fun k => kinds.testBit (k - 1))).foldl (fun a k => a + slicesOf k) 0

/-- PATIENCE_SLICE_START: a slice of an enabled kind begins on a tile that has been idle, past PACE (R548); the order of the kinds
is the controller's (R549). -/
def execPatienceSliceStart (t : TileId) (kind : Fin 4) (s : State) : Out :=
  .next (
    let T := s.tile t
    let cfg := s.tileReg t .patcfg
    if s.computeOn ∧ s.boot.ready ∧ s.power.sitting = false ∧ s.tileExcl t = false ∧ T.folded = false ∧ T.idle ∧ T.slice = none ∧ Word.bit cfg 0
        ∧ Word.bit cfg (8 + kind.val) ∧ Word.bit (s.tileReg t .patstat) 0 = false then
      (s.setTile t { T with slice := some (kind.val + 1) }).modReg (.tile t .patstat) (fun w => Word.setBits w 2 3 (kind.val + 1))
    else s)

/-- A slice that has failed (R553): the tile is suspect, the failure recorded, and cause 18 posted on a tile of a RUNNING job. -/
def State.sliceFailed (s : State) (t : TileId) (kind : Nat) (sig : BitVec 32) : State :=
  let s := s.modReg (.tile t .patstat) (fun w => Word.setBit w 0 true)
  let s := s.modReg (.tile t .patfail) (fun w => Word.setBits (Word.setBits (Word.addSat w 0 16 1) 16 32 sig.toNat) 48 3 kind)
  let d := leBytes 4 sig.toNat
  let s := (s.journalAdd 0x08 kind 0 0 (unitCode (.tile t)) d).eventAdd 0x06 kind 2 (unitCode (.tile t)) d
  match s.owner t with
  | some j => if (s.job j).st = .running then s.pend { tile := t, ctx := 0 } 18 else s
  | none => s

/-- A slice that has passed: the next one of the pass is due, and the last one completes it (R549, R552). -/
def State.slicePassed (s : State) (t : TileId) : State :=
  let n := passLength (Word.bits (s.tileReg t .patcfg) 8 4)
  s.modReg (.tile t .patstat) fun w =>
    let pos := Word.bits w 48 12 + 1
    if n ≤ pos then Word.setBit (Word.setBits (Word.addBits w 16 32 1) 48 12 0) 5 false else Word.setBits w 48 12 pos

/-- PATIENCE_SLICE_END: a slice completes, with its signature and whether it passed; an SRAM march also finds the state of the word at
`off` (R549, R550). -/
def execPatienceSliceEnd (t : TileId) (good : Bool) (sig : BitVec 32) (off : BitVec 24) (e : Ecc) (s : State) : Out :=
  .next (
    let T := s.tile t
    match T.slice with
    | none => s
    | some kind =>
      let s := (s.setTile t { T with slice := none }).modReg (.tile t .patcnt) (fun w => Word.addBits w 0 32 1)
      let s := if kind = 3 then s.memError (sramPa t (off.toNat % 0xC00000)) e 0 else s
      let s := if kind = 3 ∧ e = .uncorrectable then s.raiseTile t .sramUe { addr := sramPa t (off.toNat % 0xC00000) } else s
      if good then s.slicePassed t else s.sliceFailed t kind sig)

/-- PATIENCE_FAIL: 100 ns after cause 18, the job of a suspect tile stops (R553). -/
def execPatienceFail (t : TileId) (s : State) : Out :=
  .next (
    match s.owner t with
    | some j => if Word.bit (s.tileReg t .patstat) 0 ∧ (s.job j).st = .running then s.raiseTile t .patienceFail else s
    | none => s)

/-- PATIENCE_STALE: a tile's last completed pass began more than ten minutes ago (R552). -/
def execPatienceStale (t : TileId) (s : State) : Out :=
  .next (
    if s.tileExcl t ∨ s.boot.ready = false ∨ Word.bit (s.tileReg t .patstat) 5 then s
    else (s.modReg (.tile t .patstat) (fun w => Word.setBit w 5 true)).eventAdd 0x06 0 1 (unitCode (.tile t)) [])

end Sys2Proof.Machine
end

