-- ==== Sys2Proof/Machine/RegSpace.lean ====
section
/-! DEFINITION. Register space (R340 to R342, R562 to R566, R573): what each word reads as, and what a write does. -/

namespace Sys2Proof.Machine

/-! ### Words that show other state -/

/-- The progress code on CP4 to CP7 (R465): the step in progress, or the one that failed. -/
def State.progressCode (s : State) : Nat := s.boot.step % 16

/-- The lines that the module pulls low (R322, R485, R511, R513, R515, R516). -/
def State.cpDriven (s : State) : Nat :=
  let f := s.stewReg .cpfault
  let bit := fun (n : Nat) (b : Bool) => if b then 2 ^ n else 0
  if s.phase = 1 then
    bit 2 (s.cpPulse || (s.alert && s.cpFunction 1))
      + (if s.cpOn ∧ Word.bit (s.stewReg .cpcfg) 4 then
          (List.range 4).foldl (fun a i => a + bit (4 + i) (s.progressCode.testBit i && Word.bits f (3 * (4 + i)) 3 == 0)) 0
        else 0)
  else if s.phase = 2 then
    let held := fun (l : Fin 2) => s.cpFunction 5 && s.chasCell.isSome && Tab.get ChasLine.held s.chasLines l == .held
    bit 2 s.cpPulse + bit 4 (held 0) + bit 5 (held 1) + bit 6 s.drivesThrottle + bit 7 (s.alert && s.cpFunction 7)
  else bit 2 s.cpPulse

/-- The lines that read high: those that neither the module nor, as far as it knows, another pulls low (log 67). -/
def State.cpLevels (s : State) : Nat :=
  let d := s.cpDriven
  (List.range 8).foldl (fun a n =>
    let low := d.testBit n || (n == 6 && s.power.chassisLow)
      || (s.phase == 2 && ((n == 4 && Tab.get ChasLine.held s.chasLines 0 == .released) || (n == 5 && Tab.get ChasLine.held s.chasLines 1 == .released)))
    if low ∨ s.phase = 0 then a else a + 2 ^ n) 0

/-- The value that a register shows: some of its fields stand elsewhere in the state. -/
def State.regShow (s : State) (r : Reg) : Word :=
  let w := s.reg r
  match r with
  | .tile t .gout => s.goutShow t
  | .tile t .patstat => Word.setBit w 1 (s.tile t).slice.isSome
  | .tile t .patcnt => Word.setBits w 32 32 (s.tile t).aborted
  | .stew .cpstat => Word.setBits (Word.setBits w 2 8 s.cpLevels) 10 8 s.cpDriven
  | _ => w

/-- The code of a context's state in CTXSTATE (R143). -/
def ctxCode (T : Tile) (c : CtxId) : Nat :=
  if (match T.pre with | some p => p.victim == c | none => false) then 5
  else match (T.ctx c).st with | .parked => 0 | .ready => 1 | .stalled => 2 | .binding => 3 | .waiting => 4 | .saved => 5

/-- Word `w` of a byte string. -/
def wordOf (b : List Byte) (w : Nat) : Word := BitVec.ofNat 64 (leAt b (8 * w) 8)

/-- A word of register space that is a view of other state. -/
def State.viewShow (s : State) : View → Word
  | .dlrclr _ => 0
  | .ddepth t => (s.tile t).ddepth
  | .dctx t => (s.tile t).dctx
  | .ctxstate t w =>
    let n := (List.finRange 32).foldl (fun a (c : CtxId) => a + ctxCode (s.tile t) c * 2 ^ (3 * c.val)) 0
    BitVec.ofNat 64 (n / 2 ^ (64 * w.val))
  | .hist q u p =>
    let b := fun (i : Nat) => (s.quadReg q (.hist u (Fin.ofNat 16 i))).toNat % 2 ^ 32
    BitVec.ofNat 64 (b (2 * p.val) + b (2 * p.val + 1) * 2 ^ 32)
  | .gstream t n => match Tab.find? (s.tile t).streams n.val with | some x => gstreamWord x (s.streamOut t n.val) | none => 0
  | .vstat t v => (s.vctx t v).file.stat
  | .mxacc t v a => Tab.get 0 (s.vctx t v).file.acc a
  | .cell d n w =>
    let c := s.cell d n
    match w with | 0 => c.value | 1 => c.cfg | 2 => c.parent | 3 => c.child
  | .jdata w => match s.record? (Word.bits (s.stewReg .jsel) 0 32) with | some r => wordOf r.bytes w.val | none => 0
  | .foldmap w =>
    BitVec.ofNat 64 ((List.range 64).foldl (fun a i =>
      match tileOfOrd? (64 * w.val + i) with | some t => if (s.tile t).folded then a + 2 ^ i else a | none => a) 0)
  | .identity w => if Word.bit (s.stewReg .secstat) 12 then wordOf identityDigest w.val else 0
  | .mr k w => wordOf (Tab.get (List.replicate 48 0) s.sec.mr k) w.val
  | .conn c w => (s.conn c).word w
  | .bcast .rngstat =>
    let l := s.stacks.map (fun k => s.stackReg k .rngstat)
    BitVec.ofNat 64 (l.foldl (fun a w => a ||| Word.bits w 0 2) 0 + l.foldl (fun a w => a + Word.bits w 32 32) 0 % 2 ^ 32 * 2 ^ 32)
  | .bcast r => match s.stacks with | k :: _ => s.stackReg k r | [] => 0
  | .epochs j w =>
    BitVec.ofNat 64 ((List.range 8).foldl (fun a i => a + (s.reg (.emb (.epoch j (Fin.ofNat 256 (8 * w.val + i))))).toNat % 256 * 2 ^ (8 * i)) 0)

/-- The word that an address of register space reads as; none outside every block (R341, R342). -/
def State.wordAt (s : State) (pa : Nat) : Option Word :=
  match s.locAt pa with
  | some (.reg r) => some (s.regShow r)
  | some (.view v) => some (s.viewShow v)
  | some .hole => some 0
  | none => none

/-! ### Writes by the steward (R13, R566) -/

/-- Whether a mailbox takes a command (R568). -/
def mailOk (m cmd : Nat) : Bool := cmd == 1 || cmd == 2 || (decide (3 ≤ cmd ∧ cmd ≤ 7) && m == 4)

/-- GO written to a mailbox: ignored with REJ while it is busy; a command that it does not take ends with STATUS 1; else MBDATA is
captured and the command waits its turn (R567, R568). -/
def State.mailGo (s : State) (m : Fin 5) : State :=
  if Word.bit (s.stewReg (.mbstat m)) 0 then s.modReg (.stew (.mbstat m)) (fun w => Word.setBit w 1 true)
  else if mailOk m.val (Word.bits (s.stewReg (.mbcmd m)) 0 8) = false then s.modReg (.stew (.mbstat m)) (fun w => Word.setBits w 8 8 1)
  else
    let d := (List.finRange 8).map (fun i => s.stewReg (.mbdata m i))
    ({ s with mailbox := s.mailbox ++ [(m, Word.bits (s.stewReg (.mbcmd m)) 0 8, d)] } : State).modReg (.stew (.mbstat m))
      (fun w => Word.setBit w 0 true)

/-- A port disabled: it is not UP, and no width is in use; one enabled trains (R381, R405). -/
def State.disablePort (s : State) (p : PortId) : State :=
  if Word.bit (s.portReg p .portcfg) 0 then (if s.computeOn ∧ s.portState p = 0 ∧ !s.portExcl p then s.setPortState p 1 else s)
  else (s.modReg (.port p .portstat) (fun w => Word.setBits (Word.setBits w 0 3 0) 3 2 3)).updateSrc

/-- A write to a mailbox register, with GO's behaviour. -/
def State.mailWrite (s : State) (r : StewReg) (w : Word) (mask : Nat) : State :=
  let s := s.writeReg (.stew r) w mask
  match r with
  | .mbcmd m => if Word.bit w 63 ∧ mask.testBit 63 then s.mailGo m else s
  | _ => s

/-- A write of a register by the steward, with the behaviour that the register has (R13, R143, R358, R398, R405, R479, R497, R567). -/
def State.regWrite (s : State) (r : Reg) (w : Word) (mask : Nat := 2 ^ 64 - 1) : State :=
  match r with
  | .stack k r => s.rangeWrite k r w mask
  | .port p (.route i) =>
    let s := s.writeReg (.port p (.route i)) w mask
    if Word.bits (s.portReg p (.route i)) 20 2 = 3 then { s with devId := BitVec.ofNat 14 (p.val % 4 * 4096 + i.val) } else s
  | .port p .portcfg => (s.writeReg r w mask).disablePort p
  | .port _ .timecfg => (s.writeReg r w mask).updateSrc
  | .stew .rstreq => if Word.bit w 0 ∧ mask.testBit 0 ∧ s.canWarm then s.warmReset 4 else s
  | .stew .thrcfg => (s.writeReg r w mask).applyForce
  | .stew .timeset => if s.timesetOk ∧ mask = 2 ^ 64 - 1 then { s with timebase := w.toNat * 2 ^ 16 } else s
  | .stew r => s.mailWrite r w mask
  | _ => s.writeReg r w mask

/-- The fields of the words of a cell record (R305); the bits of no field are reserved (R11). -/
def cellFields (w : Fin 4) : List FieldSpec :=
  match w with
  | 0 => [fld 0 64 .rw]
  | 1 => [fldIn 0 2 .rw 0 2, fld 2 25 .rw, fld 32 32 .rw]
  | 2 => [fld 0 30 .rw]
  | 3 => [fld 6 42 .rw, fld 48 12 .rw]

/-- A cell after a write of its record: the waits that its VALUE or TRICKS meets complete, and a round with ARRIVED = PCOUNT
is complete (R313, R319, R320). -/
def State.cellChanged (s : State) (d : DieId) (n : Fin 65536) : State :=
  let c := s.cell d n
  if c.kind = 1 then s.judgeWaits d n
  else if c.kind = 2 then
    let s := ((s.waiters d n .barrier).filter (fun p => roundClosed c.tricks p.2.threshold.toNat)).foldl
      (fun s p => s.completeWait p.1 p.2 0) s
    if c.pcount ≠ 0 ∧ c.arrived = c.pcount ∧ c.up = false then s.roundComplete d n else s
  else s

/-- A word of a cell's record written by the steward (R304). A barrier's word 0 has no bits above UP (R305). -/
def State.cellWrite (s : State) (d : DieId) (n : Fin 65536) (w : Fin 4) (v : Word) (mask : Nat) : State :=
  let put := fun (o : Word) => fieldsWrite (cellFields w) false o v mask
  let s := s.modCell d n fun c =>
    let c := match w with
      | 0 => { c with value := put c.value }
      | 1 => { c with cfg := put c.cfg }
      | 2 => { c with parent := put c.parent }
      | 3 => { c with child := put c.child }
    if c.kind = 2 then { c with value := BitVec.ofNat 64 (Word.bits c.value 0 41) } else c
  s.cellChanged d n

/-- A write of a view by the steward: the write-only DLRCLR, a cell, and the broadcast alias; the others are read-only. -/
def State.viewWrite (s : State) (v : View) (w : Word) (mask : Nat) : State :=
  match v with
  | .dlrclr q => if Word.bit w 0 ∧ mask.testBit 0 then s.dlrclr q else s
  | .cell d n i => s.cellWrite d n i w mask
  | .bcast r => s.stacks.foldl (fun (s : State) k => s.rangeWrite k r w mask) s
  | _ => s

/-- A word of register space written by the steward (R566). -/
def State.stewWrite (s : State) (pa : Nat) (w : Word) (mask : Nat := 2 ^ 64 - 1) : State :=
  match s.locAt pa with
  | some (.reg r) => s.regWrite r w mask
  | some (.view v) => s.viewWrite v w mask
  | _ => s

/-! ### Accesses by control cores (R28, R304, R342, R566, R573) -/

/-- The mailbox that a steward register belongs to. -/
def StewReg.mailbox? : StewReg → Option (Fin 5)
  | .mbcmd m => some m
  | .mbstat m => some m
  | .mbdata m _ => some m
  | _ => none

/-- Whether a core of a tile reaches a register: a mailbox only in M-mode, on an owned tile, for its own slot (R566). -/
def State.coreReaches (s : State) (t : TileId) (p : Priv) (r : Reg) : Bool :=
  match r with
  | .stew r =>
    match r.mailbox? with
    | some m => p == .m && (match s.owner t with | some j => j.val == m.val | none => false)
    | none => p == .m
  | _ => true

/-- The bytes that a core reads from register space at an address, up to the end of its word. -/
def State.coreReg (s : State) (t : TileId) (p : Priv) (pa n : Nat) : Option Nat :=
  match s.locAt pa with
  | none => none
  | some loc =>
    let w := match loc with
      | .reg r => if s.coreReaches t p r then s.regShow r else 0
      | .view v => s.viewShow v
      | .hole => 0
    some (bitsOf w.toNat (8 * (pa % 8)) (8 * n))

/-- Whether a place is a signal cell or a virtual signal translation entry, to which cores may not store (R304). -/
def Loc.signal : Loc → Bool
  | .view (.cell _ _ _) => true
  | .reg (.die _ (.vid _ _)) => true
  | _ => false

/-- A core's store to register space (R566): in M-mode it acts on the registers that no chapter keeps for the steward, and of DLRCFG
on AFF_WAIT (R143). -/
def State.coreRegWrite (s : State) (t : TileId) (p : Priv) (pa n v : Nat) : State :=
  let mask := maskBits (8 * (pa % 8)) (8 * n)
  let w : Word := BitVec.ofNat 64 (v % 2 ^ (8 * n) * 2 ^ (8 * (pa % 8)))
  match s.locAt pa with
  | some (.reg r) =>
    if s.coreReaches t p r = false ∨ p = .u ∨ r.coreWritable = false then s
    else
      match r with
      | .quad q .dlrcfg => s.writeReg (.quad q .dlrcfg) w (mask &&& 0xFFF)
      | .stack k r => s.rangeWrite k r w mask
      | .stew r => s.mailWrite r w mask
      | r => s.writeReg r w mask
  | some (.view v) =>
    if p = .u then s
    else
      match v with
      | .dlrclr _ => s.viewWrite v w mask
      | .bcast _ => s.viewWrite v w mask
      | _ => s
  | _ => s

/-! ### The commands of a register write (R13) -/

/-- REGISTER_WRITE: the steward writes a word of register space under the access codes of its fields, with the behaviour the register
has. Its accesses always move whole words (R573): a command that names other bytes than all eight stands for none, and changes nothing
(log 1). -/
def execRegisterWrite (pa : BitVec 48) (w : Word) (bytes : BitVec 8) (s : State) : Out :=
  .next (if bytes = 0xFF ∧ s.boot.powered ∧ (s.computeOn ∨ 0x0300F0000000 ≤ pa.toNat) then s.stewWrite (pa.toNat / 8 * 8) w (2 ^ 64 - 1) else s)

end Sys2Proof.Machine
end

