-- ==== Sys2Proof/Machine/Scalar.lean ====
section
/-! DEFINITION. The control core's own instructions (R27 to R33, R44 to R49, R59 to R69): scalar accesses and when they are
performed, fences, traps and the return from them, CSRs, integer instructions and the calls that the tile monitor serves. -/

namespace Sys2Proof.Machine

/-! ### Scalar accesses at issue (R29, R30, R44, R304) -/

/-- The address of a load or store: a register plus a 12-bit offset. -/
def State.ea (s : State) (c : CtxRef) (rs1 : XReg) (imm : BitVec 12) : Word := s.getX c rs1 + imm.signExtend 64

/-- Where a translated address is performed (R30). -/
def State.accessPlace (s : State) (pa : Nat) (far : Option (BitVec 14)) : Place :=
  match far with
  | some d => .far d
  | none => match s.target pa with
    | .dram => .dram
    | .sram _ _ => .sram
    | _ => .reg

/-- Whether register space takes no access of a kind: LR, SC and AMOs anywhere (R30), and stores to signal cells and virtual
signal tables (R304). -/
def State.regForbids (s : State) (k : MemKind) (pa : Nat) : Bool :=
  match k with
  | .load _ _ => false
  | .store => (match s.locAt pa with | some l => l.signal | none => false)
  | _ => true

/-- A scalar access of an instruction of `n` bytes: misaligned (R29), failing translation (R44) or forbidden in register space
(R30, R304) it takes its exception; else it is issued, and all but a store make the context wait for the result (R33). -/
def State.accessIssue (s : State) (c : CtxRef) (n : Nat) (k : MemKind) (w : Width) (va data : Word) (aq rl : Bool) : State :=
  let acc : AccKind := if k.writes then .write else .read
  if va.toNat % widthBytes w ≠ 0 then s.exception c (if k.writes then 6 else 4) va
  else
    let p := (s.ctx c).priv
    let leaf := s.scLeaf c.tile p k va.toNat
    match s.accessAddr c.tile p k va.toNat with
    | (.fail f, s) => s.exception c (f.cause acc) va
    | (.ok pa _ far, u) =>
      let place := u.accessPlace pa far
      if place = .reg ∧ u.regForbids k pa then
        (s.addrWith false c.tile p va.toNat acc).2.exception c (XFault.access.cause acc) va
      else
        let s := u
        let (seq, T) := (s.tile c.tile).nextSeq
        let o : MemOp := { seq := seq, ctx := c.ctx, kind := k, place := place, pa := pa, width := w, data := data, aq := aq, rl := rl,
                           priv := p, sent := false, leaf := leaf }
        let s := (s.modTile c.tile (fun _ => { T with memq := T.memq ++ [o] })).retire c n
        if k = .store then s else s.stallResult c

/-- The encoding of an I-type instruction, for mtval. -/
def iWord (opc f3 : Nat) (rd rs1 : XReg) (imm : BitVec 12) : Nat :=
  opc + rd.val * 2 ^ 7 + f3 * 2 ^ 12 + rs1.val * 2 ^ 15 + imm.toNat * 2 ^ 20

/-- The width code of a load or store. -/
def widthCode : Width → Nat
  | .b => 0 | .h => 1 | .w => 2 | .d => 3

/-- LOAD (R29, R44, R46). An unsigned load of 64 bits is a reserved encoding. -/
def execLoad (c : CtxRef) (rd rs1 : XReg) (imm : BitVec 12) (w : Width) (uns : Bool) (sz : ISize) (s : State) : Out :=
  .next (s.issue c (isz sz) fun s =>
    if w = .d ∧ uns then s.illegal c (iWord 0x03 7 rd rs1 imm)
    else s.accessIssue c (isz sz) (.load rd uns) w (s.ea c rs1 imm) 0 false false)

/-- STORE (R29, R44, R47). -/
def execStore (c : CtxRef) (rs1 rs2 : XReg) (imm : BitVec 12) (w : Width) (sz : ISize) (s : State) : Out :=
  .next (s.issue c (isz sz) fun s => s.accessIssue c (isz sz) .store w (s.ea c rs1 imm) (s.getX c rs2) false false)

/-- The width of an atomic: 64 bits or 32 (R27: the A extension). -/
def amoWidth (dbl : Bool) : Width := if dbl then .d else .w

/-- AMO (R29, R30). -/
def execAmo (c : CtxRef) (op : AmoOp) (rd rs1 rs2 : XReg) (dbl aq rl : Bool) (s : State) : Out :=
  .next (s.issue c 4 fun s => s.accessIssue c 4 (.amo op rd) (amoWidth dbl) (s.getX c rs1) (s.getX c rs2) aq rl)

/-- LR (R29, R30). -/
def execLr (c : CtxRef) (rd rs1 : XReg) (dbl aq rl : Bool) (s : State) : Out :=
  .next (s.issue c 4 fun s => s.accessIssue c 4 (.lr rd) (amoWidth dbl) (s.getX c rs1) 0 aq rl)

/-- SC (R29, R30). -/
def execSc (c : CtxRef) (rd rs1 rs2 : XReg) (dbl aq rl : Bool) (s : State) : Out :=
  .next (s.issue c 4 fun s => s.accessIssue c 4 (.sc rd) (amoWidth dbl) (s.getX c rs1) (s.getX c rs2) aq rl)

/-! ### Scalar accesses performed (R30, R47, R348, R363) -/

/-- The lines of a data cache of 32 KiB. The line of 64 bytes is PRESUMED (log 69). -/
def dcacheLines : Nat := 512

/-- A line put into a tile's data cache; a full cache loses one that a free value picks (the spec names no victim, log 69). -/
def State.fillLine (s : State) (t : TileId) (line : Nat) (l : List Byte) : State :=
  let T := s.tile t
  if (Tab.find? T.dcache line).isSome ∨ T.dcache.length < dcacheLines then
    s.modTile t (fun T => { T with dcache := Tab.set T.dcache line l })
  else
    let (v, s) := s.pick T.dcache
    s.modTile t (fun T => { T with dcache := Tab.set (T.dcache.filter (fun p => some p.1 != v.map (·.1))) line l })

/-- A line present in a tile's data cache takes memory's bytes. -/
def State.refreshLine (s : State) (t : TileId) (line : Nat) : State :=
  if (Tab.find? (s.tile t).dcache line).isSome then
    let l := s.bytes (line * 64) 64
    s.modTile t (fun T => { T with dcache := Tab.set T.dcache line l })
  else s

/-- A line present in a tile's data cache takes the bytes of a store (R47). -/
def State.patchLine (s : State) (t : TileId) (pa : Nat) (l : List Byte) : State :=
  match Tab.find? (s.tile t).dcache (pa / 64) with
  | some b => s.modTile t (fun T => { T with dcache := Tab.set T.dcache (pa / 64) (b.take (pa % 64) ++ l ++ b.drop (pa % 64 + l.length)) })
  | none => s

/-- The stream of a scalar access (R354). -/
def MemOp.key (o : MemOp) (t : TileId) : Option StreamKey := some { tile := t, ctx := o.ctx }

/-- A read that meets poison: the job fault, and a result that nothing fixes (R348, log 4). -/
def State.readUe (s : State) (t : TileId) (o : MemOp) : State :=
  let s := s.raiseTile t (if o.place = .dram then .dramUe else .sramUe) { ctx := some o.ctx, addr := o.pa, found := some 0 }
  let r := s.takeFree
  r.2.finishAccess t o r.1

/-- An access performed at DRAM or in a tile's SRAM window (R30, R47). `ecc`: an error that arises as the block is read. A load of DRAM
fills the data cache; an M-mode load, which has no memory type, does so too as the model's choice (log 82). A failed SC leaves the
reservation (R30). -/
def State.performLocal (s : State) (t : TileId) (o : MemOp) (ecc : Ecc) : State :=
  let c : CtxRef := { tile := t, ctx := o.ctx }
  let n := widthBytes o.width
  let key := o.key t
  let s := s.memError o.pa ecc 0
  match o.kind with
  | .store =>
    let l := leBytes n o.data.toNat
    ((s.writeAt o.pa l key).patchLine t o.pa l).finishAccess t o 0
  | .load _ _ =>
    (match s.readAt o.pa n true key with
    | (none, s) => s.readUe t o
    | (some b, s) =>
      let s := if o.place = .dram then s.fillLine t (o.pa / 64) (s.bytes (o.pa / 64 * 64) 64) else s
      s.finishAccess t o (o.value (leVal b)))
  | .lr _ =>
    (match s.readAt o.pa n true key with
    | (none, s) => s.readUe t o
    | (some b, s) =>
      let s := (s.refreshLine t (o.pa / 64)).modCtx c (fun k => { k with resv := some (none, o.pa / 64) })
      s.finishAccess t o (o.value (leVal b)))
  | .sc _ =>
    if (s.ctx c).holds o then
      (((s.setD o.leaf).writeAt o.pa (leBytes n o.data.toNat) key).refreshLine t (o.pa / 64)).finishAccess t o 0
    else s.finishAccess t o 1
  | .amo op _ =>
    let old := s.num o.pa n
    let v := amoEval op (8 * n) old o.data.toNat
    let u := s.scTouch o.pa n true true key
    if u.poisoned o.pa n then u.readUe t o
    else (((u.write o.pa (leBytes n v)).spoilRings o.pa n).refreshLine t (o.pa / 64)).finishAccess t o (o.value old)

/-- An access performed in register space (R28, R342, R566). -/
def State.performReg (s : State) (t : TileId) (o : MemOp) : State :=
  let n := widthBytes o.width
  match o.kind with
  | .load _ _ => s.finishAccess t o (o.value ((s.coreReg t o.priv o.pa n).getD 0))
  | _ => (s.coreRegWrite t o.priv o.pa n o.data.toNat).finishAccess t o 0

/-- The operation code of a far atomic (R390). -/
def farCode : MemKind → Nat
  | .lr _ => 9
  | .sc _ => 10
  | .amo op _ => amoCode op
  | _ => 0

/-- The header of a far scalar access, without its length, mask and code. -/
def MemOp.hdr (t : TileId) (o : MemOp) : OpHdr := farHdr t (some o.ctx) false (o.pa / 16 * 16) 0 0

/-- An access sent to the peer that a far page names (R363, R389, R390). An SC without a reservation fails here and
leaves one on another granule in place (R30, R390). -/
def State.performFar (s : State) (t : TileId) (o : MemOp) (dev : BitVec 14) : State :=
  let c : CtxRef := { tile := t, ctx := o.ctx }
  let n := widthBytes o.width
  let u := (s.ctx c).suit
  let mark := fun (s : State) =>
    s.modTile t (fun T => { T with memq := T.memq.map (fun q => if q.seq = o.seq then { q with sent := true } else q) })
  let amo := fun (s : State) (data : Nat) =>
    (mark s).farRequest t ptFaramo u dev { MemOp.hdr t o with addr := o.pa, sub := farCode o.kind, aw := o.width == .d }
      (leBytes 8 data ++ leBytes 8 (tileNum t + o.ctx.val * 2 ^ 10))
  match o.kind with
  | .load _ _ => (mark s).farRequest t ptFarrd u dev (MemOp.hdr t o) []
  | .store =>
    (mark s).farRequest t ptFarwr u dev { MemOp.hdr t o with vid := maskBits (o.pa % 16) n }
      (padTo 16 (List.replicate (o.pa % 16) 0 ++ leBytes n o.data.toNat))
  | .lr _ => amo s 0
  | .amo _ _ => amo s o.data.toNat
  | .sc _ =>
    if (s.ctx c).holds o then amo s o.data.toNat else s.finishAccess t o 1

/-- MEMORY_ACCESS_PERFORMED: the access that a tile issued with a number is performed, once those before it that it must follow
are (R46 to R48). `hit`: a load is served by the data cache, where it holds the line; `ecc`: what the read of the block finds. -/
def execMemoryAccessPerformed (t : TileId) (seq : Nat) (hit : Bool) (ecc : Ecc) (s : State) : Out :=
  .next (
    match (s.tile t).memq.find? (fun o => o.seq == seq) with
    | none => s
    | some o =>
      if s.computeOn = false ∨ o.sent ∨ s.accessReady t o = false then s
      else
        match o.place with
        | .reg => s.performReg t o
        | .far d => s.performFar t o d
        | p =>
          match hit, o.kind, p, Tab.find? (s.tile t).dcache (o.pa / 64) with
          | true, .load _ _, .dram, some l => s.finishAccess t o (o.value (leAt l (o.pa % 64) (widthBytes o.width)))
          | _, _, _, _ => s.performLocal t o ecc)

/-! ### Fences (R46, R47, R49) -/

/-- Whether a scalar access is of a predecessor set: device input, device output, reads, writes (R46). -/
def MemOp.inSet (o : MemOp) (set : BitVec 4) : Bool :=
  let r := o.kind.rd?.isSome && (match o.kind with | .sc _ => false | _ => true)
  if o.place = .reg then (r && set.getLsbD 3) || (o.kind.writes && set.getLsbD 2)
  else (r && set.getLsbD 1) || (o.kind.writes && set.getLsbD 0)

/-- FENCE: the context stalls until its earlier accesses of the predecessor set are performed; a successor set with R or I
invalidates the data cache (R47). Without both sets it orders nothing. -/
def execFence (c : CtxRef) (pred succ : BitVec 4) (s : State) : Out :=
  .next (s.issue c 4 fun s =>
    if succ ≠ 0 ∧ (s.tile c.tile).memq.any (fun o => o.ctx == c.ctx && o.inSet pred) then s.stallRetry c
    else
      let s := if succ.getLsbD 1 ∨ succ.getLsbD 3 then s.flushCache c.tile else s
      s.retire c)

/-- FENCE.I: it waits for the context's own accesses, and later fetches find the instruction cache empty (R27). -/
def State.fenceI (s : State) (c : CtxRef) (n : Nat) : State :=
  if (s.tile c.tile).memq.any (fun o => o.ctx == c.ctx) then s.stallRetry c
  else (s.modTile c.tile (fun T => { T with icache := [] })).retire c n

/-- Whether accesses of a class that a context issued are not yet performed (R48); far accesses of engines count for every
engine class. -/
def State.classPending (s : State) (c : CtxRef) (cls : Nat) : Bool :=
  let seq := (s.tile c.tile).seq
  match cls with
  | 0 => s.scalarBefore c seq
  | 1 => s.engineBefore c seq (fun o => o.cls == some 1) || s.farBefore c seq
  | 2 => s.engineBefore c seq (fun o => o.cls == some 2) || s.farBefore c seq
  | 3 => s.farBefore c seq
  | _ => s.tableBefore c seq

/-- A staged expert image discarded (R228). -/
def State.dropStaged (s : State) (c : CtxRef) : State :=
  match (s.ctx c).vctx with
  | some v =>
    if (s.vctx c.tile v).staged = none then s
    else (s.bumpHi (.tile c.tile .mxra)).modVctx c.tile v (fun V => { V with staged := none })
  | none => s

/-- FENCE.E (R47, R49, R228). `f.rs1` is the pred mask and `f.rs2` the succ mask. -/
def execFenceE (c : CtxRef) (f : RFields) (s : State) : Out :=
  .next (s.issue c 4 fun s =>
    if f.rd ≠ 0 then s.illegal c (rWord 0x7B 0 0 f)
    else if f.rs2 ≠ 0 ∧ (List.range 5).any (fun i => f.rs1.val.testBit i && s.classPending c i) then s.stallRetry c
    else
      let s := if f.rs1.val.testBit 2 ∨ f.rs2.val.testBit 2 then s.dropStaged c else s
      let s := if f.rs2.val.testBit 0 then s.flushCache c.tile else s
      s.retire c)

/-- FENCE.D (R49, R106, R228). -/
def execFenceD (c : CtxRef) (f : RFields) (s : State) : Out :=
  .next (s.issue c 4 fun s =>
    if f.rd ≠ 0 ∨ f.rs1 ≠ 0 ∨ f.rs2 ≠ 0 then s.illegal c (rWord 0x7B 0 1 f)
    else if s.enginesDrained c = false then s.stallRetry c
    else (s.dropStaged c).retire c)

/-! ### Traps, interrupts and the return from them (R65 to R68, R132, R175, R314, R316) -/

/-- WFI: the context enters WAITING, unless a cause enabled in mie is pending (R59, R67). -/
def execWfi (c : CtxRef) (s : State) : Out :=
  .next (s.issue c 4 fun s => s.modCtx c (fun k => ({ k.retire 4 with st := .waiting } : Ctx).wfiEnd))

/-- EBREAK: the breakpoint exception (R65). mtval is 0 or the pc, which the spec leaves open (log 70). -/
def execEbreak (c : CtxRef) (sz : ISize) (s : State) : Out :=
  .next (s.issue c (isz sz) fun s =>
    let r := s.takeFree
    r.2.exception c 3 (if Word.bit r.1 0 then (s.ctx c).pc else 0))

/-- The interrupt causes in the order in which a context takes them (R67). -/
def causeOrder : List Nat := [19, 16, 18, 20, 17, 21]

/-- Whether a context is held in an early-arrival hold (R318). -/
def Ctx.earlyHold (k : Ctx) : Bool := k.st == .waiting && (match k.wait with | some w => w.kind == .early | none => false)

/-- The interrupt that a context takes next: pending, enabled in mie, with MIE set or in U-mode; an early hold is left by
cause 19 only (R67, R316). -/
def Ctx.nextCause (k : Ctx) : Option Nat :=
  if k.mie1 = false ∧ k.priv = .m then none
  else causeOrder.find? (fun n => Word.bit k.mip n && Word.bit k.mie n && (!k.earlyHold || n == 19))

/-- Whether a context stands between instructions: READY, WAITING, STALLED without effect so far, or in an ISECT, which a
trap abandons (R67, R175, R316). -/
def State.betweenInstrs (s : State) (c : CtxRef) : Bool :=
  let k := s.ctx c
  let T := s.tile c.tile
  s.computeOn && !s.tileExcl c.tile && !T.folded && !k.halted
    && (match T.pre with | some p => p.victim != c.ctx | none => true)
    && (k.st == .ready || k.st == .waiting || (k.st == .stalled && (k.stall == .retry || T.isects.any (fun q => q.ctx == c.ctx))))

/-- What becomes of a context's registered wait as it takes an interrupt (R314, R316, R336): a blocking one is withdrawn, an
armed one ends with cause 17, and cause 19 ends every one. -/
def State.waitAtTrap (s : State) (c : CtxRef) (cause : Nat) : State :=
  match (s.ctx c).wait with
  | none => s
  | some w =>
    let s := if w.armed = false ∧ w.kind ≠ .early then s.bump c.tile .wakes else s
    let s := if w.armed ∧ cause = 17 then s.flushCache c.tile else s
    if w.armed ∧ cause ≠ 17 ∧ cause ≠ 19 then s else s.modCtx c (fun k => { k with wait := none })

/-- INTERRUPT: a context takes the first of its pending enabled interrupts between instructions (R66, R67). The cause is no
longer pending, except the timer's (R64; log 71). -/
def execInterrupt (c : CtxRef) (s : State) : Out :=
  .next (
    match s.betweenInstrs c, (s.ctx c).nextCause with
    | true, some cause =>
      let s := (s.abandonIsect c).waitAtTrap c cause
      let mtvec := (s.tile c.tile).mtvec
      s.modCtx c fun k =>
        let k := { k with mip := if cause = 21 then k.mip else Word.setBit k.mip cause false }
        { k.trap mtvec cause true 0 with st := .ready, stall := .none }
    | _, _ => s)

/-- The end of a deal interrupt by the first MRET (R132, R162, R314): the slot RETIRED, MDIRQ.VALID clear, the streams that the
handler opened closed, an armed wait withdrawn, the signal audit ended (R332). -/
def State.endIrq (s : State) (c : CtxRef) : State :=
  let w := (s.ctx c).mdirq
  let s := match tileOf? (Word.bits w 2 10) with
    | some home => s.retireSlot home (BitVec.ofNat 20 (Word.bits w 12 20))
    | none => s
  let s := ((s.abortStreams c (fun x => x.handler)).withdrawWait c).auditEnd c (Word.bits w 12 20)
  s.modCtx c (fun k => { k with mdirq := Word.setBit k.mdirq 0 false })

/-- A context after the return from a trap (R59, R65). -/
def Ctx.ret (k : Ctx) : Ctx :=
  { k with pc := k.mepc, priv := k.mpp, mie1 := k.mpie, mpie := true, mpp := .u, instret := k.instret + 1 }

/-- MRET (R132). In U-mode it is illegal. -/
def execMret (c : CtxRef) (s : State) : Out :=
  .next (s.issue c 4 fun s =>
    let k := s.ctx c
    if k.priv = .u then s.illegal c 0x30200073
    else if k.inIrq = false then s.modCtx c Ctx.ret
    else
      let park := Word.bit k.mdirq 1
      let s := s.endIrq c
      if park then
        let s := (s.unbind c).modCtx c (fun k =>
          { k with st := .parked, stall := .none, resv := none, wait := none, pc := k.pc + 4, instret := k.instret + 1 })
        s.progress c.tile
      else s.modCtx c Ctx.ret)

/-- TIMER_INTERRUPT: the timebase is at or beyond a context's deadline, and cause 21 becomes pending (R64). -/
def execTimerInterrupt (c : CtxRef) (s : State) : Out :=
  .next (if s.computeOn ∧ s.timerDue (s.ctx c) then s.pend c 21 else s)

/-- The bytes of an encoding. -/
def ilen : ILen → Nat
  | .two => 2 | .four => 4 | .eight => 8

/-- ILLEGAL_INSTRUCTION: an encoding that no chapter defines (R12). The command supplies its bits (log 72). -/
def execIllegalInstruction (c : CtxRef) (bits : Word) (len : ILen) (s : State) : Out :=
  .next (s.issue c (ilen len) fun s => s.illegal c bits.toNat)

/-! ### CSR instructions (R12, R31, R58) -/

/-- The encoding of a CSR instruction, for mtval. -/
def csrWord (op : CsrOp) (rd : XReg) (num : BitVec 12) (src : CsrSrc) : Nat :=
  let f := match op with | .rw => 1 | .rs => 2 | .rc => 3
  match src with
  | .reg r => iWord 0x73 f rd r num
  | .imm v => iWord 0x73 (f + 4) rd v num

/-- Whether a CSR instruction writes: a set or clear from x0 or of no bit does not. -/
def csrWrites (op : CsrOp) (src : CsrSrc) : Bool :=
  match op, src with
  | .rw, _ => true
  | _, .reg r => r != 0
  | _, .imm v => v != 0

/-- The word that a CSR instruction writes. -/
def csrNew (op : CsrOp) (old x : Word) : Word :=
  match op with
  | .rw => x
  | .rs => old ||| x
  | .rc => old &&& ~~~x

/-- A CSR instruction: cause 2 for an unassigned or forbidden number and for a write of a read-only one (R58); a read that waits
for vector instructions stalls (R208). -/
def State.csrInstr (s : State) (c : CtxRef) (op : CsrOp) (rd : XReg) (num : BitVec 12) (src : CsrSrc) : State :=
  let n := num.toNat
  let x := match src with | .reg r => s.getX c r | .imm v => BitVec.ofNat 64 v.val
  if csrWrites op src ∧ bitsOf n 10 2 = 3 then s.illegal c (csrWord op rd num src)
  else
    match s.csrRead c n with
    | .illegal => s.illegal c (csrWord op rd num src)
    | .wait => s.stallRetry c
    | .val old => ((if csrWrites op src then s.csrWrite c n (csrNew op old x) else s)).retireX c rd old

/-- MJTLBINV: an access of CSR 0x7C3 (R43, R63). -/
def execMjtlbinv (c : CtxRef) (op : CsrOp) (rd : XReg) (src : CsrSrc) (s : State) : Out :=
  .next (s.issue c 4 fun s => s.csrInstr c op rd 0x7C3 src)

/-- MTIMECMP: an access of CSR 0x7C4 (R64). -/
def execMtimecmp (c : CtxRef) (op : CsrOp) (rd : XReg) (src : CsrSrc) (s : State) : Out :=
  .next (s.issue c 4 fun s => s.csrInstr c op rd 0x7C4 src)

/-! ### The calls that the tile monitor serves (R69) -/

/-- The end of a call: the status in x10, the result in x11, the pc past the ECALL. The trap and its return leave mepc, mcause,
mtval and the stacked mode behind and end the reservation (R30); the monitor's other M-mode registers are not modelled
(log 73). -/
def Ctx.callDone (k : Ctx) (status : Nat) (res : Word) : Ctx :=
  { (k.setX 10 (BitVec.ofNat 64 status)).setX 11 res with
    pc := k.pc + 4, mepc := k.pc + 4, mcause := 8, mtval := 0, mpp := .u, mpie := true, resv := none }

/-- A call that ends with status 0 and a result, or with another status and a result that nothing fixes (log 4). -/
def State.callOk (s : State) (c : CtxRef) (res : Word) : State := s.modCtx c (fun k => k.callDone 0 res)
def State.callBad (s : State) (c : CtxRef) (status : Nat) : State :=
  let r := s.takeFree
  r.2.modCtx c (fun k => k.callDone status r.1)

/-- A page of a RANGE call: its physical address, where it is mapped DRAM of MT 0 in the job's grant with the rights that the
operation needs. -/
def State.rangePage (s : State) (t : TileId) (wr : Bool) (va : Nat) : Option Nat :=
  if 2 ^ 48 ≤ va then none
  else
    match (s.walk t va).1 with
    | .fail _ => none
    | .leaf pte _ giant =>
      let pa := leafPa pte giant va
      if ptePermits pte .read && (!wr || ptePermits pte .write) && Word.bits pte 8 2 == 0 && decide (pa < s.dramTop)
          && s.targetGranted t 0 pa then some pa else none

/-- The physically contiguous runs of a range, translated page by page; none where a page is not permitted. -/
def State.rangeRuns (s : State) (t : TileId) (wr : Bool) (va len : Nat) : Option (List (Nat × Nat)) :=
  let first := va / 0x200000
  let count := if len = 0 then 0 else (va + len - 1) / 0x200000 + 1 - first
  (List.range count).foldl (fun (a : Option (List (Nat × Nat))) i =>
    match a with
    | none => none
    | some l =>
      let lo := if i = 0 then va else (first + i) * 0x200000
      let n := min (va + len) ((first + i + 1) * 0x200000) - lo
      match s.rangePage t wr lo with
      | none => none
      | some pa =>
        match l.getLast? with
        | some (b, m) => if b + m = pa then some (l.dropLast ++ [(b, m + n)]) else some (l ++ [(pa, n)])
        | none => some [(pa, n)]) (some [])

/-- One range command issued on the broadcast alias and carried through; the sum of SKIP over the stacks is added (R358, R362). -/
def State.rangeRun (a : State × Nat) (j : JSlot) (cmd base len : Nat) : State × Nat :=
  let s := a.1
  let word : Word := BitVec.ofNat 64 (cmd + j.val * 2 ^ 19 + 2 ^ 63)
  let s := s.stacks.foldl (fun (s : State) k =>
    ((s.rangeWrite k .rngbase (BitVec.ofNat 64 base)).rangeWrite k .rnglen (BitVec.ofNat 64 len)).rangeWrite k .rngcmd word) s
  let s := s.stacks.foldl (fun (s : State) k => s.rangeFinish k) s
  (s, a.2 + (s.stacks.map (fun k => Word.bits (s.stackReg k .rngstat) 32 32)).foldl (· + ·) 0)

/-- The call RANGE (R69, R356, R358). It waits while an earlier range command is under way: nothing happens then. R69 orders neither
that wait and the checks nor the checks among themselves; the model's choice is the wait, then status 2, 3, 4 (log 83). -/
def State.callRange (s : State) (c : CtxRef) : State :=
  let a0 := (s.getX c 10).toNat
  let va := (s.getX c 11).toNat
  let len := (s.getX c 12).toNat
  let op := a0 % 4
  let j := s.jslot c.tile
  if s.stacks.any (fun k => (Tab.find? s.ranges k).isSome) then s
  else if 2 ^ 19 ≤ a0 ∨ va % 128 ≠ 0 ∨ len % 128 ≠ 0 then s.callBad c 2
  else
    match s.rangeRuns c.tile (op == 1 || op == 2) va len with
    | none => s.callBad c 3
    | some runs =>
      let ways := bitsOf a0 3 16
      if s.stacks.any (fun k => ways &&& s.waysOf k j != ways) then s.callBad c 4
      else
        let r := runs.foldl (fun a (x : Nat × Nat) => State.rangeRun a j a0 x.1 x.2) (s, 0)
        r.1.callOk c (BitVec.ofNat 64 r.2)

/-- The TLB entries of a job slot invalidated on every tile of its partition (R43, R568). -/
def State.callFlush (s : State) (c : CtxRef) : State :=
  let j := s.jslot c.tile
  ((allTiles.filter (fun t => (s.job j).dies.testBit t.die.val && !s.tileExcl t)).foldl (fun (s : State) t =>
    s.modTile t (fun T => { T with tlb := T.tlb.filter (fun e => e.slot != j) })) s).callOk c 0

/-- The call AFFWAIT (R69, R144). -/
def State.callAffwait (s : State) (c : CtxRef) : State :=
  let v := (s.getX c 10).toNat
  let q := quadOfTile c.tile
  let old := Word.bits (s.quadReg q .dlrcfg) 0 12
  if 4095 < v then s.callBad c 2
  else (s.modReg (.quad q .dlrcfg) (fun w => Word.setBits w 0 12 v)).callOk c (BitVec.ofNat 64 old)

/-- An ECALL in U-mode whose call number is `n`, served by `f`: without effect where x17 holds another number or the context is
in M-mode (INTEGER_INSTRUCTION covers those). -/
def State.monitorCall (s : State) (c : CtxRef) (n : Nat) (f : State → State) : State :=
  if (s.ctx c).priv = .u ∧ (s.getX c 17).toNat = n then s.issue c 4 f else s

/-- VERSION (R69). -/
def execVersion (c : CtxRef) (s : State) : Out := .next (s.monitorCall c 0 (fun s => s.callOk c 1))
/-- RANGE (R69). -/
def execRange (c : CtxRef) (s : State) : Out := .next (s.monitorCall c 1 (fun s => s.callRange c))
/-- ECALL_TLB_FLUSH (R69). -/
def execEcallTlbFlush (c : CtxRef) (s : State) : Out := .next (s.monitorCall c 2 (fun s => s.callFlush c))
/-- AFFWAIT (R69). -/
def execAffwait (c : CtxRef) (s : State) : Out := .next (s.monitorCall c 3 (fun s => s.callAffwait c))

/-- ECALL: cause 11 in M-mode; in U-mode the monitor serves the call that x17 names (R65, R69). -/
def State.ecall (s : State) (c : CtxRef) : State :=
  if (s.ctx c).priv = .m then s.exception c 11 0
  else
    match (s.getX c 17).toNat with
    | 0 => s.callOk c 1
    | 1 => s.callRange c
    | 2 => s.callFlush c
    | 3 => s.callAffwait c
    | _ => s.callBad c 1

/-! ### Integer instructions (R27) -/

/-- A jump: the return address in a register, the pc at the target with bit 0 clear (R29). -/
def Ctx.jump (k : Ctx) (rd : XReg) (n : Nat) (target : Word) : Ctx :=
  { k.setX rd (k.pc + BitVec.ofNat 64 n) with pc := Word.setBit target 0 false, instret := k.instret + 1 }

/-- An integer instruction of `n` bytes (R27, R29, R58, R69). FENCE.I waits for the context's stores. -/
def State.integer (s : State) (c : CtxRef) (n : Nat) (op : IntOp) : State :=
  let x := fun (r : XReg) => s.getX c r
  let pc := (s.ctx c).pc
  match op with
  | .lui rd imm => s.retireX c rd (BitVec.signExtend 64 (imm ++ (0 : BitVec 12))) n
  | .auipc rd imm => s.retireX c rd (pc + BitVec.signExtend 64 (imm ++ (0 : BitVec 12))) n
  | .jal rd off => s.modCtx c (fun k => k.jump rd n (pc + BitVec.signExtend 64 (off ++ (0 : BitVec 1))))
  | .jalr rd rs1 imm => let t := x rs1 + imm.signExtend 64; s.modCtx c (fun k => k.jump rd n t)
  | .branch op rs1 rs2 off =>
    if brTaken op (x rs1) (x rs2) then s.modCtx c (fun k => k.jump 0 n (pc + BitVec.signExtend 64 (off ++ (0 : BitVec 1))))
    else s.retire c n
  | .alu op rd rs1 rs2 => s.retireX c rd (aluEval op (x rs1) (x rs2)) n
  | .aluW op rd rs1 rs2 => s.retireX c rd (aluWEval op (x rs1) (x rs2)) n
  | .aluI op rd rs1 imm => s.retireX c rd (aluIEval op (x rs1) imm) n
  | .shift op rd rs1 sh => s.retireX c rd (shiftEval op (x rs1) sh) n
  | .unary op rd rs1 => s.retireX c rd (unaryEval op (x rs1)) n
  | .csr op rd num src => s.csrInstr c op rd num src
  | .fenceI => s.fenceI c n
  | .ecall => s.ecall c

/-- INTEGER_INSTRUCTION (R27). -/
def execIntegerInstruction (c : CtxRef) (op : IntOp) (sz : ISize) (s : State) : Out :=
  .next (s.issue c (isz sz) fun s => s.integer c (isz sz) op)

end Sys2Proof.Machine
end

