-- ==== Sys2Proof/Machine/Steward.lean ====
section
/-! DEFINITION. The steward's mailboxes (R567, R568), REG_READ and REG_WRITE (R569), and TELEM_READ (R554 to R557). -/

namespace Sys2Proof.Machine

/-! ### Mailbox commands -/

/-- A mailbox command ends: its status and results, and BUSY clears (R567). -/
def State.mailDone (s : State) (m : Fin 5) (status : Nat) (results : List Word := []) : State :=
  let s := (List.finRange 8).foldl (fun (s : State) i =>
    match results[i.val]? with | some w => s.setReg (.stew (.mbdata m i)) w | none => s) s
  s.modReg (.stew (.mbstat m)) (fun w => Word.setBits (Word.setBit w 0 false) 8 8 status)

/-- The command at the head of the steward's mailbox queue served, if it is this one: GOs are served in the order they arrived. -/
def State.serveMail (s : State) (cmd : Nat) (act : State → Fin 5 → List Word → State) : State :=
  match s.mailbox with
  | (m, c, d) :: rest => if c = cmd then act { s with mailbox := rest } m d else s
  | [] => s

/-- MB_TLB_FLUSH: a monitor flushes its own slot's TLB entries, the owner any slot's (R43, R568). -/
def execMbTlbFlush (s : State) : Out :=
  .next (s.serveMail 1 fun s m d =>
    let j : JSlot := Fin.ofNat 4 (Word.bits (d.headD 0) 0 2)
    if m.val < 4 ∧ j.val ≠ m.val then s.mailDone m stNotImpl
    else if (s.job j).st ≠ .running then s.mailDone m stWrongState
    else (s.flushTlbs j).mailDone m 0)

/-- MB_RPL_READ: up to seven entries of the retired-page list (R350, R568). -/
def execMbRplRead (s : State) : Out :=
  .next (s.serveMail 2 fun s m d =>
    let l := (s.retired.drop (d.headD 0).toNat).take 7
    s.mailDone m 0 (BitVec.ofNat 64 s.retired.length :: l.map (fun r => BitVec.ofNat 64 (leVal r.bytes))))

/-- Whether a tile may fold (R474, R477): in service, not of a RUNNING job, every context PARKED. -/
def State.foldOk (s : State) (t : TileId) : Bool :=
  s.inService && !s.tileExcl t && (match s.owner t with | some j => (s.job j).st == .admitted || (s.job j).st == .stopped | none => true)
    && (s.tile t).allParked

/-- FOLD: a tile power-gated (R474). -/
def execFold (s : State) : Out :=
  .next (s.serveMail 3 fun s m d =>
    match tileOfOrd? (Word.bits (d.headD 0) 0 10) with
    | none => s.mailDone m stBadBody
    | some t => if s.foldOk t then (s.foldTile t (Word.bit (d.headD 0) 16)).mailDone m 0 else s.mailDone m stWrongState)

/-- UNFOLD: a tile restored (R474, R475). -/
def execUnfold (s : State) : Out :=
  .next (s.serveMail 4 fun s m d =>
    match tileOfOrd? (Word.bits (d.headD 0) 0 10) with
    | none => s.mailDone m stBadBody
    | some t => (if (s.tile t).folded then s.unfoldTile t else s).mailDone m 0)

/-- SIT_OUT: compute clocks stop, dirty lines are written back, DRAM refreshes itself, and the links idle (R474, R475). -/
def execSitOut (s : State) : Out :=
  .next (s.serveMail 5 fun s m _ =>
    if s.inService = false ∨ (List.finRange 4).any (fun j => (s.job j).st == .running) then s.mailDone m stWrongState
    else
      let s := s.flushStacks
      let s := (List.finRange 16).foldl (fun (s : State) p => s.lpiEnter p) s
      let s := { s with computeOn := false, power := { s.power with sitting := true, selfRefresh := true } }
      s.showBoot.mailDone m 0)

/-- SIT_IN: the device returns from sitting out (R474). -/
def execSitIn (s : State) : Out := .next (s.serveMail 6 fun s m _ => s.sitIn.mailDone m 0)

/-- EXCL_CLEAR: an exclusion removed from the list in flash, from the next start on (R468, R477). -/
def execExclClear (s : State) : Out :=
  .next (s.serveMail 7 fun s m d =>
    match unitOf? (Word.bits (d.headD 0) 0 16) with
    | none => s.mailDone m stBadBody
    | some u =>
      let s := s.modBoot (fun b => { b with exclFlash := b.exclFlash.filter (· != u) })
      (s.journalAdd 0x0A 0 0 0 (unitCode u) []).mailDone m 0)

/-! ### REG_READ and REG_WRITE (R569) -/

/-- The first address past register space. -/
def regBase : Nat := 0x030000000000
def regEnd : Nat := 0x030100000000

/-- Whether the compute, bridge, link and host dies are held in reset: until B05 of a start (R461). -/
def State.diesHeld (s : State) : Bool := !s.boot.powered || s.boot.mrst || (!s.boot.ready && decide (s.boot.step < 5))

/-- Whether a word lies in a block of a folded tile or an excluded unit, or of a die held in reset. -/
def State.blockShut (s : State) (pa : Nat) : Bool :=
  (decide (pa < 0x0300F0000000) && s.diesHeld)
    || (({ s with excl := [] } : State).locAt pa).isSome && (s.locAt pa).isNone
    || (decide (pa < regBase + 0x40000000) && (match tileOf? ((pa - regBase) / 0x100000) with
        | some t => (s.tile t).folded | none => false))

/-- Whether a word lies in a tile, dealer or die block of a RUNNING job's partition. -/
def State.blockRuns (s : State) (pa : Nat) : Bool :=
  match regBlockDie pa with
  | some d => (List.finRange 4).any (fun j => (s.job j).st == .running && (s.job j).dies.testBit d.val)
  | none => false

/-- The status of a register request's range (R569). -/
def State.regStatus (s : State) (pa n : Nat) (write : Bool) : Nat :=
  let words := (List.range n).map (fun i => pa + 8 * i)
  if pa % 8 ≠ 0 ∨ pa < regBase ∨ regEnd < pa + 8 * n then 24
  else if words.any s.blockShut then stWrongState
  else if write ∧ words.any s.blockRuns then stWrongState
  else 0

/-- An access to a tile's register block reaches the tile (R551). -/
def State.touchBlock (s : State) (pa : Nat) : State :=
  if pa < regBase + 0x40000000 then
    match tileOf? ((pa - regBase) / 0x100000) with
    | some t => if (s.tile t).slice.isSome then s.modTile t id else s
    | none => s
  else s

/-- Words read one at a time, in ascending address. -/
def State.readWords : Nat → State → Nat → State × List Word
  | 0, s, _ => (s, [])
  | n + 1, s, pa =>
    let s := s.touchBlock pa
    let w := (s.wordAt pa).getD 0
    let r := State.readWords n s (pa + 8)
    (r.1, w :: r.2)

/-- Words written one at a time, in ascending address. -/
def State.writeWords : List Word → State → Nat → State
  | [], s, _ => s
  | w :: ws, s, pa => State.writeWords ws ((s.touchBlock pa).stewWrite pa w) (pa + 8)

/-- REG_READ. -/
def execRegRead (i : Nat) (s : State) : Out :=
  .next (s.serve i 0x40 (fun _ => true) fun r s =>
    let pa := leAt r.body 0 8
    let n := leAt r.body 8 2
    if r.lenOk 16 = false ∨ n = 0 ∨ 512 < n then s.answer r stBadBody
    else if bytesZero r.body 10 16 = false then s.answer r 24
    else
      let st := s.regStatus pa n false
      if st ≠ 0 then s.answer r st
      else
        let (s, ws) := s.readWords n pa
        s.answer r 0 (leBytes 4 0 ++ (ws.map Word.bytes).flatten))

/-- REG_WRITE: with the owner's authentication (R536). -/
def execRegWrite (i : Nat) (s : State) : Out :=
  .next (s.serve i 0x41 (fun _ => true) fun r s =>
    let n := leAt r.body 8 2
    s.serveOwner r (some (16 + 8 * n)) (fun _ => decide (1 ≤ n ∧ n ≤ 512)) fun b s =>
      let pa := leAt b 0 8
      let st := if bytesZero b 10 16 then s.regStatus pa n true else 24
      if st ≠ 0 then s.answer r st
      else (State.writeWords ((List.range n).map (fun k => wordOf (b.drop 16) k)) s pa).answer r 0)

/-! ### TELEM_READ (R556, R557) -/

/-- EVENTS: up to 127 event records from a cursor; over I3C the alert cursor moves past the last of them. -/
def execEvents (i : Nat) (s : State) : Out :=
  .next (s.serve i 0x20 (fun r => leAt r.body 0 1 == 0) fun r s =>
    if r.lenOk 16 = false ∨ bytesZero r.body 1 8 = false then s.answer r stBadBody
    else
      let cur := leAt r.body 8 8
      let held := s.events.reverse
      let oldest := match held with | e :: _ => e.seq | [] => s.enext
      let l := (held.filter (fun (e : Event) => decide (cur ≤ e.seq))).take 127
      let next := match l.getLast? with | some e => e.seq + 1 | none => max cur oldest
      let s := s.answer r 0 (leBytes 4 0 ++ leBytes 8 next ++ leBytes 4 (oldest - cur) ++ (l.map Event.bytes).flatten)
      if r.via.isNone ∧ l ≠ [] then s.modReg (.stew .telcur) (fun w => Word.setBits w 0 32 (max next (Word.bits w 0 32))) else s)

/-- The offsets below a bound, from a first one, at which a block holds a register. -/
def regOffsets (loc : Nat → Loc) (lo hi : Nat) : List Nat :=
  ((List.range ((hi - lo) / 8)).map (fun i => lo + 8 * i)).filter (fun o => loc o != .hole)

/-- The addresses of a register group (R557). -/
def groupAddrs (group idx : Nat) : Option (List Nat) :=
  let at_ := fun (base : Nat) (l : List Nat) => some (l.map (base + ·))
  match group with
  | 1 => match tileOfOrd? idx with | some t => at_ (regBase + tileNum t * 0x100000) (regOffsets (tileLoc t) 0 0x70000) | none => none
  | 2 => match quadOfOrd? idx with | some q => at_ (regBase + 0x40000000 + quadNum q * 0x10000) (regOffsets (quadLoc q) 0 0x10000) | none => none
  | 3 => if idx < 12 then at_ (regBase + 0x50000000 + idx * 0x100000)
          [0, 8, 0x10, 0x18, 0x10000, 0x10008, 0x10010, 0x10018, 0x10020, 0x10028, 0x10030, 0x10038, 0x20000, 0x20008, 0x20010, 0x20018] else none
  | 4 => if idx < 16 then at_ (regBase + 0x60000000 + idx * 0x10000) (regOffsets (portLoc (Fin.ofNat 16 idx)) 0 0x210) else none
  | 5 => at_ (regBase + 0x70000000) (regOffsets hostLoc 0 0x140)
  | 6 => if idx < 4 then at_ (regBase + 0x80000000 + idx * 0x1000000) (regOffsets (dieLoc (Fin.ofNat 4 idx)) 0x900000 0x900228) else none
  | 7 => at_ (regBase + 0xF0000000) (regOffsets stewLoc 0x100 0x468 ++ regOffsets stewLoc 0x700 0x710)
  | 8 => at_ (regBase + 0x90000000) (regOffsets embLoc 0x500 0x530)
  | _ => none

/-- SNAPSHOT: a group's registers between two readings of the timebase. -/
def execSnapshot (i : Nat) (s : State) : Out :=
  .next (s.serve i 0x20 (fun r => leAt r.body 0 1 == 1) fun r s =>
    if r.lenOk 8 = false ∨ leAt r.body 1 1 ≠ 0 then s.answer r stBadBody
    else
      match groupAddrs (leAt r.body 2 2) (leAt r.body 4 4) with
      | none => s.answer r stNotImpl
      | some l =>
        let s := l.foldl (fun (s : State) pa => s.touchBlock pa) s
        s.answer r 0 (leBytes 4 0 ++ leBytes 8 s.now ++ leBytes 8 s.now
          ++ (l.map (fun pa => Word.bytes ((s.wordAt pa).getD 0))).flatten))

/-- JOBS: state, epoch and last admission status of each job slot. -/
def execJobs (i : Nat) (s : State) : Out :=
  .next (s.serve i 0x20 (fun r => leAt r.body 0 1 == 2) fun r s =>
    if r.lenOk 1 = false then s.answer r stBadBody
    else s.answer r 0 (((List.finRange 4).map (fun j =>
      let b := s.job j
      leBytes 1 b.st.code ++ leBytes 1 b.epoch.toNat ++ leBytes 1 b.status ++ leBytes 5 0)).flatten))

end Sys2Proof.Machine
end

