-- ==== Sys2Proof/Machine/Dispatch.lean ====
section
/-! DEFINITION. The dispatch of the commands: each to its meaning. -/

namespace Sys2Proof.Machine

/-- The effect of a command on everything but the queue. -/
def exec (i : Instr) (s : State) : Host.Outcome State Fault Refusal :=
  match i with
  | .load c rd rs1 imm w uns sz => Sys2Proof.Machine.execLoad c rd rs1 imm w uns sz s
  | .store c rs1 rs2 imm w sz => Sys2Proof.Machine.execStore c rs1 rs2 imm w sz s
  | .amo c op rd rs1 rs2 dbl aq rl => Sys2Proof.Machine.execAmo c op rd rs1 rs2 dbl aq rl s
  | .lr c rd rs1 dbl aq rl => Sys2Proof.Machine.execLr c rd rs1 dbl aq rl s
  | .sc c rd rs1 rs2 dbl aq rl => Sys2Proof.Machine.execSc c rd rs1 rs2 dbl aq rl s
  | .fence c pred succ => Sys2Proof.Machine.execFence c pred succ s
  | .fenceE c f => Sys2Proof.Machine.execFenceE c f s
  | .fenceD c f => Sys2Proof.Machine.execFenceD c f s
  | .wfi c => Sys2Proof.Machine.execWfi c s
  | .ebreak c sz => Sys2Proof.Machine.execEbreak c sz s
  | .interrupt c => Sys2Proof.Machine.execInterrupt c s
  | .mret c => Sys2Proof.Machine.execMret c s
  | .version c => Sys2Proof.Machine.execVersion c s
  | .range c => Sys2Proof.Machine.execRange c s
  | .ecallTlbFlush c => Sys2Proof.Machine.execEcallTlbFlush c s
  | .affwait c => Sys2Proof.Machine.execAffwait c s
  | .vbind c f => Sys2Proof.Machine.execVbind c f s
  | .vbindT c f => Sys2Proof.Machine.execVbindT c f s
  | .vunbind c f => Sys2Proof.Machine.execVunbind c f s
  | .mjtlbinv c op rd src => Sys2Proof.Machine.execMjtlbinv c op rd src s
  | .mtimecmp c op rd src => Sys2Proof.Machine.execMtimecmp c op rd src s
  | .timerInterrupt c => Sys2Proof.Machine.execTimerInterrupt c s
  | .token c f far => Sys2Proof.Machine.execToken c f far s
  | .tokenI c f => Sys2Proof.Machine.execTokenI c f s
  | .tokenUnitSend t idx far => Sys2Proof.Machine.execTokenUnitSend t idx far s
  | .spawn t k => Sys2Proof.Machine.execSpawn t k s
  | .set t k hold => Sys2Proof.Machine.execSet t k hold s
  | .arrive t k hold => Sys2Proof.Machine.execArrive t k hold s
  | .potAdd t k hold => Sys2Proof.Machine.execPotAdd t k hold s
  | .potAddsq t k hold => Sys2Proof.Machine.execPotAddsq t k hold s
  | .potMax t k hold => Sys2Proof.Machine.execPotMax t k hold s
  | .potMin t k hold => Sys2Proof.Machine.execPotMin t k hold s
  | .potMerge t k => Sys2Proof.Machine.execPotMerge t k s
  | .mergeRowReadComplete r => Sys2Proof.Machine.execMergeRowReadComplete r s
  | .stat t k hold => Sys2Proof.Machine.execStat t k hold s
  | .kittyDrain t n victims => Sys2Proof.Machine.execKittyDrain t n victims s
  | .deal home idx ctx far => Sys2Proof.Machine.execDeal home idx ctx far s
  | .affinityWaitExpiry home idx => Sys2Proof.Machine.execAffinityWaitExpiry home idx s
  | .tend c f => Sys2Proof.Machine.execTend c f s
  | .dealInterrupt home idx ctx far => Sys2Proof.Machine.execDealInterrupt home idx ctx far s
  | .preempt home idx => Sys2Proof.Machine.execPreempt home idx s
  | .preemptSave t far => Sys2Proof.Machine.execPreemptSave t far s
  | .restore t idx ctx => Sys2Proof.Machine.execRestore t idx ctx s
  | .dlrclr q w => Sys2Proof.Machine.execDlrclr q w s
  | .gopen c f far => Sys2Proof.Machine.execGopen c f far s
  | .gnext c f => Sys2Proof.Machine.execGnext c f s
  | .gclose c f => Sys2Proof.Machine.execGclose c f s
  | .gcloseW c f => Sys2Proof.Machine.execGcloseW c f s
  | .gstat c f => Sys2Proof.Machine.execGstat c f s
  | .gatherReturn t n far => Sys2Proof.Machine.execGatherReturn t n far s
  | .isect c f far => Sys2Proof.Machine.execIsect c f far s
  | .isectComplete t far => Sys2Proof.Machine.execIsectComplete t far s
  | .vadd c f v => Sys2Proof.Machine.execVadd c f v s
  | .vsub c f v => Sys2Proof.Machine.execVsub c f v s
  | .vmul c f v => Sys2Proof.Machine.execVmul c f v s
  | .vfma c f v => Sys2Proof.Machine.execVfma c f v s
  | .vmacc c v => Sys2Proof.Machine.execVmacc c v s
  | .vmin c f v => Sys2Proof.Machine.execVmin c f v s
  | .vmax c f v => Sys2Proof.Machine.execVmax c f v s
  | .vdiv c f v => Sys2Proof.Machine.execVdiv c f v s
  | .vsgnj c f v => Sys2Proof.Machine.execVsgnj c f v s
  | .vrem c v => Sys2Proof.Machine.execVrem c v s
  | .vcmpeq c f v => Sys2Proof.Machine.execVcmpeq c f v s
  | .vcmplt c f v => Sys2Proof.Machine.execVcmplt c f v s
  | .vcmple c f v => Sys2Proof.Machine.execVcmple c f v s
  | .vcmpun c f v => Sys2Proof.Machine.execVcmpun c f v s
  | .vsra c v => Sys2Proof.Machine.execVsra c v s
  | .vand c v => Sys2Proof.Machine.execVand c v s
  | .vor c v => Sys2Proof.Machine.execVor c v s
  | .vxor c v => Sys2Proof.Machine.execVxor c v s
  | .vshl c v => Sys2Proof.Machine.execVshl c v s
  | .vminu c v => Sys2Proof.Machine.execVminu c v s
  | .vmaxu c v => Sys2Proof.Machine.execVmaxu c v s
  | .vdivu c v => Sys2Proof.Machine.execVdivu c v s
  | .vremu c v => Sys2Proof.Machine.execVremu c v s
  | .vandn c v => Sys2Proof.Machine.execVandn c v s
  | .vcmpltu c v => Sys2Proof.Machine.execVcmpltu c v s
  | .vcmpleu c v => Sys2Proof.Machine.execVcmpleu c v s
  | .vsrl c v => Sys2Proof.Machine.execVsrl c v s
  | .mov c f u => Sys2Proof.Machine.execMov c f u s
  | .neg c f u => Sys2Proof.Machine.execNeg c f u s
  | .abs c f u => Sys2Proof.Machine.execAbs c f u s
  | .sqrt c f u => Sys2Proof.Machine.execSqrt c f u s
  | .rsqrt c f u => Sys2Proof.Machine.execRsqrt c f u s
  | .recip c f u => Sys2Proof.Machine.execRecip c f u s
  | .exp c f u => Sys2Proof.Machine.execExp c f u s
  | .exp2 c f u => Sys2Proof.Machine.execExp2 c f u s
  | .log c f u => Sys2Proof.Machine.execLog c f u s
  | .log2 c f u => Sys2Proof.Machine.execLog2 c f u s
  | .tanh c f u => Sys2Proof.Machine.execTanh c f u s
  | .sigmoid c f u => Sys2Proof.Machine.execSigmoid c f u s
  | .gelu c f u => Sys2Proof.Machine.execGelu c f u s
  | .silu c f u => Sys2Proof.Machine.execSilu c f u s
  | .erf c f u => Sys2Proof.Machine.execErf c f u s
  | .sin c f u => Sys2Proof.Machine.execSin c f u s
  | .cos c f u => Sys2Proof.Machine.execCos c f u s
  | .floor c f u => Sys2Proof.Machine.execFloor c f u s
  | .ceil c f u => Sys2Proof.Machine.execCeil c f u s
  | .rint c f u => Sys2Proof.Machine.execRint c f u s
  | .trunc c f u => Sys2Proof.Machine.execTrunc c f u s
  | .transpose c f u => Sys2Proof.Machine.execTranspose c f u s
  | .not c f u => Sys2Proof.Machine.execNot c f u s
  | .popcnt c f u => Sys2Proof.Machine.execPopcnt c f u s
  | .clz c f u => Sys2Proof.Machine.execClz c f u s
  | .reduceSum c f u => Sys2Proof.Machine.execReduceSum c f u s
  | .reduceMax c f u => Sys2Proof.Machine.execReduceMax c f u s
  | .reduceMin c f u => Sys2Proof.Machine.execReduceMin c f u s
  | .reduceSumsq c f u => Sys2Proof.Machine.execReduceSumsq c f u s
  | .shuffle c f v => Sys2Proof.Machine.execShuffle c f v s
  | .popc c f u => Sys2Proof.Machine.execPopc c f u s
  | .any c f u => Sys2Proof.Machine.execAny c f u s
  | .all c f u => Sys2Proof.Machine.execAll c f u s
  | .first c f u => Sys2Proof.Machine.execFirst c f u s
  | .fmax c f u => Sys2Proof.Machine.execFmax c f u s
  | .fmin c f u => Sys2Proof.Machine.execFmin c f u s
  | .sum c f u => Sys2Proof.Machine.execSum c f u s
  | .vld c f => Sys2Proof.Machine.execVld c f s
  | .vst c f => Sys2Proof.Machine.execVst c f s
  | .vcvt c f => Sys2Proof.Machine.execVcvt c f s
  | .vmlogic c f => Sys2Proof.Machine.execVmlogic c f s
  | .vclrst c f => Sys2Proof.Machine.execVclrst c f s
  | .mma c z top f => Sys2Proof.Machine.execMma c z top f s
  | .mmaD c f far => Sys2Proof.Machine.execMmaD c f far s
  | .matrixPassComplete t v nb far => Sys2Proof.Machine.execMatrixPassComplete t v nb far s
  | .eprun c f far => Sys2Proof.Machine.execEprun c f far s
  | .vsmx c m zero fmt f => Sys2Proof.Machine.execVsmx c m zero fmt f s
  | .ebag c f far => Sys2Proof.Machine.execEbag c f far s
  | .egrad c f far => Sys2Proof.Machine.execEgrad c f far s
  | .eapply c f far => Sys2Proof.Machine.execEapply c f far s
  | .rowput c f far => Sys2Proof.Machine.execRowput c f far s
  | .rowdel c f far => Sys2Proof.Machine.execRowdel c f far s
  | .shadow c f far => Sys2Proof.Machine.execShadow c f far s
  | .hand c f far => Sys2Proof.Machine.execHand c f far s
  | .flip c f far => Sys2Proof.Machine.execFlip c f far s
  | .mapinv c f far => Sys2Proof.Machine.execMapinv c f far s
  | .rsync c f far => Sys2Proof.Machine.execRsync c f far s
  | .embreq p m far => Sys2Proof.Machine.execEmbreq p m far s
  | .embrsp p m far => Sys2Proof.Machine.execEmbrsp p m far s
  | .embcmd p m far => Sys2Proof.Machine.execEmbcmd p m far s
  | .signal c f => Sys2Proof.Machine.execSignal c f s
  | .signalR c f => Sys2Proof.Machine.execSignalR c f s
  | .sigread c f => Sys2Proof.Machine.execSigread c f s
  | .wait c f => Sys2Proof.Machine.execWait c f s
  | .wcancel c f => Sys2Proof.Machine.execWcancel c f s
  | .barrive c f => Sys2Proof.Machine.execBarrive c f s
  | .bwait c f => Sys2Proof.Machine.execBwait c f s
  | .barrv p k => Sys2Proof.Machine.execBarrv p k s
  | .brel p k => Sys2Proof.Machine.execBrel p k s
  | .chassisLineHigh l => Sys2Proof.Machine.execChassisLineHigh l s
  | .chassisRearm l => Sys2Proof.Machine.execChassisRearm l s
  | .barrierTimeout d n => Sys2Proof.Machine.execBarrierTimeout d n s
  | .xferPut c f far => Sys2Proof.Machine.execXferPut c f far s
  | .xferGet c f far => Sys2Proof.Machine.execXferGet c f far s
  | .xferPuts c f far => Sys2Proof.Machine.execXferPuts c f far s
  | .writeNotice idx => Sys2Proof.Machine.execWriteNotice idx s
  | .xferTimeout at_ => Sys2Proof.Machine.execXferTimeout at_ s
  | .scrub k e => Sys2Proof.Machine.execScrub k e s
  | .clean at_ base len => Sys2Proof.Machine.execClean at_ base len s
  | .inval at_ base len force => Sys2Proof.Machine.execInval at_ base len force s
  | .clinv at_ base len force => Sys2Proof.Machine.execClinv at_ base len force s
  | .lockfill at_ base len ways slot => Sys2Proof.Machine.execLockfill at_ base len ways slot s
  | .rangeComplete k => Sys2Proof.Machine.execRangeComplete k s
  | .farrd p k => Sys2Proof.Machine.execFarrd p k s
  | .farwr p k => Sys2Proof.Machine.execFarwr p k s
  | .faramo p k => Sys2Proof.Machine.execFaramo p k s
  | .farrsp p k => Sys2Proof.Machine.execFarrsp p k s
  | .farTimeout t ctx => Sys2Proof.Machine.execFarTimeout t ctx s
  | .linkTraining p r => Sys2Proof.Machine.execLinkTraining p r s
  | .fastRetrain p r => Sys2Proof.Machine.execFastRetrain p r s
  | .laneErrorThreshold p lane => Sys2Proof.Machine.execLaneErrorThreshold p lane s
  | .dataFlit p f => Sys2Proof.Machine.execDataFlit p f s
  | .retryTimeout p => Sys2Proof.Machine.execRetryTimeout p s
  | .linkDown p => Sys2Proof.Machine.execLinkDown p s
  | .tokenPacket p k => Sys2Proof.Machine.execTokenPacket p k s
  | .put p k => Sys2Proof.Machine.execPut p k s
  | .puts p k => Sys2Proof.Machine.execPuts p k s
  | .xack p k => Sys2Proof.Machine.execXack p k s
  | .getreq p k far => Sys2Proof.Machine.execGetreq p k far s
  | .getdata p k => Sys2Proof.Machine.execGetdata p k s
  | .sigr p k => Sys2Proof.Machine.execSigr p k s
  | .fault p k => Sys2Proof.Machine.execFault p k s
  | .tsreq p t1 => Sys2Proof.Machine.execTsreq p t1 s
  | .tsrsp p t1 t2 t3 => Sys2Proof.Machine.execTsrsp p t1 t2 t3 s
  | .lpienter p => Sys2Proof.Machine.execLpienter p s
  | .lpiexit p => Sys2Proof.Machine.execLpiexit p s
  | .timesyncPeriod p => Sys2Proof.Machine.execTimesyncPeriod p s
  | .gxhtToken idx => Sys2Proof.Machine.execGxhtToken idx s
  | .gxhtPut idx => Sys2Proof.Machine.execGxhtPut idx s
  | .gxhtGetreq idx room => Sys2Proof.Machine.execGxhtGetreq idx room s
  | .gxhtGetrsp idx => Sys2Proof.Machine.execGxhtGetrsp idx s
  | .gxhtMgmt idx => Sys2Proof.Machine.execGxhtMgmt idx s
  | .gxhtAck idx => Sys2Proof.Machine.execGxhtAck idx s
  | .retransmitTimeout c => Sys2Proof.Machine.execRetransmitTimeout c s
  | .congestionUpdate c => Sys2Proof.Machine.execCongestionUpdate c s
  | .heartbeatTimeout c => Sys2Proof.Machine.execHeartbeatTimeout c s
  | .pfcPause prio quanta => Sys2Proof.Machine.execPfcPause prio quanta s
  | .pfcPauseExpiry prio => Sys2Proof.Machine.execPfcPauseExpiry prio s
  | .eapol op => Sys2Proof.Machine.execEapol op s
  | .ptpMessage m => Sys2Proof.Machine.execPtpMessage m s
  | .ident idx => Sys2Proof.Machine.execIdent idx s
  | .connOpen idx => Sys2Proof.Machine.execConnOpen idx s
  | .connClose idx => Sys2Proof.Machine.execConnClose idx s
  | .jobAdmit idx plan => Sys2Proof.Machine.execJobAdmit idx plan s
  | .jobStart idx => Sys2Proof.Machine.execJobStart idx s
  | .jobStop idx => Sys2Proof.Machine.execJobStop idx s
  | .jobResetEnd idx => Sys2Proof.Machine.execJobResetEnd idx s
  | .jobResetRestart idx => Sys2Proof.Machine.execJobResetRestart idx s
  | .tlbFlush idx => Sys2Proof.Machine.execTlbFlush idx s
  | .events idx => Sys2Proof.Machine.execEvents idx s
  | .snapshot idx => Sys2Proof.Machine.execSnapshot idx s
  | .jobs idx => Sys2Proof.Machine.execJobs idx s
  | .journalRead idx => Sys2Proof.Machine.execJournalRead idx s
  | .rplRead idx => Sys2Proof.Machine.execRplRead idx s
  | .attest idx => Sys2Proof.Machine.execAttest idx s
  | .attestSigned => Sys2Proof.Machine.execAttestSigned s
  | .write idx => Sys2Proof.Machine.execWrite idx s
  | .check idx => Sys2Proof.Machine.execCheck idx s
  | .activate idx => Sys2Proof.Machine.execActivate idx s
  | .commit idx => Sys2Proof.Machine.execCommit idx s
  | .take idx => Sys2Proof.Machine.execTake idx s
  | .enrol idx => Sys2Proof.Machine.execEnrol idx s
  | .revoke idx => Sys2Proof.Machine.execRevoke idx s
  | .fndDisable idx => Sys2Proof.Machine.execFndDisable idx s
  | .fndEnable idx => Sys2Proof.Machine.execFndEnable idx s
  | .release idx => Sys2Proof.Machine.execRelease idx s
  | .measure idx => Sys2Proof.Machine.execMeasure idx s
  | .regRead idx => Sys2Proof.Machine.execRegRead idx s
  | .regWrite idx => Sys2Proof.Machine.execRegWrite idx s
  | .registerWrite pa w bytes => Sys2Proof.Machine.execRegisterWrite pa w bytes s
  | .mbTlbFlush => Sys2Proof.Machine.execMbTlbFlush s
  | .mbRplRead => Sys2Proof.Machine.execMbRplRead s
  | .fold => Sys2Proof.Machine.execFold s
  | .unfold => Sys2Proof.Machine.execUnfold s
  | .sitOut => Sys2Proof.Machine.execSitOut s
  | .sitIn => Sys2Proof.Machine.execSitIn s
  | .exclClear => Sys2Proof.Machine.execExclClear s
  | .contextHalt j => Sys2Proof.Machine.execContextHalt j s
  | .chassisFault => Sys2Proof.Machine.execChassisFault s
  | .faultPulseEnd => Sys2Proof.Machine.execFaultPulseEnd s
  | .tileReset t => Sys2Proof.Machine.execTileReset t s
  | .patienceSliceStart t kind => Sys2Proof.Machine.execPatienceSliceStart t kind s
  | .patienceSliceEnd t good sig off e => Sys2Proof.Machine.execPatienceSliceEnd t good sig off e s
  | .patienceFail t => Sys2Proof.Machine.execPatienceFail t s
  | .patienceStale t => Sys2Proof.Machine.execPatienceStale t s
  | .inputPowerGood => Sys2Proof.Machine.execInputPowerGood s
  | .mrst => Sys2Proof.Machine.execMrst s
  | .warmReset => Sys2Proof.Machine.execWarmReset s
  | .bootStep u pass dur detail => Sys2Proof.Machine.execBootStep u pass dur detail s
  | .bootWatchdog u dur detail => Sys2Proof.Machine.execBootWatchdog u dur detail s
  | .rsaKeyRegenerate => Sys2Proof.Machine.execRsaKeyRegenerate s
  | .inputWarning v => Sys2Proof.Machine.execInputWarning v s
  | .powerFail v => Sys2Proof.Machine.execPowerFail v s
  | .powerRecovery v => Sys2Proof.Machine.execPowerRecovery v s
  | .undervoltageLockout v torn => Sys2Proof.Machine.execUndervoltageLockout v torn s
  | .overvoltage v => Sys2Proof.Machine.execOvervoltage v s
  | .overcurrent => Sys2Proof.Machine.execOvercurrent s
  | .railWarning r mv => Sys2Proof.Machine.execRailWarning r mv s
  | .railReset r mv torn => Sys2Proof.Machine.execRailReset r mv torn s
  | .throttleRelease c reading dur => Sys2Proof.Machine.execThrottleRelease c reading dur s
  | .powerCap p => Sys2Proof.Machine.execPowerCap p s
  | .chassisThrottle => Sys2Proof.Machine.execChassisThrottle s
  | .throttleForce v => Sys2Proof.Machine.execThrottleForce v s
  | .thermalThrottle t sensor => Sys2Proof.Machine.execThermalThrottle t sensor s
  | .thermalSevere t sensor => Sys2Proof.Machine.execThermalSevere t sensor s
  | .thermalCrit t sensor => Sys2Proof.Machine.execThermalCrit t sensor s
  | .thermalRecovery t sensor => Sys2Proof.Machine.execThermalRecovery t sensor s
  | .thermalShutdown t sensor => Sys2Proof.Machine.execThermalShutdown t sensor s
  | .lossOfLock ref => Sys2Proof.Machine.execLossOfLock ref s
  | .timeset ns => Sys2Proof.Machine.execTimeset ns s
  | .secondPulse width => Sys2Proof.Machine.execSecondPulse width s
  | .tick width => Sys2Proof.Machine.execTick width s
  | .ppsLoss => Sys2Proof.Machine.execPpsLoss s
  | .seating pins => Sys2Proof.Machine.execSeating pins s
  | .callLineEnable => Sys2Proof.Machine.execCallLineEnable s
  | .callLineStuck pin fn high => Sys2Proof.Machine.execCallLineStuck pin fn high s
  | .i3cPrivateWrite b => Sys2Proof.Machine.execI3cPrivateWrite b s
  | .i3cPrivateRead => Sys2Proof.Machine.execI3cPrivateRead s
  | .entdaa a => Sys2Proof.Machine.execEntdaa a s
  | .integerInstruction c op sz => Sys2Proof.Machine.execIntegerInstruction c op sz s
  | .illegalInstruction c bits len => Sys2Proof.Machine.execIllegalInstruction c bits len s
  | .memoryAccessPerformed t seq hit ecc => Sys2Proof.Machine.execMemoryAccessPerformed t seq hit ecc s
  | .vectorInstructionComplete t v far => Sys2Proof.Machine.execVectorInstructionComplete t v far s
  | .railRecovery r => Sys2Proof.Machine.execRailRecovery r s
  | .stackRefreshHalved k t => Sys2Proof.Machine.execStackRefreshHalved k t s
  | .inputPolarityReversed => Sys2Proof.Machine.execInputPolarityReversed s
  | .mrstRelease => Sys2Proof.Machine.execMrstRelease s
  | .cp3InvalidPulse width => Sys2Proof.Machine.execCp3InvalidPulse width s
  | .ethernetFrameDrop d => Sys2Proof.Machine.execEthernetFrameDrop d s
  | .hostLinkLoss e => Sys2Proof.Machine.execHostLinkLoss e s
  | .ptpMasterLost => Sys2Proof.Machine.execPtpMasterLost s
  | .i3cCommonCommand c => Sys2Proof.Machine.execI3cCommonCommand c s

end Sys2Proof.Machine
end

