-- ==== Sys2Proof/Machine/Time.lean ====
section
/-! DEFINITION. Time: what one cycle of the TIME domain, 10 ns, does whatever is commanded (R31, R480, R484, R493). The model runs
one such cycle as its step on an empty queue (DESIGN CHOICE, log 5). -/

namespace Sys2Proof.Machine

/-- The division of the root clock that gives ARITH (R480, R482). -/
def State.arithDiv (s : State) : Nat := match s.level with | 0 => 4 | 1 => 8 | _ => 16

/-- Whether ARITH runs: not sitting out, and not in the power-fail hold (R480). -/
def State.arithRuns (s : State) : Bool := s.computeOn && !s.power.sitting && !s.power.hold

/-- Whether an instruction of a queue's head belongs to the matrix engine. -/
def VOp.isMatrix : VOp → Bool
  | .mma .. => true
  | .mmad .. => true
  | _ => false

/-- Whether some vector context of a tile works on an instruction of the matrix engine, or of the vector engine. -/
def Tile.works (T : Tile) (matrix : Bool) : Bool :=
  T.vctxs.any (fun (x : VctxId × VCtx) => match x.2.queue with
    | q :: _ => q.op.isMatrix == matrix
    | [] => false)

/-- Whether a tile has stopped the clocks of its core and engines (R317): it is idle, and no patience slice runs. -/
def Tile.gated (T : Tile) : Bool := T.idle && T.slice.isNone

/-- A tile's cycle counters after `n` ARITH cycles (R31, R140, R210, R244, R317, R339). -/
def State.tileCycles (s : State) (t : TileId) (n : Nat) : State :=
  let T := s.tile t
  let add := fun (s : State) (r : TileReg) (k : Nat) => if k = 0 then s else s.modReg (.tile t r) (fun w => w + BitVec.ofNat 64 k)
  let s := add s .cycle n
  let s := add s .dbusy (n * T.load)
  let s := add s .tgate (if T.gated then n else 0)
  let s := add s .vbusy (if T.works false then n else 0)
  add s .mxbusy (if T.works true then n else 0)

/-- The items of a tile's hand that wait: spades task items without a victim or a save record (R133), and deal-interrupt items
without a target (R130). -/
def State.deferred (s : State) (t : TileId) : Nat × Nat :=
  let T := s.tile t
  let q := quadOfTile t
  let l := (T.hand.filter (fun h => h.suit == 0)).filterMap (fun h => T.fired? h.idx)
  let irq := l.filter (fun e => s.isIrq t e && !s.irqEligible t e)
  let task := l.filter (fun e => !s.isIrq t e && Word.bit (s.quadReg q .dlrcfg) 12 && !s.taskEligible t e)
  (task.length, irq.length)

/-- DDEFER of a tile's quad after `n` cycles (R130, R133). -/
def State.deferCycles (s : State) (t : TileId) (n : Nat) : State :=
  let d := s.deferred t
  if d = (0, 0) then s
  else s.modReg (.quad (quadOfTile t) .ddefer) (fun w => Word.addBits (Word.addBits w 0 32 (n * d.1)) 32 32 (n * d.2))

/-- The ARITH cycles of one TIME cycle (R480): 72 root cycles, those left over from the cycle before among them. -/
def State.arithTick (s : State) : State :=
  if s.arithRuns then
    let c := 72 + s.rootRem
    let n := c / s.arithDiv
    let s : State := { s with rootRem := c % s.arithDiv }
    let l := allTiles.filter (fun t => !s.tileExcl t && !(s.tile t).folded)
    let s := l.foldl (fun (s : State) t => s.deferCycles t n) s
    l.foldl (fun (s : State) t => s.tileCycles t n) s
  else s

/-- The timebase one TIME cycle later (R493): 10 ns and STEER, in units of 2⁻¹⁶ ns, over 64 bits of nanoseconds. -/
def State.nextTime (s : State) : Nat :=
  let st := Word.bits (s.stewReg .timesteer) 0 16
  let steer : Int := if st < 2 ^ 15 then (st : Int) else (st : Int) - 2 ^ 16
  ((s.timebase : Int) + 10 * 2 ^ 16 + steer).toNat % 2 ^ 80

/-- THRTIME: the whole microseconds that pass, at the level in force (R484). -/
def State.throttleTime (s : State) (us : Nat) : State :=
  if us = 0 then s
  else
    match s.level with
    | 1 => s.modReg (.stew .thrtime) (fun w => Word.addBits w 0 32 us)
    | 2 => s.modReg (.stew .thrtime) (fun w => Word.addBits w 32 32 us)
    | _ => s

/-- The bit errors that arise in memory in a cycle, as a free value names them (R347, log 33). -/
def State.upset (s : State) : State := { s with latent := Config.upsets s.free ++ s.latent, free := s.free + 1 }

/-- One TIME cycle. Until B02 has locked the PLL and started the timebase, the root die counts the time since the start began
(R472, R493). -/
def State.tick (s : State) : State :=
  if s.boot.powered = false ∨ s.boot.mrst then s
  else if Word.bit (s.stewReg .clkstat) 0 then
    let t := s.nextTime
    let s := (s.upset.arithTick.portsTick.throttleTime ((t / (2 ^ 16 * 1000)) - s.timebase / (2 ^ 16 * 1000))).dueAcks
    { s with timebase := t }
  else if s.boot.active then { s with startNs := s.startNs + 10 }
  else s

end Sys2Proof.Machine
end

