-- ==== Sys2Proof/Safety.lean ====
section
/-! DEFINITION. What counts as a safe run of the block, and the words in which claims about commands are said. -/

namespace Sys2Proof

open Sys2Proof.Machine

/-! ### Runs -/

/-- The steps of a run: each answers the next state. -/
inductive Run : State → State → Prop where
  | refl (s : State) : Run s s
  | tail {s t u : State} (h : Run s t) (e : step t = .next u) : Run s u

/-- The data that the model keeps well formed: memory in its one canonical form (R340), and no more journal records and event
records than their rings hold (R471, R554). -/
structure Sound (s : State) : Prop where
  mem : Memory.wf s.mem = true
  journal : s.journal.length ≤ 262144
  events : s.events.length ≤ 8192

/-- No job slot of the device stops or has stopped for a job fault (R445 to R448). -/
def FaultFree (s : State) : Prop := ∀ j : JSlot, (s.job j).stop = none

/-- A safe run: sound and free of job faults in every state that it reaches. -/
def Safe (s : State) : Prop := ∀ t : State, Run s t → Sound t ∧ FaultFree t

/-! ### The words of claims -/

/-- A context issues an instruction of `n` bytes: it can issue (R32), and the fetch passes and leaves `s'` (R44). -/
def Issues (s : State) (c : CtxRef) (n : Nat) (s' : State) : Prop := s.canIssue c = true ∧ s.fetch c n = (none, s')

/-- Memory, DRAM and tile SRAM, reads the same in two states. -/
def SameMem (s t : State) : Prop := ∀ pa : Nat, t.byte pa = s.byte pa

/-- Every context but one is the same in two states. -/
def SameCtxs (s t : State) (c : CtxRef) : Prop := ∀ d : CtxRef, d ≠ c → t.ctx d = s.ctx d

/-- A token reaches a tile that is there to take it (R79). -/
def Lands (s : State) (t : TileId) (k : Token) : Prop :=
  s.computeOn = true ∧ tileOf? k.dtile.toNat = some t ∧ k.shard = none ∧ s.tileExcl t = false ∧ (s.tile t).folded = false

/-- A token of a defined operation passes the checks of its tile's meld store (R78). -/
def Passes (s : State) (t : TileId) (k : Token) : Prop :=
  Word.bits (s.tileReg t .mjob) 8 8 = k.epoch.toNat ∧ (s.job k.jslot).st ≠ .stopped ∧ Word.bit (s.tileReg t .mjob) 2 = true
    ∧ Word.bits (s.tileReg t .mjob) 0 2 = k.jslot.val ∧ tokWellFormed k = true ∧ s.statFits t k = true

/-- The state in which a token that passed meets its slot: off the mesh, and counted in TOKIN. -/
def taking (s : State) (t : TileId) (k : Token) : State :=
  ({ s with mesh := eraseFirst (· == k) s.mesh } : State).bump t .tokin

/-- An entry that takes a counted token at once: ARMED, uncut, and with no backlog. -/
def TakesNow (s : State) (t : TileId) (k : Token) (i : Nat) (e : Slot) : Prop :=
  (s.tile t).findSlot (.prog k.slot) = some (i, e) ∧ e.st = .armed ∧ e.cut = false ∧ e.backlog = []

/-- A packet is taken at this device: it waits there or comes by an UP port, no earlier one of its order is before it, it is well
formed, and it is for this device (R391, R392, R400). -/
def Taken (s : State) (p : PortId) (k : Packet) (s' : State) : Prop :=
  s.computeOn = true ∧ s.behind p k = false ∧ s.takePacket p k = some s' ∧ pkOk k = true
    ∧ (s.inbox.contains (p, k) = true ∨ s.localPkts.contains k = true ∨ Word.bit (s.routeEntry (dieOfPort p) k.ddev) 20 = true)

/-- The first job fault of a running job: it is recorded in the journal, and the job stops with its code (R447, R448). -/
def Stops (t : State) (j : JSlot) (code : Nat) : Prop :=
  (t.job j).stop = some code ∧ (t.journal.head?.map fun r => (r.typ, r.code)) = some (4, code)

/-- The state in which a GXHT packet's CE mark, and the last sender of connection 0, are noted (R418, R427). -/
def marking (s : State) (i : HtIn) (c : Fin 1024) : State :=
  let s := if i.ce then (s.modReg (.host .htce) (· + 1)).modConn c (fun k => { k with ce := k.ce + 1 }) else s
  if c = 0 then s.modConn c (fun k => { k with peer := i.peer }) else s

/-- A GXHT packet enters by the port for an open connection (R411, R412, R414, R416). -/
def Enters (s : State) (i : HtIn) (c : Fin 1024) : Prop :=
  s.hostUp = true ∧ s.frameOk i.sec = true ∧ s.datagramOk i = true ∧ i.pkt.ver = 1 ∧ i.pkt.conn.toNat = c.val ∧ (s.conn c).st = .opened

/-- A GXHT packet that entered lies in its connection's window for the first time (R419): whether it shows a gap, and the state that
holds it. -/
def Arrives (s : State) (i : HtIn) (c : Fin 1024) (wait : HtWait) (gap : Bool) (s' : State) : Prop :=
  let k := s.conn c
  let off := psnDist k.rxNext i.pkt.psn.toNat
  Enters s i c ∧ k.seenAt i.pkt.psn.toNat = none ∧ off < htWindow
    ∧ gap = (List.range off).any (fun d => (k.seenAt ((k.rxNext + d) % 2 ^ 32)).isNone)
    ∧ s' = ((marking s i c).holdPkt c i.pkt wait).modReg (.host .htrx) (· + 1)

/-- What follows a packet's effect: the ACK of a gap that it shows while its own effect is not complete, and the pauses that are due
(R413, R419). -/
def afterPacket (s : State) (c : Fin 1024) (p : HtPkt) (gap : Bool) : State :=
  let waits := ((s.conn c).seenAt p.psn.toNat).any (fun (e : HtSeen) => !e.isDone)
  (if gap ∧ waits ∧ (s.conn c).st = .opened then s.ackGap c p else s).pfcTurn

/-- A management request for an endpoint waits at a place of the steward's queue (R426); `s'` is without it. -/
def Asked (s : State) (i endpoint : Nat) (r : MgmtReq) (s' : State) : Prop :=
  s.host.reqs[i]? = some r ∧ r.endpoint = endpoint ∧ s' = s.modHost (fun h => { h with reqs := h.reqs.eraseIdx i })

/-- No request of an endpoint, of the kind that a command serves, waits at a place of the steward's queue: that command does nothing. -/
def Unasked (s : State) (i endpoint : Nat) (kind : MgmtReq → Bool := fun _ => true) : Prop :=
  ∀ r, s.host.reqs[i]? = some r → r.endpoint = endpoint → kind r = false

/-- A request for an owner's endpoint has its form (R536): `body` is what the signatures cover, of `len` bytes where that is fixed. -/
def Formed (s : State) (i endpoint : Nat) (len : Option Nat) (r : MgmtReq) (body : List Byte) (s' : State) : Prop :=
  Asked s i endpoint r s' ∧ (s.sec.owned = true ∨ r.via = none)
    ∧ ∃ raw, s.ownerBody r = some raw ∧ (match len with
      | some n => ({ r with body := raw } : MgmtReq).lenOk n = true ∧ body = raw.take n
      | none => body = raw)

/-- The state in which an authenticated owner request acts: on an owned device its counter has been kept (R536). -/
def authorised (s : State) (r : MgmtReq) : State :=
  if s.sec.owned then s.modSec (fun x => { x with ownctr := leAt (r.body.drop (r.body.length - trailerLen)) 8 8 }) else s

/-- A command serves an owner request: refused with the status of its authentication, or acting as `eff` says (R536). -/
def Decides (c : Instr) (s s' : State) (r : MgmtReq) (body : List Byte) (eff : State → State → Prop) : Prop :=
  ∃ u, exec c s = .next u ∧ (s'.ownerStatus r body ≠ 0 → u = s'.answer r (s'.ownerStatus r body))
    ∧ (s'.ownerStatus r body = 0 → eff (authorised s' r) u)

end Sys2Proof
end

