-- ==== Sys2Proof/Certificates/Slice0/Obligations.lean ====
section
/-! DEFINITION. The statements for the provers, family by family. -/

open Sys2Proof Sys2Proof.Machine

/-! ### Steps -/

/-- A step takes the command at the front of the queue and runs `exec` on it with the queue's rest. -/
def Obligations.StepRunsTheCommand : Prop :=
  ∀ (c : Instr) (rest : List Instr) (s : State), step { s with pending := c :: rest } = exec c { s with pending := rest }

/-- The invariant that every step keeps: the sizes of the journal's and the event ring's storage (R471, R554), and the one form in which
the model holds a content of memory (R340; the form is the model's). -/
def Obligations.StepKeepsSound : Prop :=
  ∀ s t : State, Sound s → step s = .next t → Sound t

/-! ### The control core (02_programming_model) -/

/-- The results of the integer instructions (R27): each form that computes, jumps or fences, with its next state; CSR accesses stand in
the statements of their rows. That a context which cannot issue changes nothing is the model's choice (log 1). -/
def Obligations.IntegerInstructionResults : Prop :=
  (∀ (c : CtxRef) (op : IntOp) (sz : Sys2Proof.ISize) (s : State),
    (∀ x va u, s.canIssue c = true → s.fetch c (isz sz) = (some (x, va), u) →
        exec (.integerInstruction c op sz) s = .next (u.exception c (x.cause .fetch) (BitVec.ofNat 64 va)))
    ∧ (s.canIssue c = false → exec (.integerInstruction c op sz) s = .next s))
  ∧ ∀ (c : CtxRef) (sz : Sys2Proof.ISize) (s s' : State), Issues s c (isz sz) s' →
    (∀ op rd rs1 rs2, exec (.integerInstruction c (.alu op rd rs1 rs2) sz) s
        = .next (s'.modCtx c fun k => (k.setX rd (aluEval op (s'.getX c rs1) (s'.getX c rs2))).retire (isz sz)))
    ∧ (∀ op rd rs1 rs2, exec (.integerInstruction c (.aluW op rd rs1 rs2) sz) s
        = .next (s'.modCtx c fun k => (k.setX rd (aluWEval op (s'.getX c rs1) (s'.getX c rs2))).retire (isz sz)))
    ∧ (∀ op rd rs1 imm, exec (.integerInstruction c (.aluI op rd rs1 imm) sz) s
        = .next (s'.modCtx c fun k => (k.setX rd (aluIEval op (s'.getX c rs1) imm)).retire (isz sz)))
    ∧ (∀ op rd rs1 n, exec (.integerInstruction c (.shift op rd rs1 n) sz) s
        = .next (s'.modCtx c fun k => (k.setX rd (shiftEval op (s'.getX c rs1) n)).retire (isz sz)))
    ∧ (∀ op rd rs1, exec (.integerInstruction c (.unary op rd rs1) sz) s
        = .next (s'.modCtx c fun k => (k.setX rd (unaryEval op (s'.getX c rs1))).retire (isz sz)))
    ∧ (∀ rd imm, exec (.integerInstruction c (.lui rd imm) sz) s
        = .next (s'.modCtx c fun k => (k.setX rd ((imm ++ (0 : BitVec 12)).signExtend 64)).retire (isz sz)))
    ∧ (∀ rd imm, exec (.integerInstruction c (.auipc rd imm) sz) s
        = .next (s'.modCtx c fun k => (k.setX rd ((s'.ctx c).pc + (imm ++ (0 : BitVec 12)).signExtend 64)).retire (isz sz)))
    ∧ (∀ rd off, exec (.integerInstruction c (.jal rd off) sz) s
        = .next (s'.modCtx c fun k => k.jump rd (isz sz) ((s'.ctx c).pc + (off ++ (0 : BitVec 1)).signExtend 64)))
    ∧ (∀ rd rs1 imm, exec (.integerInstruction c (.jalr rd rs1 imm) sz) s
        = .next (s'.modCtx c fun k => k.jump rd (isz sz) (s'.getX c rs1 + imm.signExtend 64)))
    ∧ (∀ op rs1 rs2 off, brTaken op (s'.getX c rs1) (s'.getX c rs2) = true →
        exec (.integerInstruction c (.branch op rs1 rs2 off) sz) s
          = .next (s'.modCtx c fun k => k.jump 0 (isz sz) ((s'.ctx c).pc + (off ++ (0 : BitVec 1)).signExtend 64)))
    ∧ (∀ op rs1 rs2 off, brTaken op (s'.getX c rs1) (s'.getX c rs2) = false →
        exec (.integerInstruction c (.branch op rs1 rs2 off) sz) s = .next (s'.modCtx c fun k => k.retire (isz sz)))
    ∧ ((s'.tile c.tile).memq.any (fun o => o.ctx == c.ctx) = false → exec (.integerInstruction c .fenceI sz) s
        = .next ((s'.modTile c.tile (fun T => { T with icache := [] })).modCtx c fun k => k.retire (isz sz)))
    ∧ ((s'.tile c.tile).memq.any (fun o => o.ctx == c.ctx) = true → exec (.integerInstruction c .fenceI sz) s = .next (s'.stallRetry c))
    ∧ ((s'.ctx c).priv = .u → 4 ≤ (s'.getX c 17).toNat → ∃ v n, exec (.integerInstruction c .ecall sz) s
        = .next (({ s' with free := n } : State).modCtx c fun k => k.callDone 1 v))

/-- The frame of the integer instructions. The destination is any `rd`; a branch has none (`rd = 0`). -/
def Obligations.IntegerInstructionFrame : Prop :=
  ∀ (c : CtxRef) (sz : Sys2Proof.ISize) (op : IntOp) (rd : XReg) (s s' t : State), Issues s c (isz sz) s' →
    (match op with
      | .lui d _ => d = rd | .auipc d _ => d = rd | .jal d _ => d = rd | .jalr d _ _ => d = rd | .branch _ _ _ _ => rd = 0
      | .alu _ d _ _ => d = rd | .aluW _ d _ _ => d = rd | .aluI _ d _ _ => d = rd | .shift _ d _ _ => d = rd | .unary _ d _ => d = rd
      | .csr _ _ _ _ => False | .fenceI => False | .ecall => False) →
    exec (.integerInstruction c op sz) s = .next t →
      (∀ r : XReg, r ≠ rd ∨ r = 0 → t.getX c r = s'.getX c r)
      ∧ (∃ pc x, t.ctx c = { s'.ctx c with pc := pc, instret := (s'.ctx c).instret + 1, x := x })
      ∧ SameCtxs s' t c ∧ SameMem s' t ∧ t.regs = s'.regs ∧ t.mem = s'.mem
      ∧ (∀ u : TileId, (t.tile u).vctxs = (s'.tile u).vctxs ∧ (t.tile u).slots = (s'.tile u).slots ∧ (t.tile u).memq = (s'.tile u).memq)

/-- The frame of the fetch (R42, R44): a walk fills the TLB and reads through the stack cache, and so do the instruction's bytes. An
error that such a read finds is counted and logged, and poison stops the job (R347, R348), hence the premise of the second part. -/
def Obligations.FetchFrame : Prop :=
  ∀ (c : CtxRef) (n : Nat) (s s' : State), s.fetch c n = (none, s') →
    (∀ d : CtxRef, (s'.ctx d).x = (s.ctx d).x ∧ (s'.ctx d).pc = (s.ctx d).pc)
    ∧ (s.latent = [] → s.poison = [] →
    (∀ d : CtxRef, s'.ctx d = s.ctx d) ∧ s'.mem = s.mem ∧ s'.poison = s.poison ∧ s'.pending = s.pending ∧ s'.journal = s.journal
    ∧ (∀ t r, s'.tileReg t r = s.tileReg t r) ∧ (∀ q r, s'.quadReg q r = s.quadReg q r) ∧ (∀ r, s'.stewReg r = s.stewReg r)
    ∧ (∀ u : TileId, (s'.tile u).memq = (s.tile u).memq ∧ (s'.tile u).tokq = (s.tile u).tokq ∧ (s'.tile u).slots = (s.tile u).slots
        ∧ (s'.tile u).vctxs = (s.tile u).vctxs))

/-- LOAD, STORE, AMO, LR and SC complete their issue (R29, R30, R33, R46): `k`, `w`, `va` and `data` are the access's kind, width,
address and operand, and `pa`, `mt` and `far` what its translation gives. -/
def Obligations.ScalarAccessIssue : Prop :=
  ∀ (c : CtxRef) (s s1 s2 : State) (i : Instr) (n : Nat) (k : MemKind) (w : Width) (va data : Word) (aq rl : Bool)
    (pa mt : Nat) (far : Option (BitVec 14)),
    ((∃ rd rs1 imm uns sz, i = .load c rd rs1 imm w uns sz ∧ (w = .d → uns = false) ∧ n = isz sz ∧ k = .load rd uns
          ∧ va = s1.getX c rs1 + imm.signExtend 64 ∧ data = 0 ∧ aq = false ∧ rl = false)
      ∨ (∃ rs1 rs2 imm sz, i = .store c rs1 rs2 imm w sz ∧ n = isz sz ∧ k = .store
          ∧ va = s1.getX c rs1 + imm.signExtend 64 ∧ data = s1.getX c rs2 ∧ aq = false ∧ rl = false)
      ∨ (∃ op rd rs1 rs2 dbl, i = .amo c op rd rs1 rs2 dbl aq rl ∧ n = 4 ∧ k = .amo op rd ∧ w = amoWidth dbl
          ∧ va = s1.getX c rs1 ∧ data = s1.getX c rs2)
      ∨ (∃ rd rs1 dbl, i = .lr c rd rs1 dbl aq rl ∧ n = 4 ∧ k = .lr rd ∧ w = amoWidth dbl ∧ va = s1.getX c rs1 ∧ data = 0)
      ∨ (∃ rd rs1 rs2 dbl, i = .sc c rd rs1 rs2 dbl aq rl ∧ n = 4 ∧ k = .sc rd ∧ w = amoWidth dbl
          ∧ va = s1.getX c rs1 ∧ data = s1.getX c rs2)) →
    Issues s c n s1 → va.toNat % widthBytes w = 0 →
    s1.accessAddr c.tile (s1.ctx c).priv k va.toNat = (.ok pa mt far, s2) →
    (s2.accessPlace pa far = .reg → s2.regForbids k pa = false) →
    ∃ t, exec i s = .next t
      ∧ (t.tile c.tile).memq = (s2.tile c.tile).memq ++
          [{ seq := (s2.tile c.tile).seq, ctx := c.ctx, kind := k, place := s2.accessPlace pa far, pa := pa, width := w,
             data := data, aq := aq, rl := rl, priv := (s1.ctx c).priv, sent := false,
             leaf := s1.scLeaf c.tile (s1.ctx c).priv k va.toNat }]
      ∧ (t.ctx c).pc = (s2.ctx c).pc + BitVec.ofNat 64 n ∧ (t.ctx c).instret = (s2.ctx c).instret + 1
      ∧ ((t.ctx c).st = if k = .store then (s2.ctx c).st else .stalled)
      ∧ (∀ r, t.getX c r = s2.getX c r) ∧ SameCtxs s2 t c ∧ SameMem s2 t ∧ t.regs = s2.regs

/-- A misaligned LOAD takes cause 4 and a misaligned STORE cause 6, with mtval the address (R29, R65); which of the two LR, SC and AMO
take is the model's reading (log 16). -/
def Obligations.MisalignedAccessTraps : Prop :=
  ∀ (c : CtxRef) (s s' : State) (rd rs1 rs2 : XReg),
    (∀ (imm : BitVec 12) (w : Width) (uns : Bool) (sz : Sys2Proof.ISize), Issues s c (isz sz) s' →
      (s'.getX c rs1 + imm.signExtend 64).toNat % widthBytes w ≠ 0 →
      ((w = .d → uns = false) →
        exec (.load c rd rs1 imm w uns sz) s = .next (s'.exception c 4 (s'.getX c rs1 + imm.signExtend 64)))
      ∧ exec (.store c rs1 rs2 imm w sz) s = .next (s'.exception c 6 (s'.getX c rs1 + imm.signExtend 64)))
    ∧ (∀ (op : AmoOp) (dbl aq rl : Bool), Issues s c 4 s' → (s'.getX c rs1).toNat % widthBytes (amoWidth dbl) ≠ 0 →
      exec (.lr c rd rs1 dbl aq rl) s = .next (s'.exception c 4 (s'.getX c rs1))
      ∧ exec (.sc c rd rs1 rs2 dbl aq rl) s = .next (s'.exception c 6 (s'.getX c rs1))
      ∧ exec (.amo c op rd rs1 rs2 dbl aq rl) s = .next (s'.exception c 6 (s'.getX c rs1)))

/-- What taking an exception saves, and where it goes (R65). -/
def Obligations.ExceptionEntry : Prop :=
  ∀ (c : CtxRef) (s : State) (cause : Nat) (tval : Word), ((s.ctx c).priv = .u ∨ (s.ctx c).mie1 = true) →
    let t := s.exception c cause tval
    let k := s.ctx c
    t.ctx c = { k with
        mepc := k.pc, mcause := BitVec.ofNat 64 cause, mtval := tval, mpp := k.priv, mpie := k.mie1, mie1 := false, priv := .m, resv := none, pc := BitVec.ofNat 64 ((s.tile c.tile).mtvec.toNat / 4 * 4), st := .ready, stall := .none }
    ∧ SameCtxs s t c ∧ SameMem s t ∧ t.regs = s.regs

/-- EBREAK, ILLEGAL_INSTRUCTION and an ECALL of the monitor complete by their exceptions (R12, R65). EBREAK's mtval is free between
0 and the pc (log 70). -/
def Obligations.TrapInstructions : Prop :=
  ∀ (c : CtxRef) (s s' : State),
    (∀ sz, Issues s c (isz sz) s' → ∃ v n, (v = 0 ∨ v = (s'.ctx c).pc)
        ∧ exec (.ebreak c sz) s = .next (({ s' with free := n } : State).exception c 3 v))
    ∧ (∀ bits len, Issues s c (ilen len) s' →
        exec (.illegalInstruction c bits len) s = .next (s'.exception c 2 bits))
    ∧ (Issues s c 4 s' → (s'.ctx c).priv = .m → exec (.integerInstruction c .ecall .four) s = .next (s'.exception c 11 0))

/-- INTERRUPT, MRET, WFI and TIMER_INTERRUPT complete (R64 to R67, R132), each in all its forms. MRET in U-mode and WFI beside an armed
wait are the model's readings (logs 17 and 20). -/
def Obligations.InterruptAndReturn : Prop :=
  ∀ (c : CtxRef) (s s' : State),
    (∀ cause, s.betweenInstrs c = true → (s.ctx c).nextCause = some cause →
      ∃ t, exec (.interrupt c) s = .next t ∧ (t.ctx c).mepc = (s.ctx c).pc ∧ (t.ctx c).mcause = BitVec.ofNat 64 (cause + 2 ^ 63)
        ∧ (t.ctx c).priv = .m ∧ (t.ctx c).mpp = (s.ctx c).priv ∧ (t.ctx c).mpie = (s.ctx c).mie1 ∧ (t.ctx c).mie1 = false
        ∧ (t.ctx c).st = .ready ∧ (t.ctx c).x = (s.ctx c).x
        ∧ (t.ctx c).pc = BitVec.ofNat 64 ((s.tile c.tile).mtvec.toNat / 4 * 4)
            + (if (s.tile c.tile).mtvec.toNat % 4 = 1 then BitVec.ofNat 64 (4 * cause) else 0))
    ∧ (s.betweenInstrs c = false ∨ (s.ctx c).nextCause = none → exec (.interrupt c) s = .next s)
    ∧ (Issues s c 4 s' → (s'.ctx c).priv = .u → exec (.mret c) s = .next (s'.exception c 2 0x30200073))
    ∧ (Issues s c 4 s' → (s'.ctx c).priv = .m → (s'.ctx c).inIrq = true →
        (Word.bit (s'.ctx c).mdirq 1 = false → exec (.mret c) s = .next ((s'.endIrq c).modCtx c fun k =>
          { k with pc := k.mepc, priv := k.mpp, mie1 := k.mpie, mpie := true, mpp := .u, instret := k.instret + 1 }))
        ∧ (Word.bit (s'.ctx c).mdirq 1 = true → exec (.mret c) s = .next ((((s'.endIrq c).unbind c).modCtx c fun k =>
          { k with st := .parked, stall := .none, resv := none, wait := none, pc := k.pc + 4, instret := k.instret + 1 }).progress c.tile)))
    ∧ (Issues s c 4 s' → (s'.ctx c).priv = .m → (s'.ctx c).inIrq = false →
        exec (.mret c) s = .next (s'.modCtx c fun k =>
          { k with pc := k.mepc, priv := k.mpp, mie1 := k.mpie, mpie := true, mpp := .u, instret := k.instret + 1 }))
    ∧ (Issues s c 4 s' → exec (.wfi c) s = .next (s'.modCtx c fun k => { k.retire 4 with
        st := if k.mip.toNat &&& k.mie.toNat = 0 ∨ k.wait.any (fun w => !w.armed) = true then .waiting else .ready }))
    ∧ (s.computeOn = true → (s.ctx c).mtimecmp.toNat ≤ s.now → exec (.timerInterrupt c) s = .next (s.pend c 21)
        ∧ Word.bit ((s.pend c 21).ctx c).mip 21 = true)
    ∧ (s.computeOn = false ∨ s.now < (s.ctx c).mtimecmp.toNat → exec (.timerInterrupt c) s = .next s)

/-- The fences retire (R47, R49) and leave registers, memory and the other contexts alone; until then they stall. -/
def Obligations.FencesComplete : Prop :=
  ∀ (c : CtxRef) (s s' : State), Issues s c 4 s' →
    (∀ pred succ, succ ≠ 0 → (s'.tile c.tile).memq.any (fun o => o.ctx == c.ctx && o.inSet pred) = true →
      exec (.fence c pred succ) s = .next (s'.stallRetry c))
    ∧ (∀ rs1 rs2 : XReg, rs2 ≠ 0 → (∃ i, i < 5 ∧ rs1.val.testBit i = true ∧ s'.classPending c i = true) →
      exec (.fenceE c { rs2 := rs2, rs1 := rs1, rd := 0 }) s = .next (s'.stallRetry c))
    ∧ (s'.enginesDrained c = false → exec (.fenceD c { rs2 := 0, rs1 := 0, rd := 0 }) s = .next (s'.stallRetry c))
    ∧ (∀ pred succ, succ = 0 ∨ (s'.tile c.tile).memq.any (fun o => o.ctx == c.ctx && o.inSet pred) = false →
      ∃ t, exec (.fence c pred succ) s = .next t ∧ t.ctx c = (s'.ctx c).retire 4 ∧ SameCtxs s' t c ∧ SameMem s' t ∧ t.regs = s'.regs)
    ∧ (∀ rs1 rs2 : XReg, rs2 = 0 ∨ (∀ i, i < 5 → rs1.val.testBit i = true → s'.classPending c i = false) →
      ∃ t, exec (.fenceE c { rs2 := rs2, rs1 := rs1, rd := 0 }) s = .next t
        ∧ t.ctx c = (s'.ctx c).retire 4 ∧ SameCtxs s' t c ∧ SameMem s' t)
    ∧ (s'.enginesDrained c = true →
      ∃ t, exec (.fenceD c { rs2 := 0, rs1 := 0, rd := 0 }) s = .next t
        ∧ t.ctx c = (s'.ctx c).retire 4 ∧ SameCtxs s' t c ∧ SameMem s' t)

/-- The four monitor calls complete (R69), each in all its forms. The order of RANGE's checks is the model's (log 83); x11 beside a
status other than 0 is a free value (log 4). -/
def Obligations.MonitorCalls : Prop :=
  ∀ (c : CtxRef) (s s' : State), Issues s c 4 s' → (s.ctx c).priv = .u →
    let a0 := (s'.getX c 10).toNat
    let va := (s'.getX c 11).toNat
    let len := (s'.getX c 12).toNat
    let j := s'.jslot c.tile
    let bad := fun (i : Instr) (status : Nat) => ∃ v n, exec i s
      = .next (({ s' with free := n } : State).modCtx c fun k => k.callDone status v)
    (∀ k status v, (Ctx.callDone k status v).getX 10 = BitVec.ofNat 64 status ∧ (Ctx.callDone k status v).getX 11 = v
        ∧ (Ctx.callDone k status v).pc = k.pc + 4 ∧ ∀ r : XReg, r ≠ 10 → r ≠ 11 → (Ctx.callDone k status v).getX r = k.getX r)
    ∧ ((s.getX c 17).toNat = 0 → exec (.version c) s = .next (s'.modCtx c fun k => k.callDone 0 1))
    ∧ ((s.getX c 17).toNat = 3 →
        (a0 ≤ 4095 → exec (.affwait c) s
          = .next ((s'.modReg (.quad (quadOfTile c.tile) .dlrcfg) (fun w => Word.setBits w 0 12 a0)).modCtx c fun k =>
              k.callDone 0 (BitVec.ofNat 64 (Word.bits (s'.quadReg (quadOfTile c.tile) .dlrcfg) 0 12))))
        ∧ (4095 < a0 → bad (.affwait c) 2))
    ∧ ((s.getX c 17).toNat = 2 → ∃ u : State, exec (.ecallTlbFlush c) s = .next (u.modCtx c fun k => k.callDone 0 0) ∧ u.ctx c = s'.ctx c ∧ u.mem = s'.mem
        ∧ ∀ t ∈ s'.partTiles (s'.job j).dies, ∀ e ∈ (u.tile t).tlb, e.slot ≠ j)
    ∧ ((s.getX c 17).toNat = 1 →
        let busy := s'.stacks.any (fun k => (Tab.find? s'.ranges k).isSome)
        let formed := a0 < 2 ^ 19 ∧ va % 128 = 0 ∧ len % 128 = 0
        let runs := s'.rangeRuns c.tile (a0 % 4 == 1 || a0 % 4 == 2) va len
        let waysOk := s'.stacks.any (fun k => bitsOf a0 3 16 &&& s'.waysOf k j != bitsOf a0 3 16) = false
        (busy = true → exec (.range c) s = .next s')
        ∧ (busy = false → ¬formed → bad (.range c) 2)
        ∧ (busy = false → formed → runs = none → bad (.range c) 3)
        ∧ (busy = false → formed → runs.isSome = true → ¬waysOk → bad (.range c) 4)
        ∧ (∀ l, busy = false → formed → runs = some l → waysOk →
            let r := l.foldl (fun a (x : Nat × Nat) => State.rangeRun a j a0 x.1 x.2) (s', 0)
            exec (.range c) s = .next (r.1.modCtx c fun k => k.callDone 0 (BitVec.ofNat 64 r.2))))

/-- The rows MTIMECMP and MJTLBINV complete in M-mode (R63, R64). -/
def Obligations.TimerAndTlbCsrs : Prop :=
  ∀ (c : CtxRef) (s s' : State) (rd rs : XReg), Issues s c 4 s' → (s'.ctx c).priv = .m →
    (∃ t, exec (.mtimecmp c .rw rd (.reg rs)) s = .next t ∧ (t.ctx c).mtimecmp = s'.getX c rs
        ∧ (rd ≠ 0 → t.getX c rd = (s'.ctx c).mtimecmp) ∧ (Word.bit (t.ctx c).mip 21 = decide ((s'.getX c rs).toNat ≤ s'.now))
        ∧ (t.ctx c).pc = (s'.ctx c).pc + 4 ∧ SameCtxs s' t c ∧ SameMem s' t)
    ∧ (∃ t, exec (.mjtlbinv c .rw rd (.reg rs)) s = .next t ∧ (∀ e ∈ (t.tile c.tile).tlb, e.slot ≠ s'.jslot c.tile)
        ∧ (rd ≠ 0 → t.getX c rd = 0) ∧ (t.ctx c).pc = (s'.ctx c).pc + 4 ∧ SameCtxs s' t c ∧ SameMem s' t)

/-- VBIND, VBIND.T and VUNBIND complete (R34 to R36). -/
def Obligations.VectorBinding : Prop :=
  ∀ (c : CtxRef) (s s' : State) (rd : XReg), Issues s c 4 s' →
    let b : RFields := { rs2 := 0, rs1 := 0, rd := rd }
    (∀ v, (s'.ctx c).vctx = none → s'.freeVctx c.tile = some v →
      exec (.vbind c b) s = .next (s'.bindTo c v rd) ∧ exec (.vbindT c b) s = .next (s'.bindTo c v rd)
      ∧ ((s'.bindTo c v rd).ctx c).vctx = some v ∧ (s'.bindTo c v rd).vctx c.tile v = { VCtx.reset with owner := some c.ctx }
      ∧ (rd ≠ 0 → (s'.bindTo c v rd).getX c rd = BitVec.ofNat 64 v.val) ∧ (s'.vctx c.tile v).owner = none)
    ∧ ((s'.ctx c).vctx = none → s'.freeVctx c.tile = none →
      (∃ u, exec (.vbind c b) s = .next u ∧ (u.ctx c).st = .binding ∧ (u.tile c.tile).bindq = (s'.tile c.tile).bindq ++ [{ ctx := c.ctx, rd := rd }]
        ∧ (u.ctx c).pc = (s'.ctx c).pc ∧ ∀ r, u.getX c r = s'.getX c r)
      ∧ exec (.vbindT c b) s = .next (s'.modCtx c fun k => (k.setX rd Word.ones).retire 4))
    ∧ ((s'.ctx c).vctx.isSome = true → exec (.vbind c b) s = .next (s'.exception c 2 (BitVec.ofNat 64 (rWord 0x0B 7 0 b)))
      ∧ exec (.vbindT c b) s = .next (s'.exception c 2 (BitVec.ofNat 64 (rWord 0x0B 7 1 b))))
    ∧ (s'.bindingDrained c = false → exec (.vunbind c { rs2 := 0, rs1 := 0, rd := 0 }) s = .next (s'.stallRetry c))
    ∧ (s'.bindingDrained c = true → exec (.vunbind c { rs2 := 0, rs1 := 0, rd := 0 }) s = .next ((s'.unbind c).retire c))
    ∧ (∀ v, (s'.ctx c).vctx = some v → (s'.tile c.tile).bindq = [] →
      ((s'.unbind c).ctx c).vctx = none ∧ ((s'.unbind c).vctx c.tile v).owner = none)

/-- MEMORY_ACCESS_PERFORMED for a store (R33, R46): what it stores to, and that every other byte stays. -/
def Obligations.StorePerformed : Prop :=
  (∀ (t : TileId) (seq : Nat) (hit : Bool) (e : Ecc) (o : MemOp) (s : State),
    (s.tile t).memq.find? (fun q => q.seq == seq) = some o → s.computeOn = true → o.sent = false → s.accessReady t o = true →
    o.kind = .store → o.place = .dram ∨ o.place = .sram →
    (o.pa + widthBytes o.width ≤ s.dramTop ∨ ∃ h off, s.target o.pa = .sram h off ∧ off + widthBytes o.width ≤ 0xC00000
      ∧ (∀ j, j < widthBytes o.width → s.slotAt h (off + j) = none) ∧ (s.tile h).streams = []) →
    ∃ u, exec (.memoryAccessPerformed t seq hit e) s = .next u
      ∧ (∀ a, u.byte a = if o.pa ≤ a ∧ a < o.pa + widthBytes o.width then (leBytes 8 o.data.toNat).getD (a - o.pa) 0 else s.byte a)
      ∧ (u.tile t).memq = (s.tile t).memq.filter (fun q => q.seq != seq)
      ∧ (∀ c r, u.getX c r = s.getX c r))
  ∧ ∀ (t : TileId) (seq : Nat) (hit : Bool) (e : Ecc) (s : State),
    ((s.tile t).memq.find? (fun q => q.seq == seq) = none
      ∨ ∃ o, (s.tile t).memq.find? (fun q => q.seq == seq) = some o ∧ (s.computeOn = false ∨ o.sent = true ∨ s.accessReady t o = false)) →
    exec (.memoryAccessPerformed t seq hit e) s = .next s

/-- MEMORY_ACCESS_PERFORMED for a load (R33, R46, R47, R347). -/
def Obligations.LoadPerformed : Prop :=
  ∀ (t : TileId) (seq : Nat) (o : MemOp) (rd : XReg) (uns : Bool) (e : Ecc) (s : State),
    (s.tile t).memq.find? (fun q => q.seq == seq) = some o → s.computeOn = true → o.sent = false → s.accessReady t o = true →
    o.kind = .load rd uns → (s.ctx { tile := t, ctx := o.ctx }).stall ≠ .retry →
    let c : CtxRef := { tile := t, ctx := o.ctx }
    (o.place = .dram ∨ o.place = .sram → s.poisoned o.pa (widthBytes o.width) = false → e ≠ .uncorrectable →
      (∀ x ∈ s.latent, (blocksOf o.pa (widthBytes o.width)).contains x.1 = true → x.2 ≠ .uncorrectable) →
      ∃ u, exec (.memoryAccessPerformed t seq false e) s = .next u
        ∧ u.ctx c = ((s.ctx c).setX rd (loadExtend o.width uns (s.num o.pa (widthBytes o.width)))).wake
        ∧ (∀ d r, d ≠ c → u.getX d r = s.getX d r) ∧ SameMem s u
        ∧ (u.tile t).memq = (s.tile t).memq.filter (fun q => q.seq != seq))
    ∧ (∀ l, o.place = .dram → Tab.find? (s.tile t).dcache (o.pa / 64) = some l →
      ∃ u, exec (.memoryAccessPerformed t seq true e) s = .next u
        ∧ u.ctx c = ((s.ctx c).setX rd (loadExtend o.width uns (leAt l (o.pa % 64) (widthBytes o.width)))).wake ∧ SameMem s u)

/-! ### Tokens and the token unit (03_tokens_meld_pots, 10_signals_barriers) -/

/-- The sends of a context complete by entering the token unit's queue (R104 to R106, R310, R311, R318). -/
def Obligations.SendsAreQueued : Prop :=
  ∀ (c : CtxRef) (s s' : State),
    let op := fun (imm : BitVec 32) => BitVec.ofNat 6 (bitsOf imm.toNat 0 6)
    let suit := fun (imm : BitVec 32) => (Fin.ofNat 4 (bitsOf imm.toNat 6 2) : Suit)
    let plen := fun (imm : BitVec 32) => bitsOf imm.toNat 8 5
    let arg := fun (imm : BitVec 32) => if imm.toNat.testBit 19 then Word.bits (s'.ctx c).tkarg 0 32 else bitsOf imm.toNat 20 12
    let hdr := fun (rs1 : XReg) (imm : BitVec 32) =>
      { s'.tokenTo c.tile (s'.getX c rs1).toNat (op imm) (suit imm) (arg imm) [] with plen := BitVec.ofNat 5 (plen imm) }
    let rowsOk := fun (rs2 : XReg) (imm : BitVec 32) => bitsOf imm.toNat 14 5 + ceilDiv (plen imm) 4 ≤ 32 ∧ isT rs2.val = true
    (∀ rs1 rs2 far h s1, Issues s c 4 s' → s'.tokRoom c.tile = true → s'.released c (s'.tile c.tile).seq = true →
        s'.readDesc c (s'.getX c rs1).toNat 16 16 far = (.ok h, s1) →
        (s1.sendOk c (tokOf h []).op (tokOf h []).suit = false →
          exec (.token c { rs2 := rs2, rs1 := rs1, rd := 0 } far) s
            = .next (s1.exception c 2 (BitVec.ofNat 64 (rWord 0x7B 1 0 { rs2 := rs2, rs1 := rs1, rd := 0 }))))
        ∧ (∀ ps s2, s1.sendOk c (tokOf h []).op (tokOf h []).suit = true →
          s1.rowPieces c.tile (s1.ctx c).priv (s'.getX c rs1).toNat (16 + 16 * (tokOf h []).plen.toNat) .read = (.ok ps, s2) →
          exec (.token c { rs2 := rs2, rs1 := rs1, rd := 0 } far) s = .next ((s2.queueSend c.tile (some c.ctx)
            (.token (tokOf h []) (.image ps (if rs2 = 0 then none else some ((s2.getX c rs2).toNat % 2 ^ 44))))).retire c)))
    ∧ (∀ rs1 rs2 far, Issues s c 4 s' → s'.tokRoom c.tile = false ∨ s'.released c (s'.tile c.tile).seq = false →
        exec (.token c { rs2 := rs2, rs1 := rs1, rd := 0 } far) s = .next (s'.stallRetry c))
    ∧ (∀ rs1 rs2 imm, Issues s c 8 s' →
        let run := exec (.tokenI c { rd := 0, rs1 := rs1, rs2 := rs2, imm := imm }) s
        let ill := Host.Outcome.next (s'.exception c 2 (BitVec.ofNat 64 (lWord 1 0 { rd := 0, rs1 := rs1, rs2 := rs2, imm := imm })))
        (s'.sendOk c (op imm) (suit imm) = false → run = ill)
        ∧ (s'.sendOk c (op imm) (suit imm) = true → imm.toNat.testBit 13 = false →
            (s'.tokRoom c.tile = false → run = .next (s'.stallRetry c))
            ∧ (s'.tokRoom c.tile = true → plen imm = 0 →
                run = .next ((s'.queueSend c.tile (some c.ctx) (.token (hdr rs1 imm) (.bytes []))).retire c 8))
            ∧ (s'.tokRoom c.tile = true → plen imm ≠ 0 → (s'.getX c rs2).toNat % 16 ≠ 0 →
                run = .next (s'.exception c 4 (s'.getX c rs2)))
            ∧ (∀ ps s2, s'.tokRoom c.tile = true → plen imm ≠ 0 → (s'.getX c rs2).toNat % 16 = 0 →
                s'.rowPieces c.tile (s'.ctx c).priv (s'.getX c rs2).toNat (16 * plen imm) .read = (.ok ps, s2) →
                run = .next ((s2.queueSend c.tile (some c.ctx) (.token (hdr rs1 imm) (.mem ps))).retire c 8)))
        ∧ (s'.sendOk c (op imm) (suit imm) = true → imm.toNat.testBit 13 = true →
            (¬rowsOk rs2 imm ∨ (s'.ctx c).vctx = none → run = ill)
            ∧ (∀ v, rowsOk rs2 imm → (s'.ctx c).vctx = some v → s'.tokRoom c.tile = true →
                run = .next ((s'.queueSend c.tile (some c.ctx)
                  (.token (hdr rs1 imm) (.rows v rs2.val (bitsOf imm.toNat 14 5)))).retire c 8))
            ∧ (rowsOk rs2 imm → (s'.ctx c).vctx.isSome = true → s'.tokRoom c.tile = false → run = .next (s'.stallRetry c))))
    ∧ (∀ rs1 rs2, Issues s c 4 s' → s'.tokRoom c.tile = true →
        exec (.signal c { rs2 := rs2, rs1 := rs1, rd := 1 }) s
            = .next (((s'.bump c.tile .sigout).queueSend c.tile (some c.ctx) (.signal (s'.vidOf c rs1) (s'.getX c rs2))).retire c)
        ∧ exec (.signal c { rs2 := rs2, rs1 := rs1, rd := 0 }) s
            = .next ((((s'.audit c (s'.vidOf c rs1) (signed 64 (s'.getX c rs2).toNat)).bump c.tile .sigout).queueSend c.tile (some c.ctx)
                (.signal (s'.vidOf c rs1) (s'.getX c rs2))).retire c)
        ∧ exec (.signalR c { rs2 := rs2, rs1 := rs1, rd := 0 }) s
            = .next (((s'.bump c.tile .sigout).queueSend c.tile (some c.ctx)
                (if BitVec.ofNat 14 (Word.bits (s'.getX c rs1) 16 14) = s'.devId then .signal (s'.vidOf c rs1) (s'.getX c rs2)
                 else .sigr (BitVec.ofNat 14 (Word.bits (s'.getX c rs1) 16 14)) (s'.vidOf c rs1) (s'.getX c rs2)
                   (s'.signalSuit c))).retire c))
    ∧ (∀ rs1 rs2 rd, Issues s c 4 s' →
        let run := exec (.barrive c { rs2 := rs2, rs1 := rs1, rd := rd }) s
        ((s'.ctx c).armed = true →
          run = .next (s'.exception c 2 (BitVec.ofNat 64 (rWord 0x7B 4 0 { rs2 := rs2, rs1 := rs1, rd := rd }))))
        ∧ ((s'.ctx c).armed = false → s'.tokRoom c.tile = true →
          run = .next (((s'.bump c.tile .sigout).queueSend c.tile (some c.ctx)
                (.barrive (s'.vidOf c rs1) (Word.bit (s'.getX c rs2) 0) rd)).stallResult c))
        ∧ ((s'.ctx c).armed = false → s'.tokRoom c.tile = false → run = .next (s'.stallRetry c)))
    ∧ (∀ rs1 rs2, Issues s c 4 s' → s'.tokRoom c.tile = false →
        (∀ rd : XReg, rd.val < 2 → exec (.signal c { rs2 := rs2, rs1 := rs1, rd := rd }) s = .next (s'.stallRetry c))
        ∧ exec (.signalR c { rs2 := rs2, rs1 := rs1, rd := 0 }) s = .next (s'.stallRetry c))

/-- XFER_PUT, XFER_GET and XFER_PUTS complete (R324, R325), each for a descriptor of its operation. -/
def Obligations.TransfersAreQueued : Prop :=
  ∀ (c : CtxRef) (s s' : State) (rs1 : XReg) (far : List Byte) (op : Nat), Issues s c 4 s' → op < 3 →
    let f : RFields := { rs2 := 0, rs1 := rs1, rd := 0 }
    let run := exec (if op = 0 then .xferPut c f far else if op = 1 then .xferGet c f far else .xferPuts c f far) s
    (s'.tokRoom c.tile = false ∨ 64 ≤ (s'.tile c.tile).xfers.length ∨ s'.allPerformed c = false → run = .next (s'.stallRetry c))
    ∧ ∀ b s1, s'.tokRoom c.tile = true → (s'.tile c.tile).xfers.length < 64 → s'.allPerformed c = true →
      s'.readDesc c (s'.getX c rs1).toNat 64 64 far = (.ok b, s1) →
      (xferOk b (s1.spadesOk c) = false →
        run = .next ((s1.raiseTile c.tile .xferDesc { ctx := some c.ctx, addr := (s1.getX c rs1).toNat }).retire c))
      ∧ (∀ n, xferOk b (s1.spadesOk c) = true → bitsOf (leAt b 0 8) 0 2 = op → s1.freeXfer c.tile = some n →
        let x := xferOf b n c.ctx (s1.tile c.tile).seq (s1.ctx c).priv
        run = .next ((((s1.addXfer c.tile x).bumpLo (.tile c.tile .xfers)).queueSend c.tile (some c.ctx) (.xfer n)).retire c))

/-- The frame of the queued signal operations. -/
def Obligations.QueuingFrame : Prop :=
  ∀ (c : CtxRef) (s s' t : State) (rs1 rs2 rd : XReg) (i : Instr), Issues s c 4 s' → s'.tokRoom c.tile = true →
    (i = .signal c { rs2 := rs2, rs1 := rs1, rd := 1 } ∨ i = .signalR c { rs2 := rs2, rs1 := rs1, rd := 0 }
      ∨ (i = .barrive c { rs2 := rs2, rs1 := rs1, rd := rd } ∧ (s'.ctx c).armed = false)) →
    exec i s = .next t →
      (∀ d r, t.getX d r = s'.getX d r) ∧ SameCtxs s' t c ∧ SameMem s' t ∧ (∀ r, r ≠ .tile c.tile .sigout → t.reg r = s'.reg r)
      ∧ (∀ u, (t.tile u).slots = (s'.tile u).slots ∧ (t.tile u).vctxs = (s'.tile u).vctxs ∧ (t.tile u).memq = (s'.tile u).memq)
      ∧ (∀ u, u ≠ c.tile → (t.tile u).tokq = (s'.tile u).tokq)

/-- TOKEN_UNIT_SEND completes for every kind of send (R71, R106, R310, R311, R318, R325). -/
def Obligations.TokenUnitSends : Prop :=
  ∀ (t : TileId) (i : Nat) (far : List Byte) (s : State),
    ((s.tile t).tokq[i]? = none → exec (.tokenUnitSend t i far) s = .next s)
    ∧ ∀ q, (s.tile t).tokq[i]? = some q →
      (s.computeOn = false ∨ s.stopping t = true ∨ s.sendReady t q = false → exec (.tokenUnitSend t i far) s = .next s)
      ∧ (s.computeOn = true → s.stopping t = false → s.sendReady t q = true →
        let s1 := s.modTile t (fun T => { T with tokq := T.tokq.eraseIdx i })
        let ident := fun (k : Token) => { k with jslot := s1.jslot t, epoch := s1.tileEpoch t, xid := 0, xseq := 0, shard := none }
        (∀ vid inc, q.kind = .signal vid inc →
            exec (.tokenUnitSend t i far) s = .next ((s1.performSignal t q.ctx vid inc).progress t))
        ∧ (∀ dev vid inc suit, q.kind = .sigr dev vid inc suit →
            exec (.tokenUnitSend t i far) s = .next ((s1.inject t.die (s1.sigrPacket t dev vid inc suit)).progress t))
        ∧ (∀ hdr l, q.kind = .token hdr (.bytes l) →
            exec (.tokenUnitSend t i far) s = .next ((s1.launch t q.ctx (ident { hdr with payload := l })).progress t))
        ∧ (∀ hdr v x row, q.kind = .token hdr (.rows v x row) →
            exec (.tokenUnitSend t i far) s = .next ((s1.launch t q.ctx (ident { hdr with
              payload := (s1.vctx t v).file.bytes (x * 2048 + row * 64) (16 * hdr.plen.toNat) })).progress t))
        ∧ (∀ hdr ps l u, q.kind = .token hdr (.mem ps) →
            s1.readRows t { ctx := q.ctx, seq := q.seq, suit := hdr.suit } [ps] far = (.ok l, u) →
            exec (.tokenUnitSend t i far) s = .next ((u.launch t q.ctx { hdr with
              payload := l.headD [], jslot := u.jslot t, epoch := u.tileEpoch t, xid := 0, xseq := 0, shard := none }).progress t))
        ∧ (∀ hdr ps dest, q.kind = .token hdr (.image ps dest) →
            exec (.tokenUnitSend t i far) s = .next ((s1.sendToken t q hdr (.image ps dest) far).progress t))
        ∧ (∀ vid sense rd c, q.kind = .barrive vid sense rd → q.ctx = some c →
            exec (.tokenUnitSend t i far) s = .next ((s1.barrive { tile := t, ctx := c } vid sense rd).progress t))
        ∧ (∀ n x, q.kind = .xfer n → (s.tile t).xfer? n = some x →
            exec (.tokenUnitSend t i far) s
              = .next (((if x.sent + 1 < xferN x then s else s1).sendXfer t x far).progress t)))

/-! ### The meld store (03_tokens_meld_pots) -/

/-- SET, ARRIVE, STAT and the value tokens complete (R82, R88, R89, R92), each with and without `hold`. That a STAT leaves N as it is is
the model's choice (log 86). -/
def Obligations.CountedTokensAbsorbed : Prop :=
  ∀ (t : TileId) (k : Token) (i : Nat) (e : Slot) (s : State) (c : Instr) (hold : Bool), Lands s t k → Passes s t k →
    (k.op = opSet ∧ c = .set t k hold ∨ k.op = opArrive ∧ c = .arrive t k hold ∨ k.op = opStat ∧ c = .stat t k hold
      ∨ k.op = opPotAdd ∧ c = .potAdd t k hold ∨ k.op = opPotAddSq ∧ c = .potAddsq t k hold
      ∨ k.op = opPotMax ∧ c = .potMax t k hold ∨ k.op = opPotMin ∧ c = .potMin t k hold) →
    let u := taking s t k
    let n := e.received + tokCount k
    let takes := fun (v : State) (e' : Slot) => exec c s = .next (((v.settle t i e' k.op).occupancy t).progress t)
    let faults := fun (r : Reason) => exec c s = .next (((u.meldFault t r k.slot k.op).occupancy t).progress t)
    let plain := e.ptr.isSome = true ∨ k.op = opSet ∨ k.op = opArrive ∨ k.op = opStat
    ((s.tile t).findSlot (.prog k.slot) = some (i, e) → e.st = .fired ∨ e.st = .running →
      exec c s = .next ((((u.bump t .kearly).toKitty t k true).occupancy t).progress t))
    ∧ (TakesNow s t k i e →
      (hold = true → plain → n < e.expected → takes u { e with backlog := [k] })
      ∧ (hold = false ∨ ¬plain ∨ e.expected ≤ n →
        (e.expected < n → faults .slotOvercount)
        ∧ (n ≤ e.expected →
          (k.op = opArrive → takes u { e with received := n })
          ∧ (k.op = opSet → (e.setmask.testBit (k.arg.toNat % 4) = true → faults .slotSetTwice)
            ∧ (e.setmask.testBit (k.arg.toNat % 4) = false → takes u { e with
                received := n, setmask := e.setmask + 2 ^ (k.arg.toNat % 4), opw := Tab.set e.opw (Fin.ofNat 4 (k.arg.toNat % 4)) (BitVec.ofNat 64 (leAt k.payload 0 8)) }))
          ∧ (k.op = opStat → (potKind e.desc ≠ 5 → faults .potMismatch)
            ∧ (potKind e.desc = 5 →
              let x := k.arg.toNat % 2 ^ 16
              (e.stats.any (fun p => p.1 == x) = true ∨ e.expected ≤ x → faults .statIndex)
              ∧ (e.stats.any (fun p => p.1 == x) = false → x < e.expected →
                takes (match e.ptr with | some o => u.write (sramPa t (o + x * 16 * k.plen.toNat)) k.payload | none => u)
                  { e with received := n, stats := e.stats ++ [(x, k.payload)] })))
          ∧ (k.op ≠ opArrive → k.op ≠ opSet → k.op ≠ opStat →
            (potKind k.arg.toNat ≠ opKind k.op.toNat ∨ e.desc ≠ k.arg.toNat → faults .potMismatch)
            ∧ (potKind k.arg.toNat = opKind k.op.toNat → e.desc = k.arg.toNat →
              let r := u.addPot t e k.payload
              takes r.1 { r.2 with received := n } ∧ r.2.n = min (2 ^ 40 - 1) (e.n + 1) ∧ r.2.st = .armed ∧ r.2.received = e.received)))))
    ∧ (∀ (v : State) (e' : Slot), e'.name = .prog k.slot → e'.st = .armed →
      let w := ((v.settle t i e' k.op).occupancy t).progress t
      (e'.received ≠ e'.expected → Tab.find? (w.tile t).slots i = some e')
      ∧ (e'.received = e'.expected → (v.tile t).hand.length < 1024 → (w.tile t).hand = (v.tile t).hand ++ [{ idx := i, suit := e'.suit }]
        ∧ ∃ e'', Tab.find? (w.tile t).slots i = some e'' ∧ e''.st = .fired ∧ e''.received = e'.expected))

/-- The pot's row after a value token (R87), the frame of its absorption, and the allocation that keeps pot areas apart. -/
def Obligations.PotArithmetic : Prop :=
  ∀ (t : TileId) (i o : Nat) (e : Slot) (payload : List Byte) (s : State), e.ptr = some o → s.latent = [] → s.poison = [] → 1 ≤ potKind e.desc ∧ potKind e.desc ≤ 4 →
    o + potArea e.desc e.expected ≤ 0xC00000 → (∀ j, j < potArea e.desc e.expected → s.slotAt t (o + j) = none) →
    let r : State × Slot := s.addPot t e payload
    let row : List Int := ((s.potS1 t e).zip (potInputs e.desc payload)).map (fun p => potCombine e.desc p.1 p.2.s)
    (∀ (j : Nat) (a : Int) (x : PotIn), (s.potS1 t e)[j]? = some a → (potInputs e.desc payload)[j]? = some x →
      (row[j]? : Option Int) = some (potCombine e.desc a x.s)
      ∧ (potKind e.desc ≤ 2 → potCombine e.desc a x.s % 2 ^ potWidth e.desc = (a + x.s) % 2 ^ potWidth e.desc)
      ∧ (potKind e.desc = 3 → potCombine e.desc a x.s = max a x.s) ∧ (potKind e.desc = 4 → potCombine e.desc a x.s = min a x.s))
    ∧ r.1.potS1 t e = row
    ∧ (∀ c q, r.1.getX c q = s.getX c q)
    ∧ (∀ pa, (∀ off, s.target pa = .sram t off → s.slotAt t off ≠ some i) →
        (pa < sramPa t o ∨ sramPa t o + potArea e.desc e.expected ≤ pa) → (r.1.setSlot t i r.2).byte pa = s.byte pa)
    ∧ (∀ n b, s.potAlloc t n = some b → (∀ q ∈ (s.tile t).potRows, s.potBase t ≤ q.1) →
        s.potBase t ≤ b ∧ b + n ≤ s.potBase t + s.potSize t
          ∧ ∀ q ∈ (s.tile t).potRows, 0 < n → 0 < q.2 → b + n ≤ q.1 ∨ q.1 + q.2 ≤ b)

/-- SPAWN completes (R74, R82, R83, R93, R95). The request of the task-table entry that follows (R127) reads memory: the premise that no
bit error and no poison stands there keeps a job stop from writing save records beside it. -/
def Obligations.SpawnArms : Prop :=
  ∀ (t : TileId) (k : Token) (i : Nat) (e : Slot) (s : State), Lands s t k → Passes s t k → k.op = opSpawn →
    let faults := fun (r : Reason) => exec (.spawn t k) s = .next ((((taking s t k).meldFault t r k.slot k.op).occupancy t).progress t)
    ((s.tile t).findSlot (.prog k.slot) = some (i, e) → e.st = .armed → faults .slotSpawnTwice)
    ∧ ((((∀ x, (s.tile t).findSlot (.prog k.slot) = some x → x.2.st = .retired) ∧ (s.tile t).evicted (.prog k.slot) = false
          ∧ s.entryFor t (.prog k.slot) = some (i, e))
        ∨ ((s.tile t).findSlot (.prog k.slot) = some (i, e) ∧ e.st = .preArmed ∧ e.backlog = [] ∧ e.desc = 0 ∧ e.ptr = none ∧ e.stats = [])) →
      e.cut = false → (potKind (spDesc k) = 5 → potElems (spDesc k) ≤ 32 ∧ spExpect k - e.received < s.cutDeg t) →
      (spExpect k < e.received → faults .slotOvercount)
      ∧ (e.received ≤ spExpect k → e.setmask &&& spMask k ≠ 0 → faults .slotSetTwice)
      ∧ (e.received ≤ spExpect k → e.setmask &&& spMask k = 0 → s.latent = [] → s.poison = [] →
        let armed : Slot := { e with
          st := .armed, expected := spExpect k, entry := spEntry k, suit := k.suit, setmask := e.setmask ||| spMask k, opw := (spWords k).foldl (fun t p => Tab.set t p.1 p.2) e.opw }
        (spDesc k = 0 → e.received < spExpect k → spExpect k - e.received < s.cutDeg t →
          ∃ u, exec (.spawn t k) s = .next u ∧ Tab.find? (u.tile t).slots i = some armed)
        ∧ (∀ v e', spDesc k ≠ 0 → (taking s t k).startPot t armed (spDesc k) = some (v, e') → e.received < spExpect k →
          spExpect k - e.received < s.cutDeg t →
          ∃ u, exec (.spawn t k) s = .next u ∧ Tab.find? (u.tile t).slots i = some e' ∧ e'.desc = spDesc k ∧ e'.ptr.isSome = true)
        ∧ (spDesc k = 0 → spExpect k = e.received → 0 < s.cutDeg t → (s.tile t).hand.length < 1024 →
          ∃ u e', exec (.spawn t k) s = .next u ∧ Tab.find? (u.tile t).slots i = some e' ∧ e'.st = .fired ∧ e'.entry = spEntry k)
        ∧ (spDesc k = 0 → s.cutDeg t ≤ spExpect k - e.received → 0 < s.cutDeg t →
          let n := min 64 (max 2 (ceilDiv (spExpect k - e.received) (s.cutDeg t)))
          ∃ u e', exec (.spawn t k) s = .next u ∧ Tab.find? (u.tile t).slots i = some e' ∧ e'.cut = true ∧ e'.km1 + 1 = n
            ∧ e'.expected = e.received + n ∧ e'.received = e.received ∧ e'.remain.length = n
            ∧ e'.remain.foldl (· + ·) 0 = spExpect k - e.received)))

/-- POT.MERGE, MERGE_ROW_READ_COMPLETE and KITTY_DRAIN complete (R98, R100, R101). -/
def Obligations.MergesAndKitty : Prop :=
  ∀ (t : TileId) (k : Token) (r : ShardRef) (i j : Nat) (e sh : Slot) (s : State),
    (k.op = opPotMerge → k.shard = some r → s.mesh.contains k = true → Lands s t { k with shard := none } → Passes s t k →
      ((s.tile t).findSlot (.prog k.slot) = some (i, e) → e.st = .armed →
        exec (.potMerge t k) s
          = .next ((((taking s t k).setSlot t i { e with merging := e.merging ++ [r] }).occupancy t).progress t))
      ∧ ((s.tile t).findSlot (.prog k.slot) = some (i, e) → e.st = .fired ∨ e.st = .running →
        exec (.potMerge t k) s = .next (((((taking s t k).bump t .kearly).toKitty t k true).occupancy t).progress t))
      ∧ (((s.tile t).findSlot (.prog k.slot) = none ∨ ((s.tile t).findSlot (.prog k.slot) = some (i, e) ∧ (e.st = .preArmed ∨ e.st = .retired))) →
        exec (.potMerge t k) s = .next (((((taking s t k).bump t .kdiv).toKitty t k false).occupancy t).progress t)))
    ∧ (let u := s.shardTile r.tile r.slot.toNat r.j.val
      (s.tile r.tile).findSlot (.prog r.slot) = some (i, e) → (s.tile u).findSlot (.shard r) = some (j, sh) →
      (¬(e.merging.contains r = true ∧ sh.st = .fired) → exec (.mergeRowReadComplete r) s = .next s)
      ∧ (sh.st = .fired → e.merging.contains r = true → e.st = .armed → u ≠ r.tile ∨ i ≠ j →
        let e' : Slot := { e with
            merging := eraseFirst (· == r) e.merging, n := min (2 ^ 40 - 1) (e.n + sh.n), m := boundAdd e.desc e.m sh.m, m2 := boundAdd e.desc e.m2 sh.m2, sat := e.sat || sh.sat, nan := e.nan || sh.nan, received := e.received + 1 }
        (e.received + 1 < e.expected →
          ∃ v, exec (.mergeRowReadComplete r) s = .next v ∧ Tab.find? (v.tile u).slots j = none
            ∧ Tab.find? (v.tile r.tile).slots i = some e')
        ∧ (e.received + 1 = e.expected → (s.tile r.tile).hand.length < 1024 →
          ∃ v e'', exec (.mergeRowReadComplete r) s = .next v ∧ Tab.find? (v.tile u).slots j = none
            ∧ Tab.find? (v.tile r.tile).slots i = some e'' ∧ e''.st = .fired ∧ e''.received = e.expected)))
    ∧ ((s.tile t).findSlot (.prog k.slot) = some (i, e) → e.st = .fired ∨ e.st = .running → ∀ victims,
      exec (.kittyDrain t (.prog k.slot) victims) s = .next s)
    ∧ (s.computeOn = true → s.tileExcl t = false → (s.tile t).folded = false →
      (TakesNow s t k i e → k.op = opArrive → k.shard = none → s.latent = [] → s.poison = [] →
        (∀ o, o < s.ksSize t → s.slotAt t (s.ksBase t + o) = none) →
        (s.tile t).kitty = [.token (.prog k.slot) k false] → e.received + k.arg.toNat < e.expected →
        ∃ v, exec (.kittyDrain t (.prog k.slot) []) s = .next v ∧ (v.tile t).kitty = []
          ∧ Tab.find? (v.tile t).slots i = some { e with received := e.received + k.arg.toNat })
      ∧ (∀ e', (s.tile t).findSlot e.name = none → s.entryFor t e.name = some (i, e') → e.ptr = none →
        (s.tile t).kitty = [.slot e []] →
        ∃ v, exec (.kittyDrain t e.name []) s = .next v ∧ (v.tile t).kitty = []
          ∧ Tab.find? (v.tile t).slots i = some { e with reloaded := true }))

/-! ### The dealer (04_dealer) -/

/-- DEAL and AFFINITY_WAIT_EXPIRY complete (R84, R121, R124). `s0` is the state with a far task-table entry taken up, `s1` the one in
which the entry is read. -/
def Obligations.DealStartsTask : Prop :=
  ∀ (home : TileId) (idx : Nat) (ctx : CtxId) (far : List Byte) (s : State),
    let s0 := s.fillEntry home idx far
    (∀ e t h, (s0.tile home).fired? idx = some e → (s0.tile home).hand.find? (fun h => h.idx == idx) = some h →
      s0.placeOf home e = some t →
      let ok := s0.entryAwaited home e = false ∧ s0.isIrq home e = false ∧ s0.takesSuit (quadOfTile home) e.suit = true
        ∧ s0.restoreFirst t e.suit = false ∧ (s0.parked t).contains ctx = true
      let q := quadOfTile home
      let c : CtxRef := { tile := t, ctx := ctx }
      let s1 := (((((s0.dispatched q e.suit).histAdd q e.suit (s0.waited home e)).bump t .ddeals).countAff home e t).takeItem home h)
      (¬ok → exec (.deal home idx ctx far) s = .next s0)
      ∧ (∀ x s2, ok → s1.taskEntry t e far = (.error x, s2) →
        exec (.deal home idx ctx far) s = .next (s2.raiseEngine t (some ctx) x { engine := some .dealer }))
      ∧ (∀ w s2, ok → s1.taskEntry t e far = (.ok w, s2) → w < 2 →
        exec (.deal home idx ctx far) s = .next (s2.raiseTile home .taskEntry { addr := e.name20 }))
      ∧ (∀ w s2, ok → s1.taskEntry t e far = (.ok w, s2) → 2 ≤ w →
        ∃ u, exec (.deal home idx ctx far) s = .next u
          ∧ Tab.find? (u.tile home).slots idx = some { e with st := .running, last := t }
          ∧ (let k := u.ctx c
            k.st = .ready ∧ k.priv = .u ∧ k.pc = BitVec.ofNat 64 (w / 2 * 2) ∧ k.suit = e.suit ∧ k.taskn = BitVec.ofNat 64 e.n
              ∧ k.tasksrc = BitVec.ofNat 64 (tileNum home + e.name20 * 2 ^ 10 + e.suit.val * 2 ^ 30 + 2 ^ 32)
              ∧ (∀ i : Fin 4, k.getX (Fin.ofNat 32 (10 + i.val)) = Tab.get 0 e.opw i) ∧ k.getX 14 = BitVec.ofNat 64 e.name20
              ∧ k.getX 15 = (match e.ptr with | some o => BitVec.ofNat 64 o | none => Word.ones)
              ∧ (∀ r : XReg, r.val < 10 ∨ 15 < r.val → k.getX r = 0))))
    ∧ (∀ e, (s.tile home).fired? idx = some e →
      let due := (s.tile home).hand.any (fun h => h.idx == idx) = true ∧ Word.bits (s.quadReg (quadOfTile home) .dlrcfg) 0 12 ≤ s.waited home e
      (due → ∃ u, exec (.affinityWaitExpiry home idx) s = .next u ∧ Tab.find? (u.tile home).slots idx = some { e with waited := true }
        ∧ (u.tile home).hand = (s.tile home).hand)
      ∧ (¬due → exec (.affinityWaitExpiry home idx) s = .next s))

/-- TEND completes (R129). The kitty holds no token for the slot, so that nothing takes its entry up at once. -/
def Obligations.TendEndsTask : Prop :=
  ∀ (c : CtxRef) (s s' : State), Issues s c 4 s' →
    let b : RFields := { rs2 := 0, rs1 := 0, rd := 0 }
    ((s'.ctx c).inTask = false ∨ (s'.ctx c).inIrq = true →
      exec (.tend c b) s = .next (s'.exception c 2 (BitVec.ofNat 64 (rWord 0x7B 6 0 b))))
    ∧ ((s'.ctx c).inTask = true → (s'.ctx c).inIrq = false → s'.bindingDrained c = false →
      exec (.tend c b) s = .next ((s'.modCtx c (fun k => { k with tend := true })).stallRetry c))
    ∧ ∀ (home : TileId) (i : Nat) (e : Slot), (s'.ctx c).inTask = true → (s'.ctx c).inIrq = false → s'.bindingDrained c = true → tileOf? (Word.bits (s'.ctx c).tasksrc 0 10) = some home →
    (s'.tile home).findSlot (.prog (BitVec.ofNat 20 (Word.bits (s'.ctx c).tasksrc 10 20))) = some (i, e) → e.st = .running →
    (s'.tile home).kitty = [] → (∀ b ∈ (s'.tile c.tile).bindq, b.ctx ≠ c.ctx) →
    ∃ u, exec (.tend c b) s = .next u
      ∧ (u.ctx c).st = .parked ∧ (u.ctx c).vctx = none ∧ (u.ctx c).tasksrc = 0 ∧ (u.ctx c).taskn = 0 ∧ (u.ctx c).taskpot = 0
      ∧ Tab.find? (u.tile home).slots i = some { Slot.fresh e.name e.last with st := .retired }
      ∧ (∀ v, (s'.ctx c).vctx = some v → (s'.tile c.tile).bindq = [] → (u.vctx c.tile v).owner = none)

/-- DEAL_INTERRUPT completes, to a running context and to a PARKED one (R130, R131). -/
def Obligations.DealInterrupts : Prop :=
  ∀ (home : TileId) (idx : Nat) (ctx : CtxRef) (far : List Byte) (e : Slot) (h : HandItem) (s : State),
    let s0 := s.fillEntry home idx far
    (s0.tile home).fired? idx = some e → (s0.tile home).hand.find? (fun h => h.idx == idx) = some h →
    let ok := s0.isIrq home e = true ∧ s0.takesSuit (quadOfTile home) 0 = true
    (¬ok ∨ (s0.irqTarget home e = none ∧ (s0.irqParked home e).contains ctx = false) →
      exec (.dealInterrupt home idx ctx far) s = .next s0)
    ∧ ∀ (c : CtxRef) (w : Nat) (s1 : State), ok → s0.taskEntry c.tile e far = (.ok w, s1) →
      let what := fun (park : Nat) (u : State) =>
        Tab.find? (u.tile home).slots idx = some { e with st := .running, last := c.tile } ∧ (u.ctx c).mdirqw = e.opw
          ∧ (u.ctx c).mdirqpc = BitVec.ofNat 64 (w / 2 * 2)
          ∧ (u.ctx c).mdirq = BitVec.ofNat 64 (1 + park * 2 + tileNum home * 4 + e.name20 * 2 ^ 12 + e.entry % 2 ^ 16 * 2 ^ 32)
      (s0.irqTarget home e = some c →
        ∃ u, exec (.dealInterrupt home idx ctx far) s = .next u ∧ what 0 u ∧ Word.bit (u.ctx c).mip 16 = true
          ∧ (u.ctx c).pc = (s1.ctx c).pc ∧ ∀ r, u.getX c r = s1.getX c r)
      ∧ (s0.irqTarget home e = none → (s0.irqParked home e).contains c = true → c = ctx →
        ∃ u, exec (.dealInterrupt home idx ctx far) s = .next u ∧ what 1 u ∧ (u.ctx c).st = .ready ∧ (u.ctx c).priv = .m
          ∧ (u.ctx c).mepc = 0 ∧ (u.ctx c).mcause = BitVec.ofNat 64 (16 + 2 ^ 63))

/-- PREEMPT and PREEMPT_SAVE complete (R133, R134, R139). The task dealt into the victim's context may raise a job fault, whose stop
ends registered waits, saved ones too (R336): the waits of the list are given for an entry that the dealer has cached. -/
def Obligations.PreemptAndSave : Prop :=
  ∀ (s : State),
    (∀ home idx e h c, (s.tile home).fired? idx = some e → (s.tile home).hand.find? (fun h => h.idx == idx) = some h →
      s.victim (quadOfTile home) = some c →
      let ok := e.suit = 0 ∧ s.isIrq home e = false ∧ Word.bit (s.quadReg (quadOfTile home) .dlrcfg) 12 = true
        ∧ s.noneParked (quadOfTile home) = true ∧ s.takesSuit (quadOfTile home) 0 = true
      (ok → ∃ u, exec (.preempt home idx) s = .next u ∧ (u.tile c.tile).pre = some { victim := c.ctx, home := home, item := h }
        ∧ (u.ctx c).resv = none ∧ (∀ r, u.getX c r = s.getX c r) ∧ ((s.tile home).spilled = [] → SameMem s u))
      ∧ (¬ok → exec (.preempt home idx) s = .next s))
    ∧ (∀ t far p e, (s.tile t).pre = some p → (s.tile p.home).fired? p.item.idx = some e →
      let c : CtxRef := { tile := t, ctx := p.victim }
      let k := s.ctx c
      let bare := fun (l : List Saved) => l.map (fun x => { x with wait := none })
      (s.live t = false ∨ (k.st ≠ .parked ∧ s.victimDrained c = false) → exec (.preemptSave t far) s = .next s)
      ∧ (s.live t = true → k.st = .parked →
        ∃ u, exec (.preemptSave t far) s = .next u ∧ (u.tile t).pre = none ∧ bare (u.tile t).saved = bare (s.tile t).saved)
      ∧ (∀ i v, s.live t = true → k.st ≠ .parked → s.victimDrained c = true → s.freeIrec t = some i →
        (k.vctx.isSome = true → s.freeVrec t = some v) →
        ∃ u rd, exec (.preemptSave t far) s = .next u ∧ (u.tile t).pre = none
          ∧ (let l := (s.tile t).saved ++ [{ irec := i, vrec := (if k.vctx.isSome then some v else none), suit := k.suit, dealTime := k.dealTime, st := (if k.st = .stalled then .ready else k.st), priv := k.priv, wait := k.wait, bindRd := rd, oldCtx := p.victim }]
            bare (u.tile t).saved = bare l ∧ (∀ w, s.cachedEntry t e = some w → 2 ≤ w → (u.tile t).saved = l))))

/-- RESTORE and DLRCLR complete (R137, R143, R315). The premise on memory: a record that cannot be read is a job fault (R348). -/
def Obligations.RestoreResumes : Prop :=
  ∀ (s : State),
    (∀ t i ctx x, (s.tile t).saved[i]? = some x →
      let ok := s.restoreEligible t x = true ∧ s.takesSuit (quadOfTile t) x.suit = true ∧ (s.parked t).contains ctx = true
      let b := s.bytes (sramPa t (s.irecAt t x.irec)) 1024
      let flags := leAt b 0x280 8
      let early := flags.testBit 38 = true ∧ ∃ w, x.wait = some w ∧ w.kind = .early
      (¬ok → exec (.restore t i ctx) s = .next s)
      ∧ (ok → s.latent = [] → s.poison = [] → (s.tile t).bindq = [] ∨ s.freeVctxs t = [] →
        ∃ u, exec (.restore t i ctx) s = .next u
          ∧ (u.tile t).saved.map (·.irec) = ((s.tile t).saved.eraseIdx i).map (·.irec)
          ∧ (flags.testBit 34 = false → (u.tile t).saved = (s.tile t).saved.eraseIdx i)
          ∧ (let k := u.ctx { tile := t, ctx := ctx }
            k.priv = x.priv ∧ k.dealTime = leAt b 0x178 8
            ∧ (∀ r : XReg, r ≠ 0 → (recState b = .binding → r ≠ x.bindRd) → (early → r ≠ (x.wait.map (·.rd)).getD 0) →
                k.getX r = recWord b (8 * r.val))
            ∧ (flags.testBit 34 = false → recState b = .ready → k.st = .ready ∧ k.pc = recWord b 0x100)
            ∧ (flags.testBit 34 = false → recState b = .waiting → k.pc = recWord b 0x100
                ∧ k.st = if k.mip.toNat &&& k.mie.toNat = 0 then .waiting else .ready)
            ∧ (flags.testBit 34 = false → recState b = .binding → s.recVrec t x = none →
              (∀ v, s.freeVctx t = some v → k.st = .ready ∧ k.vctx = some v ∧ k.pc = recWord b 0x100
                ∧ (x.bindRd ≠ 0 → k.getX x.bindRd = BitVec.ofNat 64 v.val))
              ∧ (s.freeVctx t = none → k.st = .binding ∧ k.pc = recWord b 0x100 - 4))
            ∧ (flags.testBit 34 = true → flags.testBit 36 = false → recState b = .waiting → (∀ w, x.wait = some w → w.met = false) →
              (k.st = .ready ∧ k.wait = none ∧ k.pc = recWord b 0x100)
              ∨ (flags.testBit 39 = false ∧ k.st = .waiting ∧ k.wait = recWait b x.wait ∧ k.pc = recWord b 0x100 - 4))
            ∧ (flags.testBit 34 = true → flags.testBit 36 = true → recState b ≠ .binding → k.pc = recWord b 0x100
              ∧ ∃ w, k.wait = some w ∧ w.armed = true ∧ w.threshold = recWord b 0x288
                ∧ (flags.testBit 39 = true → w.met = true ∧ Word.bit k.mip 17 = true))
            ∧ (s.recVrec t x = none → recState b ≠ .binding → k.vctx = none)
            ∧ (∀ r v, s.recVrec t x = some r → s.freeVctx t = some v → recState b ≠ .binding → k.vctx = some v
              ∧ u.vctx t v = VCtx.ofRecord ctx (s.bytes (sramPa t (s.vrecAt t r)) 67584)))))
    ∧ (∀ q w, s.computeOn = true → Word.bit w 0 = true →
      ∃ u, exec (.dlrclr q w) s = .next u ∧ (∀ i b, u.reg (.quad q (.hist i b)) = 0) ∧ (∀ t ∈ quadTiles q, u.tileReg t .ddepthmax = 0)
        ∧ u.reg (.quad q .dsuit0) = 0 ∧ u.reg (.quad q .dsuit1) = 0 ∧ u.reg (.quad q .dsuit2) = 0 ∧ u.reg (.quad q .dsuit3) = 0
        ∧ (∀ d r, d ≠ q → u.quadReg d r = s.quadReg d r) ∧ u.reg (.quad q .dlrcfg) = s.reg (.quad q .dlrcfg)
        ∧ u.tiles = s.tiles ∧ u.mem = s.mem)
    ∧ (∀ q w, s.computeOn = false ∨ Word.bit w 0 = false → exec (.dlrclr q w) s = .next s)

/-- No bit that R135 and R315 lay down in the record is dropped. The deal time takes 64 bits of it; a wait is armed where it is
interruptible (R313). -/
def Obligations.SaveRecordRoundTrip : Prop :=
  ∀ (k k0 : Ctx) (st : CtxSt) (vrec : Option Nat) (handles : List Nat) (now : Nat), k.dealTime < 2 ^ 64 →
    (∀ w, k.wait = some w → w.armed = w.intr) →
    let b := k.record st vrec handles
    let r := k0.ofRecord b now
    b.length = 1024 ∧ (∀ q : XReg, r.getX q = k.getX q) ∧ r.pc = k.nextPc
      ∧ r.mie1 = k.mie1 ∧ r.mpie = k.mpie ∧ r.mpp = k.mpp ∧ r.mepc = k.mepc ∧ r.mcause = k.mcause ∧ r.mtval = k.mtval ∧ r.mscratch = k.mscratch
      ∧ r.mie = k.mie ∧ r.mip = Word.setBit k.mip 21 (decide (k.mtimecmp.toNat ≤ now)) ∧ r.mtimecmp = k.mtimecmp
      ∧ r.instret = k.instret ∧ r.tasksrc = k.tasksrc ∧ r.taskn = k.taskn ∧ r.taskpot = k.taskpot ∧ r.tkarg = k.tkarg
      ∧ r.suit = k.suit ∧ r.dealTime = k.dealTime ∧ r.gctl = k.gctl ∧ r.sigcfg = k.sigcfg
      ∧ (∀ i, Tab.get 0 r.saud i = Tab.get 0 k.saud i)
      ∧ recWait b k.wait = k.wait.map (fun w => { w with met := false })
      ∧ (st = k.st → k.st = .ready ∨ k.st = .waiting ∨ k.st = .binding →
        (k0.restored b now k.priv (recWait b k.wait)).pc = k.pc ∧ (k0.restored b now k.priv (recWait b k.wait)).st = k.st)

/-! ### The gather engine (05_gather_engine) -/

/-- GOPEN, GNEXT, GSTAT, GCLOSE and GCLOSE.W complete (R154, R161 to R164), in each of their forms. -/
def Obligations.GatherStreams : Prop :=
  ∀ (c : CtxRef) (rd rs1 : XReg) (s s' : State), Issues s c 4 s' →
    let f : RFields := { rs2 := 0, rs1 := rs1, rd := rd }
    let f0 : RFields := { rs2 := 0, rs1 := rs1, rd := 0 }
    let mine := ((s'.tile c.tile).streams.filter (fun p => p.2.owner == some c.ctx)).length
    (∀ far, s'.allPerformed c = false → exec (.gopen c f far) s = .next (s'.stallRetry c))
    ∧ (∀ far, s'.allPerformed c = true → s'.freeStream c.tile = none ∨ 12 ≤ mine →
      exec (.gopen c f far) s = .next (s'.retireX c rd Word.ones))
    ∧ (∀ far b n s1, s'.allPerformed c = true → s'.freeStream c.tile = some n → mine < 12 →
      s'.readDesc c (s'.getX c rs1).toNat 160 32 far = (.ok b, s1) →
      let bad := fun (u : State) => exec (.gopen c f far) s = .next ((u.raiseTile c.tile .gatherDesc
        { ctx := some c.ctx, addr := (s'.getX c rs1).toNat, extra := n, engine := some .gather, stream := some n }).retire c)
      (s1.gdOk c.tile b (s1.spadesOk c) = false → bad s1)
      ∧ (∀ xf s2, s1.gdOk c.tile b (s1.spadesOk c) = true → gdEpath b = true → gdPot b = true →
        s1.readDesc c (gdXform b) 64 64 (far.drop 160) = (.ok xf, s2) → xfOk xf b = false → bad s2)
      ∧ (∀ xf s2, s1.gdOk c.tile b (s1.spadesOk c) = true →
        (gdEpath b = true ∧ gdPot b = true ∧ s1.readDesc c (gdXform b) 64 64 (far.drop 160) = (.ok xf, s2) ∧ xfOk xf b = true)
          ∨ ((gdEpath b = false ∨ gdPot b = false) ∧ xf = [] ∧ s2 = s1) →
        ∃ u x, exec (.gopen c f far) s = .next u ∧ Tab.find? (u.tile c.tile).streams n = some x
          ∧ x.desc = b ∧ x.xf = xf ∧ x.owner = some c.ctx ∧ x.priv = (s2.ctx c).priv ∧ x.vertex = gdV0 b ∧ x.fin = decide (gdV1 b ≤ gdV0 b)
          ∧ x.delivered = 0 ∧ (rd ≠ 0 → u.getX c rd = BitVec.ofNat 64 n) ∧ SameMem s2 u ∧ SameCtxs s2 u c))
    ∧ (s'.handle c rs1 = none →
      let ill := fun (i : Instr) (f3 f7 : Nat) (g : RFields) => exec i s = .next (s'.exception c 2 (BitVec.ofNat 64 (gWord f3 f7 g)))
      ill (.gnext c f) 0 1 f ∧ ill (.gclose c f0) 0 2 f0 ∧ ill (.gcloseW c f0) 0 3 f0 ∧ ill (.gstat c f) 0 4 f)
    ∧ (∀ n x, s'.handle c rs1 = some (n, x) →
      let held := s'.streamOut c.tile n
      let closed := fun (u : State) => (u.ctx c).pc = (s'.ctx c).pc + 4 ∧ (∀ r, u.getX c r = s'.getX c r)
        ∧ Tab.find? (u.tile c.tile).streams n
          = if held = 0 then none else some { x with owner := none, aborted := true, reqs := [] }
      (gdEpath x.desc = false → x.returned < x.delivered →
        ∃ u y, exec (.gnext c f) s = .next u ∧ Tab.find? (u.tile c.tile).streams n = some y
          ∧ y.returned = x.returned + 1 ∧ y.released = x.returned ∧ y.delivered = x.delivered
          ∧ (rd ≠ 0 → u.getX c rd = BitVec.ofNat 64 (gdStageoff x.desc + x.returned % gdRing x.desc * gdRecord x.desc)))
      ∧ (x.fin = true → gdEpath x.desc = true ∨ x.delivered ≤ x.returned →
        ∃ u, exec (.gnext c f) s = .next u ∧ (rd ≠ 0 → u.getX c rd = BitVec.ofInt 64 (-1)))
      ∧ (x.fin = false → gdEpath x.desc = true ∨ (x.delivered ≤ x.returned ∧ Word.bit (s'.ctx c).gctl 0 = true) →
        ∃ u, exec (.gnext c f) s = .next u ∧ (rd ≠ 0 → u.getX c rd = BitVec.ofInt 64 (-2)))
      ∧ (x.fin = false → gdEpath x.desc = false → x.delivered ≤ x.returned → Word.bit (s'.ctx c).gctl 0 = false →
        exec (.gnext c f) s = .next ((s'.setStream c.tile n { x with released := x.returned }).stallRetry c))
      ∧ exec (.gstat c f) s = .next (s'.retireX c rd (gstreamWord x held))
      ∧ (∃ u, exec (.gclose c f0) s = .next u ∧ closed u)
      ∧ (gdEpath x.desc = false ∨ x.fin = true → ∃ u, exec (.gcloseW c f0) s = .next u ∧ closed u)
      ∧ (gdEpath x.desc = true → x.fin = false →
        exec (.gcloseW c f0) s = .next ((s'.setStream c.tile n { x with drain := true }).stallRetry c)))

/-- GATHER_RETURN completes (R155, R159, R181). -/
def Obligations.GatherReturnAdvances : Prop :=
  ∀ (t : TileId) (n : Nat) (far : List Byte) (x : Stream) (s : State), Tab.find? (s.tile t).streams n = some x →
    (x.owner = none ∨ s.computeOn = false ∨ s.stopping t = true ∨ x.fin = true ∨ s.gRoom t x = false →
      exec (.gatherReturn t n far) s = .next s)
    ∧ ∀ (c : CtxId), x.owner = some c → s.computeOn = true → s.stopping t = false → x.fin = false → s.gRoom t x = true →
      let i : FaultInfo := { engine := some .gather, stream := some n, vertex := some x.vertex, extra := n }
      let step := (gStep t x { ctx := some c, seq := x.seq, suit := (s.ctx { tile := t, ctx := c }).suit, stream := n }).run { s := s, far := far }
      (x.inList = false → gdV1 x.desc ≤ x.vertex →
        ∃ u, exec (.gatherReturn t n far) s = .next u ∧ Tab.find? (u.tile t).streams n = some { x with fin := true } ∧ SameMem s u)
      ∧ (∀ y g, step = (.ok y, g) → exec (.gatherReturn t n far) s
          = .next (((g.s.modTile t (fun T => { T with streams := Tab.set T.streams n y.ends })).gOut t g.total).progress t))
      ∧ (∀ e g, step = (.error (.eng e), g) → exec (.gatherReturn t n far) s = .next (g.s.raiseEngine t (some c) e i))
      ∧ (∀ r v o g, step = (.error (.job r v o), g) → exec (.gatherReturn t n far) s
          = .next (g.s.raiseTile t r { i with ctx := some c, addr := v.getD 0, vertex := v, ordinal := o }))

/-- What the intersect unit's merge counts (R174, step 4), and that ISECT and ISECT_COMPLETE complete (R174, R175). -/
def Obligations.IsectRuns : Prop :=
  (∀ (a b : List Nat), a.Pairwise (· ≤ ·) → b.Pairwise (· ≤ ·) →
    (∀ x, (iMerge (a.length + b.length) a b).count x = min (a.count x) (b.count x))
      ∧ (iMerge (a.length + b.length) a b).Pairwise (· ≤ ·))
  ∧ (∀ (c : CtxRef) (rd rs1 : XReg) (far : List Byte) (s s' : State), Issues s c 4 s' →
    let run := exec (.isect c { rs2 := 0, rs1 := rs1, rd := rd } far) s
    (9 ≤ (s'.tile c.tile).isects.length ∨ s'.allPerformed c = false → run = .next (s'.stallRetry c))
    ∧ ∀ b s1, (s'.tile c.tile).isects.length < 9 → s'.allPerformed c = true →
      s'.readDesc c (s'.getX c rs1).toNat 96 32 far = (.ok b, s1) →
      (idOk b = false → run = .next ((s1.raiseTile c.tile .gatherDesc
        { ctx := some c.ctx, addr := (s1.getX c rs1).toNat, engine := some .isect }).retire c))
      ∧ (idOk b = true → ∃ u q, run = .next u ∧ (u.tile c.tile).isects = (s1.tile c.tile).isects ++ [q]
        ∧ q.ctx = c.ctx ∧ q.rd = rd ∧ q.desc = b ∧ (u.ctx c).st = .stalled ∧ (u.ctx c).pc = (s1.ctx c).pc))
  ∧ (∀ (t : TileId) (far : List Byte) (q : Isect) (rest : List Isect) (s : State),
    (s.tile t).isects = q :: rest → s.computeOn = true → s.stopping t = false →
    let fb : FarBy := { ctx := some q.ctx, seq := q.seq, suit := (s.ctx { tile := t, ctx := q.ctx }).suit }
    let found := (iMatches t q fb).run { s := s, far := far }
    let i : FaultInfo := { engine := some .isect, ctx := some q.ctx }
    let ends := fun (u : State) => (u.modTile t (fun T => { T with isects := rest })).progress t
    (∀ e g, found = (.error (.eng e), g) → exec (.isectComplete t far) s = .next (ends (g.s.raiseEngine t (some q.ctx) e i)))
    ∧ (∀ r v o g, found = (.error (.job r v o), g) →
      exec (.isectComplete t far) s = .next (ends (g.s.raiseTile t r { i with addr := v.getD 0, vertex := v, ordinal := o })))
    ∧ (∀ l g d s2, found = (.ok l, g) →
      g.s.engineWrite t q.priv fb (idOut q.desc) ((l.take (idMax q.desc)).flatMap (leBytes 8)) = (.ok d, s2) →
      ∃ u, exec (.isectComplete t far) s = .next u ∧ (u.tile t).isects = rest
        ∧ (q.rd ≠ 0 → u.getX { tile := t, ctx := q.ctx } q.rd = BitVec.ofNat 64 l.length)
        ∧ (u.ctx { tile := t, ctx := q.ctx }).pc = (s2.ctx { tile := t, ctx := q.ctx }).pc + 4))

/-! ### The vector and matrix engines (06_vector_engine to 08_fused_prologue_epilogue) -/

/-- The vector instructions of 32 bits complete their issue (R188 to R204, R213); one without a binding, or whose word is not accepted,
is illegal (R36, R189), and with a full queue the context waits (R213). -/
def Obligations.VectorWordsQueued : Prop :=
  ∀ (c : CtxRef) (s s' : State) (q : VWord), Issues s c 4 s' →
    let scalar := s.getX c (Fin.ofNat 32 (if q.op = 15 then q.rs1 else q.rs2))
    let ill := Host.Outcome.next (s'.exception c 2 (BitVec.ofNat 64 (vWordBits q)))
    let issued := fun (wait : Bool) (i : Instr) =>
      ((s'.ctx c).vctx = none → exec i s = ill)
      ∧ ∀ v, (s'.ctx c).vctx = some v →
        let V := s'.vctx c.tile v
        (vWordOk q V.vcfg = false → exec i s = ill)
        ∧ (vWordOk q V.vcfg = true → 16 ≤ V.queue.length → exec i s = .next (s'.stallRetry c))
        ∧ (vWordOk q V.vcfg = true → V.queue.length < 16 →
          exec i s = .next (if wait then (s'.pushV c v (.word q scalar)).stallResult c else (s'.pushV c v (.word q scalar)).retire c 4))
    let put := fun (i : Instr) (_ : VWord) => issued false i
    let hold := fun (i : Instr) (_ : VWord) => issued true i
    (∀ v, ((s'.pushV c v (.word q scalar)).vctx c.tile v).queue = (s'.vctx c.tile v).queue ++ [{ seq := (s'.tile c.tile).seq, priv := (s'.ctx c).priv, op := .word q scalar, vcfg := (s'.vctx c.tile v).vcfg, vlr := (s'.vctx c.tile v).vlr, vlc := (s'.vctx c.tile v).vlc, epicfg := (s'.vctx c.tile v).epicfg }])
    ∧ (∀ f x, q = binWord 0 f.val x → put (.vadd c f x) q)
    ∧ (∀ f x, q = binWord 1 f.val x → put (.vsub c f x) q)
    ∧ (∀ f x, q = binWord 2 f.val x → put (.vmul c f x) q)
    ∧ (∀ f x, q = binWord 3 f.val x → put (.vfma c f x) q)
    ∧ (∀ x, q = binWord 3 5 x → put (.vmacc c x) q)
    ∧ (∀ f x, q = binWord 4 f.val x → put (.vmin c f x) q)
    ∧ (∀ f x, q = binWord 5 f.val x → put (.vmax c f x) q)
    ∧ (∀ f x, q = binWord 6 f.val x → put (.vdiv c f x) q)
    ∧ (∀ f x, q = binWord 7 f.val x → put (.vsgnj c f x) q)
    ∧ (∀ x, q = binWord 7 5 x → put (.vrem c x) q)
    ∧ (∀ f x, q = binWord 8 f.val x → put (.vcmpeq c f x) q)
    ∧ (∀ f x, q = binWord 9 f.val x → put (.vcmplt c f x) q)
    ∧ (∀ f x, q = binWord 10 f.val x → put (.vcmple c f x) q)
    ∧ (∀ f x, q = binWord 11 f.val x → put (.vcmpun c f x) q)
    ∧ (∀ x, q = binWord 11 5 x → put (.vsra c x) q)
    ∧ (∀ x, q = binWord 0 6 x → put (.vand c x) q)
    ∧ (∀ x, q = binWord 1 6 x → put (.vor c x) q)
    ∧ (∀ x, q = binWord 2 6 x → put (.vxor c x) q)
    ∧ (∀ x, q = binWord 3 6 x → put (.vshl c x) q)
    ∧ (∀ x, q = binWord 4 6 x → put (.vminu c x) q)
    ∧ (∀ x, q = binWord 5 6 x → put (.vmaxu c x) q)
    ∧ (∀ x, q = binWord 6 6 x → put (.vdivu c x) q)
    ∧ (∀ x, q = binWord 7 6 x → put (.vremu c x) q)
    ∧ (∀ x, q = binWord 8 6 x → put (.vandn c x) q)
    ∧ (∀ x, q = binWord 9 6 x → put (.vcmpltu c x) q)
    ∧ (∀ x, q = binWord 10 6 x → put (.vcmpleu c x) q)
    ∧ (∀ x, q = binWord 11 6 x → put (.vsrl c x) q)
    ∧ (∀ f x, q = binWord 13 f.val x → put (.shuffle c f x) q)
    ∧ (∀ f u, q = codeWord 15 0 f.val u → put (.mov c f u) q)
    ∧ (∀ f u, q = codeWord 15 1 f.val u → put (.neg c f u) q)
    ∧ (∀ f u, q = codeWord 15 2 f.val u → put (.abs c f u) q)
    ∧ (∀ f u, q = codeWord 15 3 f.val u → put (.sqrt c f u) q)
    ∧ (∀ f u, q = codeWord 15 4 f.val u → put (.rsqrt c f u) q)
    ∧ (∀ f u, q = codeWord 15 5 f.val u → put (.recip c f u) q)
    ∧ (∀ f u, q = codeWord 15 6 f.val u → put (.exp c f u) q)
    ∧ (∀ f u, q = codeWord 15 7 f.val u → put (.exp2 c f u) q)
    ∧ (∀ f u, q = codeWord 15 8 f.val u → put (.log c f u) q)
    ∧ (∀ f u, q = codeWord 15 9 f.val u → put (.log2 c f u) q)
    ∧ (∀ f u, q = codeWord 15 10 f.val u → put (.tanh c f u) q)
    ∧ (∀ f u, q = codeWord 15 11 f.val u → put (.sigmoid c f u) q)
    ∧ (∀ f u, q = codeWord 15 12 f.val u → put (.gelu c f u) q)
    ∧ (∀ f u, q = codeWord 15 13 f.val u → put (.silu c f u) q)
    ∧ (∀ f u, q = codeWord 15 14 f.val u → put (.erf c f u) q)
    ∧ (∀ f u, q = codeWord 15 15 f.val u → put (.sin c f u) q)
    ∧ (∀ f u, q = codeWord 15 16 f.val u → put (.cos c f u) q)
    ∧ (∀ f u, q = codeWord 15 17 f.val u → put (.floor c f u) q)
    ∧ (∀ f u, q = codeWord 15 18 f.val u → put (.ceil c f u) q)
    ∧ (∀ f u, q = codeWord 15 19 f.val u → put (.rint c f u) q)
    ∧ (∀ f u, q = codeWord 15 20 f.val u → put (.trunc c f u) q)
    ∧ (∀ f u, q = codeWord 15 21 f.val u → put (.transpose c f u) q)
    ∧ (∀ f u, q = codeWord 15 23 f.val u → put (.not c f u) q)
    ∧ (∀ f u, q = codeWord 15 24 f.val u → put (.popcnt c f u) q)
    ∧ (∀ f u, q = codeWord 15 25 f.val u → put (.clz c f u) q)
    ∧ (∀ f u, q = codeWord 12 0 f.val u → put (.reduceSum c f u) q)
    ∧ (∀ f u, q = codeWord 12 1 f.val u → put (.reduceMax c f u) q)
    ∧ (∀ f u, q = codeWord 12 2 f.val u → put (.reduceMin c f u) q)
    ∧ (∀ f u, q = codeWord 12 3 f.val u → put (.reduceSumsq c f u) q)
    ∧ (∀ f u, q = codeWord 14 0 f.val u → hold (.popc c f u) q)
    ∧ (∀ f u, q = codeWord 14 1 f.val u → hold (.any c f u) q)
    ∧ (∀ f u, q = codeWord 14 2 f.val u → hold (.all c f u) q)
    ∧ (∀ f u, q = codeWord 14 3 f.val u → hold (.first c f u) q)
    ∧ (∀ f u, q = codeWord 14 4 f.val u → hold (.fmax c f u) q)
    ∧ (∀ f u, q = codeWord 14 5 f.val u → hold (.fmin c f u) q)
    ∧ (∀ f u, q = codeWord 14 6 f.val u → hold (.sum c f u) q)

/-- VLD, VST, VCVT, VMLOGIC, VCLRST, MMA, MMA.D, EPRUN and VSMX complete their issue. -/
def Obligations.EngineInstructionsQueued : Prop :=
  ∀ (c : CtxRef) (s s' : State),
    let ill := fun (i : Instr) (bits : Nat) => exec i s = .next (s'.exception c 2 (BitVec.ofNat 64 bits))
    ((s'.ctx c).vctx = none →
      (∀ (f : LFields) far, Issues s c 8 s' → ill (.vld c f) (lWord 4 0 f) ∧ ill (.vst c f) (lWord 4 1 f) ∧ ill (.vcvt c f) (lWord 4 2 f)
        ∧ ill (.vmlogic c f) (lWord 4 3 f) ∧ ill (.vclrst c f) (lWord 4 4 f) ∧ ill (.mmaD c f far) (lWord 0 0 f))
      ∧ (∀ (f : RFields) z top m zero fmt far, Issues s c 4 s' → ill (.mma c z top f) (rWord 0x2B 0 (z.toNat + 2 * top.toNat) f)
        ∧ ill (.eprun c f far) (rWord 0x2B 4 0 f) ∧ ill (.vsmx c m zero fmt f) (rWord 0x2B 5 (fmt.val + zero.val * 8 + m.toNat * 64) f)))
    ∧ ∀ (v : VctxId), (s'.ctx c).vctx = some v →
    let V := s'.vctx c.tile v
    let room := V.queue.length < 16
    let queued := fun (i : Instr) (n : Nat) (op : VOp) =>
      (room → exec i s = .next ((s'.pushV c v op).retire c n)) ∧ (¬room → exec i s = .next (s'.stallRetry c))
    (∀ (f : LFields) far, Issues s c 8 s' →
      let i := f.imm.toNat
      (bitsOf i 19 13 ≠ 0 ∨ transferOk f.rd.val (Fin.ofNat 4 (bitsOf i 16 2)) = false → ill (.vld c f) (lWord 4 0 f) ∧ ill (.vst c f) (lWord 4 1 f))
      ∧ (f.rs2 ≠ 0 ∨ bitsOf i 13 19 ≠ 0 ∨ cvtOk f.rd.val f.rs1.val (bitsOf i 0 5) (bitsOf i 5 5) = false → ill (.vcvt c f) (lWord 4 2 f))
      ∧ (bitsOf i 3 29 ≠ 0 ∨ isQ f.rd.val = false ∨ isQ f.rs1.val = false ∨ isQ f.rs2.val = false → ill (.vmlogic c f) (lWord 4 3 f))
      ∧ (f ≠ { rd := 0, rs1 := 0, rs2 := 0, imm := 0 } → ill (.vclrst c f) (lWord 4 4 f))
      ∧ (f.rd ≠ 0 ∨ f.rs2 ≠ 0 ∨ bitsOf i 1 31 ≠ 0 ∨ mxFormatsOk (mxA V.mxcfg) (mxB V.mxcfg) = false → ill (.mmaD c f far) (lWord 0 0 f)))
    ∧ (∀ (f : RFields) z top m zero fmt far, Issues s c 4 s' →
      (top ≠ 0 ∨ isA f.rd.val = false ∨ isT f.rs1.val = false ∨ isT f.rs2.val = false ∨ (mxTwoA V.mxcfg = true ∧ f.rs1.val % 2 ≠ 0)
          ∨ (mxTwoB V.mxcfg = true ∧ f.rs2.val % 2 ≠ 0) ∨ mxFormatsOk (mxA V.mxcfg) (mxB V.mxcfg) = false →
        ill (.mma c z top f) (rWord 0x2B 0 (z.toNat + 2 * top.toNat) f))
      ∧ (f.rs2 ≠ 0 ∨ isA f.rd.val = false → ill (.eprun c f far) (rWord 0x2B 4 0 f))
      ∧ (zero ≠ 0 ∨ 5 ≤ fmt.val ∨ gridOk f.rs1.val 32 = false ∨ isT f.rs2.val = false ∨ gridOk f.rd.val (fmtOf fmt.val).width = false →
        ill (.vsmx c m zero fmt f) (rWord 0x2B 5 (fmt.val + zero.val * 8 + m.toNat * 64) f)))
    ∧ (∀ (f : LFields) i (w : Fin 4) base stride rows (st : Bool), Issues s c 8 s' → f.imm.toNat = i → bitsOf i 19 13 = 0 →
      bitsOf i 16 2 = w.val → transferOk f.rd.val w = true →
      base = (s'.getX c f.rs1 + sext 16 (bitsOf i 0 16) * 16).toNat → stride = (if f.rs2 = 0 then rowSize w else (s'.getX c f.rs2).toNat) →
      rows = (if w = 3 then 1 else if i.testBit 18 then 32 else Word.bits V.vlr 0 6) →
      let run := exec (if st then .vst c f else .vld c f) s
      let rowsOf := s'.rowsOf c.tile (s'.ctx c).priv base stride (rowSize w) (if st then .write else .read) rows
      (¬room → run = .next (s'.stallRetry c))
      ∧ (room → base % 16 ≠ 0 → run = .next (s'.exception c (if st then 6 else 4) (BitVec.ofNat 64 base)))
      ∧ (room → base % 16 = 0 → stride % 16 ≠ 0 → run = .next (s'.exception c (if st then 6 else 4) (BitVec.ofNat 64 (base + stride))))
      ∧ (∀ e s1, room → base % 16 = 0 → stride % 16 = 0 → rowsOf = (.error e, s1) →
        run = .next (s1.exception c e.cause (BitVec.ofNat 64 e.va)))
      ∧ (∀ l s1, room → base % 16 = 0 → stride % 16 = 0 → rowsOf = (.ok l, s1) →
        run = .next ((s1.pushV c v (if st then .store f.rd.val w l else .load f.rd.val w l)).retire c 8)))
    ∧ (∀ (f : LFields), Issues s c 8 s' →
      (f.rs2 = 0 → bitsOf f.imm.toNat 13 19 = 0 → cvtOk f.rd.val f.rs1.val (bitsOf f.imm.toNat 0 5) (bitsOf f.imm.toNat 5 5) = true →
        queued (.vcvt c f) 8 (.cvt f.rd.val f.rs1.val (bitsOf f.imm.toNat 0 5) (bitsOf f.imm.toNat 5 5)
          (bitsOf f.imm.toNat 10 2) (f.imm.toNat.testBit 12)))
      ∧ (bitsOf f.imm.toNat 3 29 = 0 → isQ f.rd.val = true → isQ f.rs1.val = true → isQ f.rs2.val = true →
        queued (.vmlogic c f) 8 (.mlogic f.rd.val f.rs1.val f.rs2.val (bitsOf f.imm.toNat 0 3)))
      ∧ (f = { rd := 0, rs1 := 0, rs2 := 0, imm := 0 } → queued (.vclrst c f) 8 .clrst))
    ∧ (∀ (z : Bool) (f : RFields), Issues s c 4 s' → isA f.rd.val = true → isT f.rs1.val = true → isT f.rs2.val = true →
      (mxTwoA V.mxcfg = false ∨ f.rs1.val % 2 = 0) → (mxTwoB V.mxcfg = false ∨ f.rs2.val % 2 = 0) →
      mxFormatsOk (mxA V.mxcfg) (mxB V.mxcfg) = true →
      queued (.mma c z 0 f) 4 (.mma f.rd.val f.rs1.val f.rs2.val z V.mxcfg V.mxrmask))
    ∧ (∀ (rs1 : XReg) (z : Bool) far, Issues s c 8 s' → mxFormatsOk (mxA V.mxcfg) (mxB V.mxcfg) = true →
      let va := (s.getX c rs1).toNat
      let run := exec (.mmaD c { rd := 0, rs1 := rs1, rs2 := 0, imm := BitVec.ofNat 32 z.toNat } far) s
      (¬room → run = .next (s'.stallRetry c))
      ∧ (∀ b s1, room → s'.readDesc c va 96 32 far = (.ok b, s1) → s1.mdOk c.tile b (mxScratch V.mxcfg) = false →
        run = .next (s1.matrixDesc c va 8))
      ∧ (∀ b s1 pro s2 epi s3, room → s'.readDesc c va 96 32 far = (.ok b, s1) → s1.mdOk c.tile b (mxScratch V.mxcfg) = true →
        let far1 := far.drop (s1.farUsed c va 96)
        let far2 := if mdPro b then far1.drop (s2.farUsed c (mdProva b) 448) else far1
        s1.readProg c (mdPro b) (mdProva b) far1 = (.ok pro, s2) → s2.readProg c (mdEpi b) (mdEpiva b) far2 = (.ok epi, s3) →
        let ok := (mdPro b = true → pgOk pro 1 V.vcfg (s3.spadesOk c) = true) ∧ (mdEpi b = true → pgOk epi 0 V.vcfg (s3.spadesOk c) = true)
        (¬ok → run = .next (s3.matrixDesc c va 8))
        ∧ (ok → run = .next ((s3.pushV c v (.mmad { va := va, desc := b, pro := pro, epi := epi, z := z, cfg := V.mxcfg, pred := V.mxpred, tags := none, started := false, done := [], blocks := 0 })).retire c 8))))
    ∧ (∀ (rd rs1 : XReg) far, Issues s c 4 s' → isA rd.val = true →
      let va := (s.getX c rs1).toNat
      let run := exec (.eprun c { rd := rd, rs1 := rs1, rs2 := 0 } far) s
      (¬room → run = .next (s'.stallRetry c))
      ∧ (∀ b s1, room → s'.readDesc c va 448 64 far = (.ok b, s1) →
        (pgOk b 0 V.vcfg (s1.spadesOk c) = false → run = .next (s1.matrixDesc c va 4))
        ∧ (pgOk b 0 V.vcfg (s1.spadesOk c) = true → run = .next ((s1.pushV c v (.eprun va rd.val b V.mxrmask)).retire c 4))))
    ∧ (∀ (m : Bool) (fmt : Fin 8) (f : RFields), Issues s c 4 s' → fmt.val < 5 → gridOk f.rs1.val 32 = true → isT f.rs2.val = true →
      gridOk f.rd.val (fmtOf fmt.val).width = true → queued (.vsmx c m 0 fmt f) 4 (.vsmx m fmt.val f.rd.val f.rs1.val f.rs2.val))

/-- VECTOR_INSTRUCTION_COMPLETE and MATRIX_PASS_COMPLETE complete (R212, R221, R225). `out` is the register file and the queue after. -/
def Obligations.EngineOperationsComplete : Prop :=
  (∀ (t : TileId) (v : VctxId) (nb : Nat) (far : List Byte) (s : State),
    let still := fun (i : Instr) => exec i s = .next s
    let matrix := fun (o : VOp) => (∃ rd rs1 rs2 z cfg rmask, o = .mma rd rs1 rs2 z cfg rmask) ∨ ∃ d, o = .mmad d
    (s.computeOn = false ∨ s.stopping t = true ∨ (s.vctx t v).queue = [] →
      still (.vectorInstructionComplete t v far) ∧ still (.matrixPassComplete t v nb far))
    ∧ (∀ q rest, (s.vctx t v).queue = q :: rest → (matrix q.op → still (.vectorInstructionComplete t v far)) ∧ (¬matrix q.op → still (.matrixPassComplete t v nb far))))
  ∧ ∀ (t : TileId) (v : VctxId) (q : VQ) (rest : List VQ) (far : List Byte) (s : State), s.computeOn = true → s.stopping t = false →
    (s.vctx t v).queue = q :: rest →
    let f := (s.vctx t v).file
    let who := (s.vctx t v).owner
    let out := fun (g : VFile) (u : State) => (u.vctx t v).file = g ∧ (u.vctx t v).queue = rest
    (∀ i x, q.op = .word i x → i.op ≠ 14 → ∃ u, exec (.vectorInstructionComplete t v far) s = .next u ∧ out (f.exec q.cap i x).1 u
        ∧ u.tileReg t .vinstr = s.tileReg t .vinstr + 1 ∧ SameMem s u)
    ∧ (∀ i x c, q.op = .word i x → i.op = 14 → who = some c → (s.ctx { tile := t, ctx := c }).stall ≠ .retry →
        ∃ u, exec (.vectorInstructionComplete t v far) s = .next u ∧ out (f.flag (f.summary q.cap i).2 0) u
          ∧ u.ctx { tile := t, ctx := c } = (((s.ctx { tile := t, ctx := c }).setX (Fin.ofNat 32 i.rd) (f.summary q.cap i).1).retire 4).wake)
    ∧ (∀ rd rs1 d sf rm m, q.op = .cvt rd rs1 d sf rm m →
        ∃ u, exec (.vectorInstructionComplete t v far) s = .next u ∧ out (f.cvt q.cap m rd rs1 d sf rm) u)
    ∧ (∀ rd rs1 rs2 l, q.op = .mlogic rd rs1 rs2 l → ∃ u, exec (.vectorInstructionComplete t v far) s = .next u ∧ out (f.mlogic q.cap rd rs1 rs2 l) u)
    ∧ (q.op = .clrst → ∃ u, exec (.vectorInstructionComplete t v far) s = .next u ∧ out { f with stat := 0 } u)
    ∧ (∀ rd w rows, q.op = .load rd w rows →
        (∀ l s1, s.readRows t (s.vby t v q) rows far = (.ok l, s1) →
          exec (.vectorInstructionComplete t v far) s = .next ((s1.setFile t v (f.loadRows rd w l)).popV t v true))
        ∧ (∀ e s1, s.readRows t (s.vby t v q) rows far = (.error e, s1) →
          exec (.vectorInstructionComplete t v far) s
            = .next ((s1.raiseEngine t who e { engine := some .vector, vctx := some v, extra := v.val }).popV t v true)))
    ∧ (∀ rd w rows, q.op = .store rd w rows → exec (.vectorInstructionComplete t v far) s
        = .next ((s.writeRows t (s.vby t v q) rows (f.storeRows rd w rows.length)).popV t v true))
    ∧ (∀ m k rd rs1 rs2, q.op = .vsmx m k rd rs1 rs2 →
        ∃ u, exec (.vectorInstructionComplete t v far) s = .next u ∧ out (f.softmax q.cap m k rd rs1 rs2) u)
    ∧ (∀ va rd b rmask, q.op = .eprun va rd b rmask →
        let run := s.epilogue t (s.vby t v q) q b f rd 0 (maskRows rmask.toNat)
        (s.epilogueRoom t b q.cap = false → exec (.vectorInstructionComplete t v far) s = .next s)
        ∧ (∀ g s1, s.epilogueRoom t b q.cap = true → run = (.ok g, s1) →
          exec (.vectorInstructionComplete t v far) s = .next ((s1.setFile t v g).popV t v false))
        ∧ (∀ e s1, s.epilogueRoom t b q.cap = true → run = (.error e, s1) →
          exec (.vectorInstructionComplete t v far) s = .next (s1.failV t v va e)))
    ∧ (∀ rd rs1 rs2 z cfg rmask nb, q.op = .mma rd rs1 rs2 z cfg rmask →
        let g := if z then f.clearAcc rd else f
        ∃ u, exec (.matrixPassComplete t v nb far) s = .next u
          ∧ out (g.pass rd cfg (g.img rs1) (g.img rs2) (maskRows rmask.toNat)).1 u ∧ u.tileReg t .mxpass = s.tileReg t .mxpass + 1 ∧ SameMem s u)
    ∧ (∀ d nb, q.op = .mmad d →
        let start := if d.started then (Except.ok (d, far), s) else s.startMmaD t v q d far
        let ends := fun (u : State) => exec (.matrixPassComplete t v nb far) s = .next u
        (∀ s1, start = (.error none, s1) → ends ((s1.raiseTile t .matrixDesc
          { ctx := (s1.vctx t v).owner, addr := d.va, engine := some .matrix, vctx := some v, desc := some d.va, extra := v.val }).popV t v false))
        ∧ (∀ e s1, start = (.error (some e), s1) → ends (s1.failV t v d.va e))
        ∧ (∀ d1 far1 s1, start = (.ok (d1, far1), s1) →
          let pass := if nb < mdNb d1.desc ∧ d1.blockDone nb = false then s1.mmadPass t v q d1 nb far1 else (.ok d1, s1)
          (∀ e s2, pass = (.error e, s2) → ends (s2.failV t v d.va e))
          ∧ (∀ d2 s2, pass = (.ok d2, s2) →
            (∀ e s3, s2.finishBlocks (mdNb d2.desc) t v q d2 = (.error e, s3) → ends (s3.failV t v d.va e))
            ∧ (∀ d3 s3, s2.finishBlocks (mdNb d2.desc) t v q d2 = (.ok d3, s3) →
              (mdNb d3.desc ≤ d3.blocks → ends ((s3.stageNext t v q d3).popV t v false))
              ∧ (d3.blocks < mdNb d3.desc → ends (s3.setHead t v { q with op := .mmad d3 })))))
        ∧ (∀ ra s2 rb s3, mdBm d.desc = false → mdPro d.desc = false → mxScratch d.cfg = false →
          (s.bumpLo (.tile t .mxskip) (32 - d.present.length)).engineRead t q.priv (s.vby t v q)
            (mdAva d.desc + Tab.get 0 d.done nb % mdKb d.desc * aSize d.cfg) (aSize d.cfg) far = (.ok ra, s2) →
          let x := d.experts.getD (Tab.get 0 d.done nb / mdKb d.desc) 0
          s2.engineRead t q.priv (s2.vby t v q)
            (d.bBase x + (nb * mdKb d.desc + Tab.get 0 d.done nb % mdKb d.desc) * bSize d.cfg) (bSize d.cfg) ra.far = (.ok rb, s3) →
          ∃ u, s.mmadPass t v q d nb far = (.ok { d with done := Tab.set d.done nb (Tab.get 0 d.done nb + 1) }, u)
            ∧ (let g := (s3.vctx t v).file
              (u.vctx t v).file = { (g.pass (16 + mdAcc d.desc + nb) d.cfg (listImg ra.data) (listImg rb.data)
                (d.present.filter (fun m => d.expert m == x))).1 with stat := g.stat })))

/-- OP 0 to 11 element by element (R187, R191), with the frame of the register file. -/
def Obligations.VectorElementResults : Prop :=
  ∀ (f : VFile) (k : VCap) (i : VWord) (x : Word), i.op ≤ 11 → isCompare i.op i.f = false → vWordOk i k.vcfg = true → isT i.rd = true →
    k.rows ≤ 32 → k.cols ≤ 32 →
    let w := fmtWidth i.f k.vcfg
    let g := f.binary k i x
    (∀ r c, r < 32 → c < 32 → g.elem i.rd w r c =
      if r < k.rows ∧ c < k.cols then
        if selected (f.maskOf k i.m) (r, c) = true then
          (binElem i.f w k.isat i.op (f.elem i.rs1 w r c) (f.operand i.sm i.rs2 w x (r, c)) (if i.op = 3 then f.elem i.rd w r c else 0)).bits % 2 ^ w
        else if k.mz = true then 0 else f.elem i.rd w r c
      else f.elem i.rd w r c)
    ∧ (∀ o, o < i.rd * 2048 ∨ (i.rd + (if w ≤ 16 then 1 else w / 16)) * 2048 ≤ o → Mem.get g.image o = Mem.get f.image o)
    ∧ g.acc = f.acc
    ∧ (∀ n old y, n = 0x801 ∨ n = 0x802 → Word.bits old 0 6 ≤ 32 → Word.bits (fieldsWrite (vcsrFields n) false old y) 0 6 ≤ 32)

/-- One element's INT8 pass (R233): the groups of R230 together hold each of the 64 products once. -/
def Obligations.IntegerPassIsExact : Prop :=
  ∀ (cfg : Word) (a b : Img) (m n : Nat) (e : AccElem), mxA cfg = 5 → mxB cfg = 5 → mxSparse cfg = false → mxSplit cfg = false → e.hi < 2 ^ 32 →
    let dot := (List.range 64).foldl (fun (z : Int) k => z + signed 8 (a (m * 64 + k)) * signed 8 (b (n * 64 + k))) 0
    (((intPass cfg a b m n e).hi : Int) = ((e.hi : Int) + dot) % 2 ^ 32) ∧ (intPass cfg a b m n e).lo = e.lo

/-! ### Embedding tables (09_embedding_tables) -/

/-- The table instructions and messages complete. `x` is what the directory and the descriptors say of the table (R272), `g` the state
in which the work starts, and `g'` the one in which it ends. A row of the instruction table gives an instruction, its F7, its class,
its descriptor's form, whether the descriptor's command is the row's, and its work. -/
def Obligations.TableOperationsRun : Prop :=
  (∀ (c : CtxRef) (f : LFields) (far : List Byte) (s s' : State), Issues s c 8 s' →
    let j := s'.jslot c.tile
    let cmd := fun (b : List Byte) (k : Nat) => ecCmd b == k || decide (6 < ecCmd b)
    let rows := fun (b : List Byte) =>
      ([(.ebag c f far, 0, ebSuit b, fun g td => g.ebOk c.tile b td, true, fun x => tBag c x b),
        (.egrad c f far, 1, egSuit b, fun _ td => egOk b td, true, fun x => tGrad c x b),
        (.eapply c f far, 2, eaSuit b, fun _ td => eaOk b td, true, fun x => tApply x b),
        (.rowput c f far, 3, ecSuit b, fun _ td => ecOk b td, cmd b 0, fun x => tRowCommand c x b true),
        (.rowdel c f far, 3, ecSuit b, fun _ td => ecOk b td, cmd b 1, fun x => tRowCommand c x b false),
        (.shadow c f far, 3, ecSuit b, fun _ td => ecOk b td, cmd b 2, fun x => tShadow c x b),
        (.hand c f far, 3, ecSuit b, fun _ td => ecOk b td, cmd b 3, fun x => tHand c x b),
        (.flip c f far, 3, ecSuit b, fun _ td => ecOk b td, cmd b 4, fun x => do
          tMod (fun s => s.modReg (.emb (.epoch x.j (Fin.ofNat 256 x.table))) (fun w => BitVec.ofNat 64 ((w.toNat + 1) % 256)))
          tInvMap x
          tOver c x b),
        (.mapinv c f far, 3, ecSuit b, fun _ td => ecOk b td, cmd b 5, fun x => do
          tInvMap x
          tOver c x b),
        (.rsync c f far, 3, ecSuit b, fun _ td => ecOk b td, cmd b 6, fun x => tRsync c x b)] :
        List (Instr × Nat × Suit × (State → List Byte → Bool) × Bool × (TC → TM Unit)))
    let form := f.rd = 0 ∧ f.rs2 = 0 ∧ f.imm = 0 ∧ Word.bit (s'.reg (.emb (etabdir j))) 63 = true
    ∀ b, ∀ q ∈ rows b,
      let (i, f7, suit, ok, mine, work) := q
      (¬form → exec i s = .next (s'.exception c 2 (BitVec.ofNat 64 (lWord 3 f7 f))))
      ∧ (form → s'.allPerformed c = false → exec i s = .next (s'.stallRetry c))
      ∧ ∀ s1, form → s'.allPerformed c = true → s'.readDesc c (s'.getX c f.rs1).toNat 64 64 far = (.ok b, s1) →
        (mine = false → exec i s = .next s)
        ∧ (mine = true → s1.stopping c.tile = true → exec i s = .next (s1.retire c 8))
        ∧ (mine = true → s1.stopping c.tile = false →
          let n := (s1.tile c.tile).nextSeq
          let found := (tTable { t := c.tile, j := j, table := ebTable b, td := [], suit := suit, asker := some c.ctx, seq := n.1 }).run.run
            ({ s := s1.setTile c.tile n.2, far := far.drop 64 } : GS)
          (∀ e g, found = (.error e, g) → exec i s = .next ((g.s.tblFault c e).retire c 8))
          ∧ ∀ x g, found = (.ok x, g) →
            let good := ok g.s x.td = true ∧ ebDoneOk b (s'.spadesOk c) x.suit = true
            (¬good → exec i s = .next ((g.s.tblFault c (.job .embDesc x.table x.table)).retire c 8))
            ∧ (∀ e g', good → (work x).run.run g = (.error e, g') → exec i s = .next ((g'.s.tblFault c e).retire c 8))
            ∧ (∀ g', good → (work x).run.run g = (.ok (), g') → exec i s = .next (g'.s.retire c 8))
            ∧ (good → ecCmd b = 4 → i = .flip c f far → ∃ v, exec i s = .next v
                ∧ v.reg (.emb (.epoch x.j (Fin.ofNat 256 x.table)))
                  = BitVec.ofNat 64 (((g.s.reg (.emb (.epoch x.j (Fin.ofNat 256 x.table)))).toNat + 1) % 256))
            ∧ (good → ecCmd b = 5 → i = .mapinv c f far → ∃ v, exec i s = .next v
                ∧ v.tbl.cache = g.s.tbl.cache.filter (fun q => !(q.1.1 == x.j && q.1.2.1 == x.table)))))
  ∧ (∀ (p : PortId) (m : TblMsg) (far : List Byte) (s : State),
    let own := s.tbl.queue.contains m
    let here := s.computeOn = true ∧ (own = true ∨ (s.portUp p = true ∧ m.dst = s.devId))
    let s1 := if own then { s with tbl := { s.tbl with queue := eraseFirst (· == m) s.tbl.queue } } else s.takeTable m
    let stale := (s1.job m.jslot).epoch ≠ m.epoch ∨ (s1.job m.jslot).st = .stopped
    let runs := ¬stale ∧ (s1.job m.jslot).stop = none
    let die := if own then (match tileOf? m.tile.toNat with | some u => u.die | none => 0) else dieOfPort p
    ∀ q ∈ [(Instr.embreq p m far, ptEmbreq), (.embcmd p m far, ptEmbcmd), (.embrsp p m far, ptEmbrsp)],
      let (i, pt) := q
      ((tblCode m.body).1 ≠ pt ∨ ¬here → exec i s = .next s)
      ∧ ((tblCode m.body).1 = pt → here →
        (stale → exec i s
          = .next (if own then s1 else s1.modReg (.port p .lkdrop) (fun w => Word.addBits w 32 16 (max (s.tableWaiting m).length 1))))
        ∧ (¬stale → (s1.job m.jslot).stop.isSome = true → exec i s = .next s1)
        ∧ (runs → pt ≠ ptEmbrsp →
          (s1.jobTile m.jslot = none → exec i s = .next (s1.tblRecvFault p own m (.eng (.xlate 0 .page))))
          ∧ ∀ t, s1.jobTile m.jslot = some t →
            (s1.tblEpoch m.jslot m.table.toNat ≠ m.tepoch →
              exec i s = .next (s1.tblRecvFault p own m (.job .embEpoch m.table.toNat m.table.toNat)))
            ∧ (s1.tblEpoch m.jslot m.table.toNat = m.tepoch →
              let found := (tTable { t := t, j := m.jslot, table := m.table.toNat, td := [], suit := m.suit }).run.run
                ({ s := s1, far := far } : GS)
              let work := fun x => if pt = ptEmbreq then tRequest x die m else tCommand x die m
              (∀ e g, found = (.error e, g) → exec i s = .next (g.s.tblRecvFault p own m e))
              ∧ (∀ x g e g', found = (.ok x, g) → (work x).run.run g = (.error e, g') → exec i s = .next (g'.s.tblRecvFault p own m e))
              ∧ (∀ x g g', found = (.ok x, g) → (work x).run.run g = (.ok (), g') → exec i s = .next g'.s)))
        ∧ (runs → pt = ptEmbrsp →
          (s1.tbl.ops.find? (fun o => o.id == m.rid.toNat && o.slot == m.jslot) = none → exec i s = .next s1)
          ∧ ∀ o, s1.tbl.ops.find? (fun o => o.id == m.rid.toNat && o.slot == m.jslot) = some o →
            let x : TC := { t := o.tile, j := o.slot, table := o.table, td := o.tab, suit := o.suit, asker := some o.ctx, seq := o.seq }
            let done := (tAnswer x o m.body).run.run ({ s := s1, far := far } : GS)
            (∀ g', done = (.ok (), g') → exec i s = .next g'.s)
            ∧ (∀ e g', done = (.error e, g') → exec i s = .next (g'.s.tblRecvFault p own m e)))))

/-- The placement of rows (R274). -/
def Obligations.TablePlacementInverts : Prop :=
  ∀ (b : List Byte) (i : Nat), tdOk b = true → i < tdRows b →
    tdRowOf b (tdPlace b i).1 (tdPlace b i).2 = i ∧ (tdPlace b i).1 < tdShards b ∧ (tdPlace b i).2 < tdLocal b
    ∧ ∀ k, k < tdRows b → tdPlace b k = tdPlace b i → k = i

/-! ### Signals, barriers and waits (10_signals_barriers) -/

/-- Additions at a cell (R311). Waits are kept out: a consuming one subtracts by its own rule (R313). -/
def Obligations.SignalAddition : Prop :=
  ∀ (d : DieId) (n : Fin 65536) (s : State), s.waiters d n .signal = [] →
    (∀ i : Word, ((s.addCell d n i).cell d n).value = (s.cell d n).value + i
      ∧ ((s.addCell d n 0).cell d n) = s.cell d n ∧ (s.addCell d n i).dieReg d .cellops = s.dieReg d .cellops + 1)
    ∧ ∀ l l' : List Word, l.Perm l' →
      ((l.foldl (fun u i => u.addCell d n i) s).cell d n).value = ((l'.foldl (fun u i => u.addCell d n i) s).cell d n).value

/-- SIGREAD completes (R312). -/
def Obligations.SigreadResult : Prop :=
  ∀ (c : CtxRef) (rd rs1 rs2 : XReg) (s s' : State), Issues s c 4 s' →
    let pending := (s'.tile c.tile).tokq.any (fun q => q.ctx == some c.ctx && (match q.kind with
      | .signal _ _ => true | .sigr _ _ _ _ => true | .barrive _ _ _ => true | _ => false))
    let run := exec (.sigread c { rs2 := rs2, rs1 := rs1, rd := rd }) s
    (rs2 ≠ 0 → run = .next (s'.exception c 2 (BitVec.ofNat 64 (rWord 0x7B 2 2 { rs2 := rs2, rs1 := rs1, rd := rd }))))
    ∧ (rs2 = 0 → pending = true → run = .next (s'.stallRetry c))
    ∧ (∀ d n, rs2 = 0 → pending = false → s'.sigXlate c.tile.die (s'.jslot c.tile) (s'.vidOf c rs1) 0 false = .ok (d, n) →
      run = .next ((s'.cellOp d).retireX c rd (s'.cell d n).value))
    ∧ (∀ r, rs2 = 0 → pending = false → s'.sigXlate c.tile.die (s'.jslot c.tile) (s'.vidOf c rs1) 0 false = .error r →
      run = .next ((s'.sigFault c r (s'.vidOf c rs1)).retire c))

/-- WAIT, BWAIT and WCANCEL complete (R313, R314, R319). `flags` holds C in bit 0, I in bit 1 and H in bit 2. A consumption of a
negative threshold can meet the waits of others, which then act in R313's own order: the cell's value and the contexts are given for
one that meets none. -/
def Obligations.WaitsComplete : Prop :=
  ∀ (c : CtxRef) (rs1 rs2 rd flags : XReg) (s s' : State), Issues s c 4 s' →
    let vid := s'.vidOf c rs1
    let f : RFields := { rs2 := rs2, rs1 := rs1, rd := flags }
    let unregistered := fun (u : State) => (∀ r, u.getX c r = s'.getX c r) ∧ SameCtxs s' u c
    let goesOn := fun (u : State) => (u.ctx c).pc = (s'.ctx c).pc + 4 ∧ (u.ctx c).st = (s'.ctx c).st
    let blocks := fun (u : State) => (u.ctx c).st = .waiting ∧ (u.ctx c).pc = (s'.ctx c).pc
    ((s'.ctx c).armed = true ∨ 8 ≤ flags.val → exec (.wait c f) s = .next (s'.exception c 2 (BitVec.ofNat 64 (rWord 0x7B 3 0 f))))
    ∧ (∀ r, (s'.ctx c).armed = false → flags.val < 8 → s'.sigXlate c.tile.die (s'.jslot c.tile) vid 1 false = .error r →
      exec (.wait c f) s = .next ((s'.sigFault c r vid).retire c))
    ∧ (∀ d n, (s'.ctx c).armed = false → flags.val < 8 → s'.sigXlate c.tile.die (s'.jslot c.tile) vid 1 false = .ok (d, n) →
      let th := s'.getX c rs2
      let w : WaitRec :=
        { kind := .signal, vid := vid, die := d, cell := n, consume := flags.val.testBit 0, intr := flags.val.testBit 1,
          hold := flags.val.testBit 2, threshold := th, armed := false, met := false, rd := 0 }
      let met := signed 64 th.toNat ≤ signed 64 (s'.cell d n).value.toNat
      let taken := ((s'.cellOp d).modCell d n (fun b => { b with value := b.value - th })).judgeWaits d n
      (met → exec (.wait c f) s = .next ((if w.consume then (if w.hold then taken else taken.audit c vid (-(signed 64 th.toNat)))
          else s'.cellOp d).metAtOnce c w))
      ∧ (¬met → exec (.wait c f) s = .next ((s'.cellOp d).registerWait c w))
      ∧ ((met → w.consume = true → ∀ p ∈ s'.waiters d n .signal, meets ((s'.cell d n).value - th) p.2.threshold = false) →
        ∃ u, exec (.wait c f) s = .next u ∧ unregistered u
          ∧ (met → goesOn u ∧ (u.cell d n).value = (if w.consume then (s'.cell d n).value - th else (s'.cell d n).value)
            ∧ (w.intr = true → Word.bit (u.ctx c).mip 17 = true ∧ (u.ctx c).wait = some { w with armed := true, met := true }))
          ∧ (¬met → u.cell d n = s'.cell d n ∧ (u.ctx c).wait = some { w with armed := w.intr }
            ∧ (if w.intr then goesOn u else blocks u))))
    ∧ ((s'.ctx c).armed = true ∨ (flags ≠ 0 ∧ flags ≠ 2) →
      exec (.bwait c f) s = .next (s'.exception c 2 (BitVec.ofNat 64 (rWord 0x7B 4 1 f))))
    ∧ (∀ r, (s'.ctx c).armed = false → flags = 0 ∨ flags = 2 → s'.sigXlate c.tile.die (s'.jslot c.tile) vid 2 false = .error r →
      exec (.bwait c f) s = .next ((s'.sigFault c r vid).retire c))
    ∧ (∀ d n, (s'.ctx c).armed = false → flags = 0 ∨ flags = 2 → s'.sigXlate c.tile.die (s'.jslot c.tile) vid 2 false = .ok (d, n) →
      let round := (s'.getX c rs2).toNat % 2 ^ 32
      let closed := roundClosed (s'.cell d n).tricks round
      let w : WaitRec :=
        { kind := .barrier, vid := vid, die := d, cell := n, consume := false, intr := flags.val.testBit 1, hold := false,
          threshold := BitVec.ofNat 64 round, armed := false, met := false, rd := 0 }
      ∃ u, exec (.bwait c f) s = .next u ∧ unregistered u ∧ u.cells = s'.cells
        ∧ (closed = true → goesOn u
          ∧ (w.intr = true → Word.bit (u.ctx c).mip 17 = true ∧ (u.ctx c).wait = some { w with armed := true, met := true }))
        ∧ (closed = false → (u.ctx c).wait = some { w with armed := w.intr } ∧ (if w.intr then goesOn u else blocks u)))
    ∧ (let g : RFields := { rs2 := rs2, rs1 := rs1, rd := rd }
      (rs1 ≠ 0 ∨ rs2 ≠ 0 → exec (.wcancel c g) s = .next (s'.exception c 2 (BitVec.ofNat 64 (rWord 0x7B 3 1 g))))
      ∧ (∀ w, rs1 = 0 → rs2 = 0 → (s'.ctx c).wait = some w → w.armed = true →
        ∃ u, exec (.wcancel c g) s = .next u ∧ (u.ctx c).wait = none
          ∧ (rd ≠ 0 → u.getX c rd = if w.met then 0 else 1) ∧ (w.met = true → Word.bit (u.ctx c).mip 17 = false)
          ∧ (w.met = false → (u.ctx c).mip = (s'.ctx c).mip) ∧ (u.ctx c).pc = (s'.ctx c).pc + 4)
      ∧ (rs1 = 0 → rs2 = 0 → (s'.ctx c).armed = false → exec (.wcancel c g) s = .next (s'.retireX c rd Word.ones)))

/-- BARRV, BREL, CHASSIS_LINE_HIGH, CHASSIS_REARM, BARRIER_TIMEOUT, XFER_TIMEOUT and WRITE_NOTICE complete. -/
def Obligations.BarrierEvents : Prop :=
  ∀ (d : DieId) (n : Fin 65536) (s : State),
    let b := s.cell d n
    let at_ := fun (v : Cell) (rounds arrived : Nat) (up : Bool) =>
      v.tricks = (b.tricks + rounds) % 2 ^ 32 ∧ v.arrived = arrived ∧ v.early = 0 ∧ v.up = up
    let closes := fun (early : Nat) (v : Cell) =>
      (early ≠ b.pcount → at_ v 1 early false)
      ∧ (early = b.pcount → b.par = true ∨ b.chas = true → at_ v 1 early true)
      ∧ (early = b.pcount → early ≠ 0 → b.par = false → b.chas = false → at_ v 2 0 false)
    (∀ p k s1, k.ptype = ptBarrv → Taken s p k s1 → s1.stalePacket k = false → s1.cell d n = b →
      let vid := (ohOf k.body).vid
      (∀ r, s1.sigXlate (dieOfPort p) k.jslot (BitVec.ofNat 16 vid) 2 true = .error r →
        exec (.barrv p k) s = .next (s1.raise k.jslot r { unit := .port p, addr := vid }))
      ∧ (s1.sigXlate (dieOfPort p) k.jslot (BitVec.ofNat 16 vid) 2 true = .ok (d, n) →
        let same := ((ohOf k.body).sub % 2 == 1) = b.sense
        let s2 := (s1.modCell d n (fun c => { c with value := Word.addBits c.value 0 20 1 })).cellOp d
        (¬same → exec (.barrv p k) s = .next (s1.raise k.jslot .barrierSense { unit := .die d, addr := vid }))
        ∧ (same → b.pcount ≤ b.arrived → exec (.barrv p k) s = .next (s1.raise k.jslot .barrierOver { unit := .die d, addr := vid }))
        ∧ (same → b.arrived + 1 < b.pcount → exec (.barrv p k) s = .next s2
          ∧ (s2.cell d n).arrived = b.arrived + 1 ∧ (s2.cell d n).early = b.early ∧ (s2.cell d n).cfg = b.cfg
          ∧ s2.dieReg d .cellops = s1.dieReg d .cellops + 1)
        ∧ (same → b.arrived + 1 = b.pcount → ∃ u, exec (.barrv p k) s = .next u
          ∧ (b.par = true ∨ b.chas = true → (u.cell d n).up = true ∧ (u.cell d n).arrived = b.pcount ∧ (u.cell d n).cfg = b.cfg)
          ∧ (b.par = false → b.chas = false → closes b.early (u.cell d n)))))
    ∧ (∀ p k s1, k.ptype = ptBrel → Taken s p k s1 → s1.stalePacket k = false → s1.cell d n = b →
      let vid := (ohOf k.body).vid
      (∀ r, s1.sigXlate (dieOfPort p) k.jslot (BitVec.ofNat 16 vid) 2 true = .error r →
        exec (.brel p k) s = .next (s1.raise k.jslot r { unit := .port p, addr := vid }))
      ∧ (s1.sigXlate (dieOfPort p) k.jslot (BitVec.ofNat 16 vid) 2 true = .ok (d, n) →
        let awaited := (ohOf k.body).addr % 2 ^ 32 = b.tricks ∧ b.up = true ∧ b.par = true
        (¬awaited → exec (.brel p k) s = .next (s1.raise k.jslot .barrierSense { unit := .die d, addr := vid }))
        ∧ (awaited → ∃ u, exec (.brel p k) s = .next u ∧ closes b.early (u.cell d n))))
    ∧ (∀ l,
      let high := ∃ e m, s.chasCell = some (e, m) ∧ Tab.get ChasLine.held s.chasLines l = .released ∧ (s.cell e m).up = true
        ∧ chasLine (s.cell e m).tricks = l
      (¬high → exec (.chassisLineHigh l) s = .next s)
      ∧ (high → s.chasCell = some (d, n) → ∃ u, exec (.chassisLineHigh l) s = .next u ∧ closes b.early (u.cell d n)
        ∧ Tab.get ChasLine.held u.chasLines l = .high))
    ∧ (∀ l,
      let s1 : State := { s with chasLines := Tab.set s.chasLines l .held }
      (Tab.get ChasLine.held s.chasLines l ≠ .high → exec (.chassisRearm l) s = .next s)
      ∧ (Tab.get ChasLine.held s.chasLines l = .high → s.chasCell = none ∨ (s.chasCell = some (d, n) ∧ b.up = false) →
        exec (.chassisRearm l) s = .next s1 ∧ Tab.get ChasLine.held s1.chasLines l = .held)
      ∧ (Tab.get ChasLine.held s.chasLines l = .high → s.chasCell = some (d, n) → b.up = true →
        ∃ u, exec (.chassisRearm l) s = .next u ∧ u.cells = s.cells
          ∧ (chasLine b.tricks ≠ l → Tab.get ChasLine.held u.chasLines l = .held ∧
            (Tab.get ChasLine.held s.chasLines (chasLine b.tricks) = .held →
              Tab.get ChasLine.held u.chasLines (chasLine b.tricks) = .released))))
    ∧ (let j : JSlot := Fin.ofNat 4 b.slot
      let open_ := b.kind = 2 ∧ (b.arrived ≠ 0 ∨ b.up = true)
      (¬open_ → exec (.barrierTimeout d n) s = .next s)
      ∧ (open_ → exec (.barrierTimeout d n) s = .next (s.raise j .barrierTimeout { unit := .die d, addr := n.val }))
      ∧ (open_ → (s.job j).st = .running → (s.job j).stop = none →
        ∃ u, exec (.barrierTimeout d n) s = .next u ∧ Stops u j 0x3C ∧ u.cells = s.cells))
    ∧ (∀ t slot, ((s.tile t).xfer? slot = none → exec (.xferTimeout (.sender t slot)) s = .next s)
      ∧ ∀ x, (s.tile t).xfer? slot = some x →
        exec (.xferTimeout (.sender t slot)) s = .next (s.raiseTile t .xferTimeout { ctx := some x.ctx, extra := xferXid t slot })
        ∧ ∀ j, s.owner t = some j → (s.job j).st = .running → (s.job j).stop = none →
          ∃ u, exec (.xferTimeout (.sender t slot)) s = .next u ∧ Stops u j 0x3E)
    ∧ (∀ i, ((Tab.get [] s.psTab d)[i]? = none → exec (.xferTimeout (.receiver d i)) s = .next s)
      ∧ ∀ e, (Tab.get [] s.psTab d)[i]? = some e →
        exec (.xferTimeout (.receiver d i)) s = .next (s.raise e.slot .xferTimeout { unit := .die d, extra := e.xid.toNat })
        ∧ ((s.job e.slot).st = .running → (s.job e.slot).stop = none →
          ∃ u, exec (.xferTimeout (.receiver d i)) s = .next u ∧ Stops u e.slot 0x3E))
    ∧ (∀ i, (s.notices[i]? = none → exec (.writeNotice i) s = .next s)
      ∧ ∀ q, s.notices[i]? = some q →
        let s1 : State := { s with notices := s.notices.eraseIdx i }
        let entry := (Tab.get [] s.psTab q.home).find? (fun e => e.src == q.src && e.xid == q.xid && e.slot == q.slot)
        let room := (s.ledger.filter (fun x => x.home == q.home)).length < Config.ledgerCap
        (∀ e, entry = some e → exec (.writeNotice i) s = .next (s1.psSettle q.home { e with tally := e.tally + 1 }))
        ∧ (entry = none → room → ∃ u, exec (.writeNotice i) s = .next u ∧ u.ledger = s.ledger ++ [q] ∧ u.notices = s.notices.eraseIdx i)
        ∧ (entry = none → ¬room → exec (.writeNotice i) s
          = .next (s1.raise q.slot .kittyFull { unit := .die q.home, extra := q.xid.toNat })))

/-! ### The memory system and far pages (11_memory_system) -/

/-- SCRUB and the four range commands complete (R348, R349, R358, R359, R361, R362). RNGBASE and RNGLEN hold whole lines. -/
def Obligations.ScrubAndRangeCommands : Prop :=
  (∀ (k : StackId) (e : Ecc) (s : State), s.power.selfRefresh = false → s.computeOn = true → s.stackExcl k = false →
      let q := Word.bits (s.stackReg k .scrubpos) 0 25
      let blk := Tab.get 0 s.scrubBlk k
      let pa := s.unplace k q blk
      let dirty := (Tab.find? s.scLines (lineOf pa)).any (fun l => l.dirty)
      let found := (s.meet [pa / 64] 1).dramError pa e 1
      ∃ u, exec (.scrub k e) s = .next u
        ∧ Tab.get 0 u.scrubBlk k = (blk + 1) % 64
        ∧ Word.bits (u.stackReg k .scrubpos) 0 25 = (if blk + 1 < 64 then q else (q + 1) % 2 ^ 25)
        ∧ (dirty = false → u.poison = found.poison ∧ u.retired = found.retired ∧ (found.poison.contains (pa / 64) = false → u.mem = s.mem))
        ∧ (e = .good → s.latent = [] → u.poison = s.poison ∧ u.retired = s.retired)
        ∧ (e = .uncorrectable → dirty = false → u.poison.contains (pa / 64) = true)
        ∧ (dirty = false → ∀ j, found.poison.contains (pa / 64) = true → j ∈ found.grantees pa → (s.job j).st = .running → (u.job j).stop.isSome = true)
        ∧ (dirty = true → u.poison = s.poison ∧ u.retired = s.retired ∧ u.journal = s.journal ∧ u.mem = s.mem))
  ∧ (∀ (k : StackId) (e : Ecc) (s : State), s.power.selfRefresh = true ∨ s.computeOn = false ∨ s.stackExcl k = true →
      exec (.scrub k e) s = .next s)
  ∧ (∀ (at_ : RangeAt) (base len : Word) (force : Bool) (ways : BitVec 16) (slot : JSlot) (s : State),
      s.computeOn = false ∨ (∃ k, at_ = .stack k ∧ s.stackExcl k = true) →
      ∀ i ∈ ([.clean at_ base len, .inval at_ base len force, .clinv at_ base len force, .lockfill at_ base len ways slot] : List Instr),
        exec i s = .next s)
  ∧ (∀ (at_ : RangeAt) (k : StackId) (base len : Word) (force : Bool) (ways : BitVec 16) (slot : JSlot) (s : State),
      s.computeOn = true → s.stackExcl k = false → at_ = .stack k ∨ at_ = .all →
      let starts := fun (i : Instr) (op : Fin 4) (f : Bool) (ws : Nat) (j : JSlot) =>
        Tab.find? s.ranges k = none →
          ∃ u r, exec i s = .next u ∧ Tab.find? u.ranges k = some r ∧ r.op = op ∧ r.force = f ∧ r.ways = ws ∧ r.slot = j
            ∧ r.base / 128 % 2 ^ 41 = base.toNat / 128 % 2 ^ 41 ∧ r.len / 128 % 2 ^ 34 = len.toNat / 128 % 2 ^ 34
            ∧ Word.bit (u.stackReg k .rngstat) 0 = true ∧ Word.bits (u.stackReg k .rngstat) 32 32 = 0
            ∧ u.mem = s.mem ∧ u.scLines = s.scLines
      starts (.clean at_ base len) 0 false 0 0
      ∧ starts (.inval at_ base len force) 1 force 0 0
      ∧ starts (.clinv at_ base len force) 2 force 0 0
      ∧ (ways.toNat &&& s.waysOf k slot = ways.toNat → starts (.lockfill at_ base len ways slot) 3 false ways.toNat slot)
      ∧ (∀ i r, i ∈ ([.clean at_ base len, .inval at_ base len force, .clinv at_ base len force, .lockfill at_ base len ways slot] : List Instr) →
          Tab.find? s.ranges k = some r →
          ∃ u, exec i s = .next u ∧ Tab.find? u.ranges k = some r ∧ Word.bit (u.stackReg k .rngstat) 1 = true ∧ u.mem = s.mem)
      ∧ (Tab.find? s.ranges k = none → ways.toNat &&& s.waysOf k slot ≠ ways.toNat →
          ∃ u, exec (.lockfill at_ base len ways slot) s = .next u ∧ Tab.find? u.ranges k = none
            ∧ Word.bit (u.stackReg k .rngstat) 1 = true ∧ u.mem = s.mem ∧ u.scLines = s.scLines))

/-- RANGE_COMPLETE completes (R358 to R361). The lines are handled in one step (log 49). -/
def Obligations.RangeEngineResults : Prop :=
  ∀ (k : StackId) (s : State), (Tab.find? s.ranges k = none → exec (.rangeComplete k) s = .next s) ∧ ∀ r, Tab.find? s.ranges k = some r →
    let stays := fun (l : ScLine) => s.wayLocked k l.way = true ∧ r.force = false
    ∃ u, exec (.rangeComplete k) s = .next u ∧ Tab.find? u.ranges k = none ∧ Word.bit (u.stackReg k .rngstat) 0 = false
      ∧ (r.op = 0 → u.mem = s.mem ∧ ∀ line, (Tab.find? u.scLines line).isSome = (Tab.find? s.scLines line).isSome
          ∧ (line ∈ s.rangeLines k r → ∀ l, Tab.find? u.scLines line = some l → l.dirty = false))
      ∧ (r.op = 1 ∨ r.op = 2 →
          (∀ line ∈ s.rangeLines k r, ∀ l, Tab.find? s.scLines line = some l → (stays l → Tab.find? u.scLines line = some l)
            ∧ (¬stays l → Tab.find? u.scLines line = none))
          ∧ (∀ line, line ∉ s.rangeLines k r → Tab.find? u.scLines line = Tab.find? s.scLines line))
      ∧ (r.op = 2 → u.mem = s.mem)
      ∧ (r.op = 1 → ∃ dropped : List (Nat × ScLine),
          u.mem = dropped.foldl (fun m d => Mem.setBytes m (d.1 * 128) d.2.back) s.mem
          ∧ ∀ line l, (line, l) ∈ dropped ↔ line ∈ s.rangeLines k r ∧ Tab.find? s.scLines line = some l ∧ ¬stays l ∧ l.dirty = true)
      ∧ (r.op = 3 → u.mem = s.mem ∧ ∀ line, ((Tab.find? s.scLines line).isSome → (Tab.find? u.scLines line).isSome)
          ∧ ∀ l, Tab.find? u.scLines line = some l → Tab.find? s.scLines line = none →
              line ∈ s.rangeLines k r ∧ r.ways.testBit l.way = true ∧ l.dirty = false)

/-- FARRD, FARWR, FARAMO, FARRSP and FAR_TIMEOUT complete (R363 to R366, R390). -/
def Obligations.FarAccesses : Prop :=
  (∀ (p : PortId) (k : Packet) (s s1 : State), Taken s p k s1 → s1.stalePacket k = false →
      let h := ohOf k.body
      let data := k.body.drop 16
      let served := fun (pa : Nat) => s1.modReg (.stack (s1.place pa).stack .farsrv) (· + 1)
      let back := fun (t : State) (pa sub : Nat) (d : List Byte) =>
        t.reply (t.sliceDie pa) k ptFarrsp true { addr := h.addr, sub := sub, xid := h.xid, xseq := h.xseq } d
      let refused := fun (pa : Nat) => s1.raise k.jslot .farGrant { unit := .port p, addr := pa, extra := k.sdev.toNat }
      let poisons := fun (t : State) (pa : Nat) =>
        t.raise k.jslot .dramUe { unit := .port p, addr := pa, src := some k.sdev, found := some 0 }
      let grant := fun (i : Instr) (pa n : Nat) (read : Bool) =>
        s1.spillEntry (dieOfPort p) k.sdev pa n read = none ∨ s1.dramTop < pa + n →
          exec i s = .next (refused pa)
          ∧ ((s1.job k.jslot).st = .running → (s1.job k.jslot).stop = none → Stops (refused pa) k.jslot 0x42)
      (k.ptype = ptFarrd →
        let n := 16 * (h.sub + 1)
        let r := (served h.addr).readAt h.addr n
        grant (.farrd p k) h.addr n true
        ∧ (∀ e, s1.spillEntry (dieOfPort p) k.sdev h.addr n true = some e → h.addr + n ≤ s1.dramTop →
          (r.1 = none → exec (.farrd p k) s = .next (poisons r.2 h.addr))
          ∧ (∀ b, r.1 = some b → exec (.farrd p k) s = .next (back (r.2.countFar e 0 (units64 h.addr n)) h.addr h.sub b))))
      ∧ (k.ptype = ptFarwr →
        let t := if h.vid = 0xFFFF then (served h.addr).writeAt h.addr data
          else ((served h.addr).writeMasked h.addr (data.take 16) h.vid).writeAt (h.addr + 16) (data.drop 16)
        grant (.farwr p k) h.addr data.length false
        ∧ (∀ e, s1.spillEntry (dieOfPort p) k.sdev h.addr data.length false = some e → h.addr + data.length ≤ s1.dramTop →
          exec (.farwr p k) s = .next (back (t.countFar e 1 (units64 h.addr data.length)) h.addr 0 [])))
      ∧ (k.ptype = ptFaramo →
        let n := if h.aw then 8 else 4
        let pa := h.addr / n * n
        let v := leAt k.body 16 8
        grant (.faramo p k) pa n false
        ∧ (∀ e, s1.spillEntry (dieOfPort p) k.sdev pa n false = some e → pa + n ≤ s1.dramTop →
          let t := (served pa).countFar e 2 1
          let u := t.scTouch pa n (h.sub != 9)
          let tag := tagOf (leAt k.body 24 8)
          (tag = none → exec (.faramo p k) s = .next (t.malformed p k))
          ∧ ∀ tg, tag = some tg →
            (h.sub ≤ 9 → u.poisoned pa n = true → exec (.faramo p k) s = .next (poisons u pa))
            ∧ (h.sub ≤ 8 → u.poisoned pa n = false → ∃ op, amoOf? h.sub = some op ∧
              exec (.faramo p k) s = .next (back ((u.write pa (leBytes n (amoEval op (8 * n) (u.num pa n) v))).spoilRings pa n) pa 0
                (leBytes 16 (u.num pa n))))
            ∧ (h.sub = 9 → u.poisoned pa n = false →
              exec (.faramo p k) s = .next (back (u.farReserve k.sdev tg.1 tg.2 pa) pa 0 (leBytes 16 (u.num pa n))))
            ∧ (h.sub = 10 → t.farHeld k.sdev tg.1 tg.2 pa = true →
              exec (.faramo p k) s = .next (back ((t.dropFar k.sdev tg.1 tg.2).writeAt pa (leBytes n v)) pa 0 (leBytes 16 0)))
            ∧ (h.sub = 10 → t.farHeld k.sdev tg.1 tg.2 pa = false →
              exec (.faramo p k) s = .next (back (t.dropFar k.sdev tg.1 tg.2) pa 0 (leBytes 16 1)))))
      ∧ (k.ptype = ptFarrsp →
        let ctx : Option CtxId := if h.xid % 64 < 32 then some (Fin.ofNat 32 (h.xid % 64)) else none
        (tileOfOrd? (h.xid / 64) = none → exec (.farrsp p k) s = .next s1)
        ∧ ∀ t, tileOfOrd? (h.xid / 64) = some t →
          let asked := (s1.tile t).memq.find? (fun o => some o.ctx == ctx && o.sent && o.place == Place.far k.sdev)
          (∀ o, h.xseq = 0 → asked = some o → exec (.farrsp p k) s = .next (s1.farDone t o data))
          ∧ (h.xseq = 0 → asked = none → exec (.farrsp p k) s = .next s1)
          ∧ (h.xseq ≠ 0 → ∃ u, exec (.farrsp p k) s = .next u
            ∧ u.farWaits = eraseFirst (fun w => w.tile == t && w.ctx == ctx && w.dev == k.sdev) s1.farWaits
            ∧ u.mem = s1.mem ∧ u.regs = s1.regs)))
  ∧ (∀ (t : TileId) (ctx : Option CtxId) (s : State),
      let scalar := (s.tile t).memq.find? (fun o => some o.ctx == ctx && o.sent)
      let engine := s.farWaits.find? (fun w => w.tile == t && w.ctx == ctx)
      let late := fun (pa : Nat) => s.raiseTile t .farTimeout { ctx := ctx, addr := pa }
      (∀ o, scalar = some o → exec (.farTimeout t ctx) s = .next (late o.pa))
      ∧ (∀ w, scalar = none → engine = some w → exec (.farTimeout t ctx) s = .next (late w.pa))
      ∧ (scalar = none → engine = none → exec (.farTimeout t ctx) s = .next s)
      ∧ (∀ pa j, s.owner t = some j → (s.job j).st = .running → (s.job j).stop = none → Stops (late pa) j 0x43))

/-! ### The Espex links (12_espex_links) -/

/-- LINK_TRAINING, FAST_RETRAIN, LANE_ERROR_THRESHOLD, RETRY_TIMEOUT, LINK_DOWN, LPIENTER and LPIEXIT complete. The state of a
port whose training fails is the model's reading (log 47). -/
def Obligations.LinkStates : Prop :=
  ∀ (p : PortId) (r : Training) (s : State),
    let maxw := Word.bits (s.portReg p .portcfg) 1 2
    let width := fun (r : Training) (bad : Nat) => max (laneWidth (goodLanes r bad) maxw) (laneWidth r.peerOk.toNat maxw)
    let l := s.link p
    let trains := s.computeOn = true ∧ s.portExcl p = false ∧ Word.bit (s.portReg p .portcfg) 0 = true ∧ s.portState p < 2
    (¬trains → exec (.linkTraining p r) s = .next s)
    ∧ (trains → r.order ≠ .other → width r 0 ≠ 3 → ∃ u, exec (.linkTraining p r) s = .next u ∧ u.portUp p = true
        ∧ Word.bits (u.portReg p .portstat) 3 2 = width r 0 ∧ Word.bits (u.portReg p .portstat) 10 14 = r.nbrDev.toNat
        ∧ Word.bits (u.portReg p .portstat) 24 4 = r.nbrPort.val ∧ (u.link p).rxSeq = 0 ∧ (u.link p).badLanes = 0
        ∧ (u.link p).rxLanes = lanesUsed (goodLanes r 0) (width r 0) ∧ (u.link p).txLanes = lanesUsed r.peerOk.toNat (width r 0)
        ∧ u.mem = s.mem)
    ∧ (trains → r.order = .other ∨ width r 0 = 3 → ∃ u, exec (.linkTraining p r) s = .next u ∧ u.portUp p = false
        ∧ Word.bits (u.portReg p .portstat) 3 2 = 3 ∧ u.links = s.links)
    ∧ (∀ lane : Fin 4, (s.portUp p = false → exec (.laneErrorThreshold p lane) s = .next s)
      ∧ (s.portUp p = true → ∃ u, exec (.laneErrorThreshold p lane) s = .next u ∧ u.portState p = 3
        ∧ (u.link p).badLanes.testBit lane.val = true ∧ (u.link p).rxok.testBit lane.val = false ∧ (u.link p).rtreq = true
        ∧ (u.link p).replay = l.replay))
    ∧ (let retrains := (s.portState p = 2 ∨ s.portState p = 3 ∨ (s.portState p = 4 ∧ l.lost = false)) ∧ l.eqSaved = true
      let q : Training := { l.saved with peerOk := r.peerOk, poor := l.saved.poor ||| r.poor }
      (¬retrains → exec (.fastRetrain p r) s = .next s)
      ∧ (retrains → width q l.badLanes ≠ 3 →
        ∃ u, exec (.fastRetrain p r) s = .next u ∧ u.portUp p = true ∧ Word.bits (u.portReg p .portstat) 3 2 = width q l.badLanes
          ∧ (u.link p).badLanes = l.badLanes ∧ (u.link p).tsOpen = none ∧ l.replay <+: (u.link p).replay)
      ∧ (retrains → width q l.badLanes = 3 →
        ∃ u, exec (.fastRetrain p r) s = .next u ∧ u.portState p = 4 ∧ Word.bits (u.portReg p .portstat) 3 2 = 3 ∧ (u.link p).lost = true))
    ∧ (s.portUp p = false ∨ l.replay = [] → exec (.retryTimeout p) s = .next s)
    ∧ (s.portUp p = true → l.replay ≠ [] →
        ∃ u, exec (.retryTimeout p) s = .next u
          ∧ (l.retrying = false → (u.link p).retrying = true ∧ u.portUp p = true)
          ∧ (l.retrying = true → l.fails < 7 → (u.link p).fails = l.fails + 1 ∧ u.portUp p = true)
          ∧ (l.retrying = true → 7 ≤ l.fails → u.portState p = 4))
    ∧ (s.portState p ≠ 4 → exec (.linkDown p) s = .next s)
    ∧ (s.portState p = 4 → ∃ u, exec (.linkDown p) s = .next u ∧ Word.bits (u.portReg p .portstat) 3 2 = 3 ∧ (u.link p).lost = true
        ∧ ∀ j, (s.job j).st = .running → (s.job j).stop = none → (u.job j).stop = some 0x48)
    ∧ (s.portUp p = true → ∃ u, exec (.lpienter p) s = .next u ∧ u.portState p = 5 ∧ u.links = s.links)
    ∧ (s.portUp p = false → exec (.lpienter p) s = .next s)
    ∧ (s.portState p = 5 → ∃ u, exec (.lpiexit p) s = .next u ∧ u.portUp p = true)
    ∧ (s.portState p ≠ 5 → exec (.lpiexit p) s = .next s)

/-- DATA_FLIT, TIMESYNC_PERIOD, TSREQ and TSRSP complete (R379, R380, R385, R386, R395, R401). -/
def Obligations.FlitsAndTime : Prop :=
  ∀ (p : PortId) (x : FecIn) (s : State),
    let up := s.portUp p = true ∧ s.computeOn = true
    (¬up → exec (.dataFlit p x) s = .next s)
    ∧ (up → fecDecode (s.rxWidth p) x.lanes = none → exec (.dataFlit p x) s = .next ((s.bumpHi (.port p .lkfec)).flitGap p))
    ∧ (∀ b, up → fecDecode (s.rxWidth p) x.lanes = some b →
      let f := b.flits.getD x.flit.val []
      let w := leAt f 0 12
      let s1 := if x.flit = 0 then s.blockHeader p b else s
      let ahead := (bitsOf w 2 12 + 4096 - (s1.link p).rxSeq) % 4096
      let asks := fun (t : State) => if x.flit = 0 ∧ (t.link p).peerRtreq = true ∧ t.portUp p = true then t.setPortState p 3 else t
      (flitCrcOk f = false → exec (.dataFlit p x) s = .next (asks (s1.flitGap p)))
      ∧ (flitCrcOk f = true → w % 4 = 1 → exec (.dataFlit p x) s = .next (asks (s1.flitHeader p f)))
      ∧ (flitCrcOk f = true → 2 ≤ w % 4 → exec (.dataFlit p x) s = .next (asks s1))
      ∧ (flitCrcOk f = true → w % 4 = 0 → 2048 ≤ ahead → exec (.dataFlit p x) s = .next (asks (s1.linkReport p)))
      ∧ (flitCrcOk f = true → w % 4 = 0 → ahead ≠ 0 → ahead < 2048 → exec (.dataFlit p x) s = .next (asks (s1.flitGap p)))
      ∧ (flitCrcOk f = true → w % 4 = 0 → ahead = 0 →
        let b := (s1.link p).partials ++ f.drop 16
        let cut := cutPackets (b.length / 16) b
        exec (.dataFlit p x) s = .next (asks (cut.1.foldl (fun t k => t.packetArrives p k)
          ((((s1.modReg (.port p .lkrx) (· + 1)).modLink p
            (fun l => { l with gap := false, rxSeq := (l.rxSeq + 1) % 4096, partials := cut.2, anyRx := true })).flitHeader p f).linkReport p)))))
    ∧ (s.portUp p = false → exec (.timesyncPeriod p) s = .next s
      ∧ ∀ (t1 t2 t3 : Stamp), exec (.tsreq p t1) s = .next s ∧ exec (.tsrsp p t1.ns t2 t3) s = .next s)
    ∧ (s.portUp p = true → ∃ u, exec (.timesyncPeriod p) s = .next u ∧ (u.link p).tsOpen = some s.timebase
        ∧ (u.link p).ctlOut = (s.link p).ctlOut ++ [ctlMsg 1 s.now (s.timebase % 2 ^ 16) 0])
    ∧ (∀ (t1 : Stamp), s.portUp p = true → ∃ u m, exec (.tsreq p t1) s = .next u ∧ (u.link p).ctlOut = (s.link p).ctlOut ++ [m]
        ∧ m.length = 32 ∧ m.take 16 = ctlMsg 2 s.now (s.timebase % 2 ^ 16) (s.timebase % 2 ^ 16)
        ∧ leAt m 16 8 = t1.ns.toNat ∧ leAt m 24 8 = s.now % 2 ^ 64)
    ∧ (∀ (t1 : Word) (t2 t3 : Stamp),
      let opened := ∃ a, (s.link p).tsOpen = some a ∧ a / 2 ^ 16 % 2 ^ 64 = t1.toNat
      let closed := s.modLink p (fun l => { l with tsOpen := none })
      let parent := Word.bit (s.portReg 0 .timecfg) 4 = true ∧ Word.bits (s.portReg 0 .timecfg) 0 4 = p.val
      let t2' : Int := t2.ns.toNat * 2 ^ 16 + t2.frac.toNat
      let t3' : Int := t3.ns.toNat * 2 ^ 16 + t3.frac.toNat
      (s.portUp p = true → ¬opened → exec (.tsrsp p t1 t2 t3) s = .next s)
      ∧ (s.portUp p = true → opened → ¬parent → exec (.tsrsp p t1 t2 t3) s = .next closed)
      ∧ (∀ a, s.portUp p = true → (s.link p).tsOpen = some a → a / 2 ^ 16 % 2 ^ 64 = t1.toNat → parent →
        exec (.tsrsp p t1 t2 t3) s
          = .next ((closed.modLink p (fun l => { l with delay := ((t2' - a) + ((s.timebase : Int) - t3')) / 2 })).measured 1
              (((t2' - a) - ((s.timebase : Int) - t3')) / 2 / 2 ^ 16))))

/-- TOKEN_PACKET, PUT, PUTS, XACK, GETREQ, GETDATA, SIGR and FAULT complete; and for the packets of the other commands that take one,
what happens to one that is not taken. `s0` is the state without the packet among those that wait for an entry. -/
def Obligations.PacketsAtTheReceiver : Prop :=
  ∀ (p : PortId) (k : Packet) (far : List Byte) (s : State),
    let h := ohOf k.body
    let die := dieOfPort p
    let data := k.body.drop 16
    let tok := tokOf (slice k.body 0 16) data
    let here := s.inbox.contains (p, k) || s.localPkts.contains k
    let dropped := fun (t : State) => t.modReg (.port p .lkdrop) (fun w => Word.addBits w 32 16 1)
    let s0 : State := { s with psWaiting := s.psWaiting.filter (fun x => x != k) }
    let home := s.sigXlate die k.jslot (BitVec.ofNat 16 h.vid) 1 true
    let waits := k.ptype = ptPuts ∧ s.computeOn = true ∧ s.stalePacket k = false ∧ pkOk k = true ∧ pkSignalBearing k = true
      ∧ (here = true ∨ (s.portUp p = true ∧ Word.bit (s.routeEntry die k.ddev) 20 = true))
      ∧ ∃ d n, home = .ok (d, n) ∧ 256 ≤ (Tab.get [] s.psTab d).length
    let types : List (Instr × BitVec 6) :=
      [(.tokenPacket p k, ptToken), (.xack p k, ptXack), (.getreq p k far, ptGetreq), (.getdata p k, ptGetdata), (.sigr p k, ptSigr),
        (.barrv p k, ptBarrv), (.brel p k, ptBrel), (.farrd p k, ptFarrd), (.farwr p k, ptFarwr), (.faramo p k, ptFaramo),
        (.farrsp p k, ptFarrsp), (.put p k, if k.ptype = ptPuts ∧ pkSignalBearing k = false then ptPuts else ptPut)]
    let untaken := fun (i : Instr) (s : State) =>
      (s.computeOn = true → s.behind p k = true → here = true ∨ s.portUp p = false ∨ pkOk k = false → exec i s = .next s)
      ∧ (s.computeOn = true → s.behind p k = true → here = false → s.portUp p = true → pkOk k = true →
        exec i s = .next { s with inbox := s.inbox ++ [(p, k)] })
      ∧ (s.computeOn = true → s.behind p k = false → here = false → s.portUp p = true → pkOk k = true →
        Word.bit (s.routeEntry die k.ddev) 20 = false → exec i s = .next (s.forwardPacket p k))
      ∧ (s.computeOn = true → here = false → s.portUp p = false → exec i s = .next s)
      ∧ (∀ s1, s.computeOn = true → s.behind p k = false → s.takePacket p k = some s1 → pkOk k = false →
        exec i s = .next (s1.malformed p k))
      ∧ (∀ s1, Taken s p k s1 → k.ptype ≠ ptToken → s1.stalePacket k = true →
        exec i s = .next (if ptTransfer k.ptype then (dropped s1).modReg (.die die .psstale) (· + 1) else dropped s1))
    (∀ q ∈ types, (k.ptype ≠ q.2 ∨ s.computeOn = false → exec q.1 s = .next s) ∧ (k.ptype = q.2 → untaken q.1 s))
    ∧ (∀ s1, Taken s p k s1 → k.ptype = ptToken →
      exec (.tokenPacket p k) s = .next (if tok.ddev = k.ddev then s1.meshIn tok else s1.malformed p k))
    ∧ (∀ s1, Taken s p k s1 → s1.stalePacket k = false →
      (∀ ok s2, k.ptype = ptPut → s1.peerWrite p k h.addr data = (ok, s2) →
        exec (.put p k) s
          = .next (if ok then s2.reply die k ptXack false { xid := h.xid, xseq := h.xseq, nm1 := h.nm1 } [] else s2))
      ∧ (∀ s2, k.ptype = ptPuts → pkSignalBearing k = false → s1.peerWrite p k h.addr data = (false, s2) → exec (.put p k) s = .next s2)
      ∧ (∀ s2, k.ptype = ptPuts → pkSignalBearing k = false → s1.peerWrite p k h.addr data = (true, s2) →
        (∀ d n, s2.sigXlate die k.jslot (BitVec.ofNat 16 h.vid) 1 true = .ok (d, n) →
          exec (.put p k) s
            = .next { s2 with notices := s2.notices ++ [{ home := d, src := k.sdev, xid := BitVec.ofNat 16 h.xid, slot := k.jslot }] })
        ∧ (∀ r, s2.sigXlate die k.jslot (BitVec.ofNat 16 h.vid) 1 true = .error r →
          exec (.put p k) s = .next (s2.raise k.jslot r { unit := .port p, addr := h.vid, extra := h.xid })))
      ∧ (let at_ := (xidTile h.xid).bind (fun x => ((s1.tile x.1).xfer? x.2).map (fun y => (x.1, y)))
        (k.ptype = ptXack →
          (at_ = none → exec (.xack p k) s = .next s1)
          ∧ ∀ t x, at_ = some (t, x) →
            let x' := { x with got := if x.got.contains h.xseq then x.got else x.got ++ [h.xseq] }
            exec (.xack p k) s = .next (if x.peer ≠ k.sdev ∨ x.op = 1 then s1
              else if x.op = 2 ∨ x'.got.length = xferN x then s1.completeXfer t x' else s1.setXfer t x'))
        ∧ (k.ptype = ptGetdata →
          (at_ = none → exec (.getdata p k) s = .next s1)
          ∧ ∀ t x, at_ = some (t, x) →
            let x' := { x with got := x.got ++ [h.xseq] }
            let mine := x.peer = k.sdev ∧ x.op = 1 ∧ x.got.contains h.xseq = false
            (¬mine → exec (.getdata p k) s = .next s1)
            ∧ (∀ s2, mine → s1.engineWrite t x.priv (xferBy x) (x.lva + 256 * h.xseq) data = (.ok (), s2) →
              exec (.getdata p k) s = .next (if x'.got.length = xferN x then s2.completeXfer t x' else s2.setXfer t x'))
            ∧ (∀ e s2, mine → s1.engineWrite t x.priv (xferBy x) (x.lva + 256 * h.xseq) data = (.error e, s2) →
              exec (.getdata p k) s = .next (s2.raiseEngine t (some x.ctx) e { engine := some .transfer, xid := some h.xid }))))
      ∧ (k.ptype = ptGetreq →
        (s1.jobTile k.jslot = none → exec (.getreq p k far) s = .next (s1.raisePeer p k (.xlate h.addr .page)))
        ∧ ∀ t s2, s1.jobTile k.jslot = some t →
          (∀ d, s1.engineRead t .u (peerBy k) h.addr (16 * (h.sub + 1)) far = (.ok d, s2) →
            exec (.getreq p k far) s
              = .next (s2.reply die k ptGetdata false { sub := h.sub, xid := h.xid, xseq := h.xseq, nm1 := h.nm1 } d.data))
          ∧ (∀ e, s1.engineRead t .u (peerBy k) h.addr (16 * (h.sub + 1)) far = (.error e, s2) →
            exec (.getreq p k far) s = .next (s2.raisePeer p k e)))
      ∧ (k.ptype = ptSigr →
        (∀ d n, s1.sigXlate die k.jslot (BitVec.ofNat 16 h.vid) 1 true = .ok (d, n) →
          exec (.sigr p k) s = .next (s1.addCell d n (BitVec.ofNat 64 (leAt k.body 16 8))))
        ∧ (∀ r, s1.sigXlate die k.jslot (BitVec.ofNat 16 h.vid) 1 true = .error r →
          exec (.sigr p k) s = .next (s1.raise k.jslot r { unit := .port p, addr := h.vid }))))
    ∧ (pkSignalBearing k = false → exec (.puts p k) s = .next s)
    ∧ (waits → exec (.puts p k) s = .next (
        let t : State := if here then s else { s with inbox := s.inbox ++ [(p, k)] }
        if s.psWaiting.contains k then t else ({ t with psWaiting := t.psWaiting ++ [k] } : State).modReg
          (.die (match home with | .ok (d, _) => d | .error _ => 0) .psbp) (· + 1)))
    ∧ (pkSignalBearing k = true → s.psWaiting.contains k = false → ¬waits →
      (s.computeOn = false → exec (.puts p k) s = .next s) ∧ untaken (.puts p k) s)
    ∧ (∀ r s1, pkSignalBearing k = true → home = .error r → Taken s p k s1 → s1.stalePacket k = false →
      exec (.puts p k) s = .next (s1.raise k.jslot r { unit := .port p, addr := h.vid, extra := h.xid }))
    ∧ (∀ d n s1, pkSignalBearing k = true → home = .ok (d, n) → ¬waits → Taken s0 p k s1 → s1.stalePacket k = false →
      let mine := fun (x : Notice) => x.home == d && x.src == k.sdev && x.xid == BitVec.ofNat 16 h.xid && x.slot == k.jslot
      let e : PsEntry :=
        { src := k.sdev, xid := BitVec.ofNat 16 h.xid, die := d, cell := n, inc := BitVec.ofNat 64 (leAt k.body 16 8), n := h.nm1 + 1,
          tally := (s1.ledger.filter mine).length, slot := k.jslot, suit := pkSuit k }
      let l := Tab.get [] s1.psTab d ++ [e]
      let s2 := ({ s1 with ledger := s1.ledger.filter (fun x => !mine x), psTab := Tab.set s1.psTab d l } : State).modReg (.die d .psocc)
        (fun w => Word.setBits (Word.setBits w 0 9 l.length) 32 9 (max (Word.bits w 32 9) l.length))
      ∀ ok s3, s2.peerWrite p k h.addr (k.body.drop 32) = (ok, s3) →
        exec (.puts p k) s = .next (if ok then s3.psSettle d { e with tally := e.tally + 1 } else s3))
    ∧ (k.ptype ≠ ptFault ∨ s.computeOn = false ∨ s.takePacket p k = none → exec (.fault p k) s = .next s)
    ∧ (∀ s1, k.ptype = ptFault → s.computeOn = true → s.takePacket p k = some s1 →
      let runs := (s1.job k.jslot).st = .running ∧ (s1.job k.jslot).epoch = k.epoch
      (pkOk k = false → exec (.fault p k) s = .next (s1.malformed p k))
      ∧ (pkOk k = true → ¬runs → exec (.fault p k) s = .next (dropped s1))
      ∧ (pkOk k = true → runs → (s1.job k.jslot).stop.isSome = true → exec (.fault p k) s = .next s1)
      ∧ (pkOk k = true → runs → (s1.job k.jslot).stop = none → ∃ u, exec (.fault p k) s = .next u ∧ Stops u k.jslot (leAt k.body 16 1)
        ∧ ((∀ t, ∀ x ∈ (s1.tile t).saved, x.wait = none) → u.mem = s1.mem)))

/-! ### The host port and GXHT (13_host_ethernet) -/

/-- The GXHT commands complete. The rights that each type needs are the model's reading (log 51). -/
def Obligations.GxhtPackets : Prop :=
  ∀ (i : HtIn) (c : Fin 1024) (s : State),
    let p := i.pkt
    let k := (marking s i c).conn c
    let reserved := p.typ == htGetrsp || p.typ == 0 || decide (htAck.toNat < p.typ.toNat)
    let cmds : List (Instr × Bool) := [(.gxhtToken i, p.typ == htToken), (.gxhtPut i, p.typ == htPut), (.gxhtGetreq i true, p.typ == htGetreq),
      (.gxhtMgmt i, p.typ == htMgmt), (.gxhtGetrsp i, reserved)]
    let all := cmds ++ [(.gxhtAck i, p.typ == htAck)]
    let entered := s.hostUp = true ∧ s.frameOk i.sec = true ∧ s.datagramOk i = true ∧ p.ver = 1
    let marks := if i.ce then s.modReg (.host .htce) (· + 1) else s
    (∀ x, (x, false) ∈ all → exec x s = .next s)
    ∧ (∀ x, (x, true) ∈ all →
        (s.hostUp = false → exec x s = .next s)
        ∧ (s.hostUp = true → s.frameOk i.sec = false → exec x s = .next (s.bumpHi (.host .htfcs)))
        ∧ (s.hostUp = true → s.frameOk i.sec = true → s.datagramOk i = false ∨ p.ver ≠ 1 → exec x s = .next (s.htDrop 2))
        ∧ (entered → 1024 ≤ p.conn.toNat → exec x s = .next (marks.ackNone i))
        ∧ (entered → p.conn.toNat = c.val →
          ((s.conn c).st = .free → exec x s = .next (marks.ackNone i))
          ∧ ((s.conn c).st = .held → exec x s = .next (((marks.marked c i.ce).htDrop 1).ackConn c p 5))
          ∧ ((s.conn c).st = .failed → exec x s = .next (((marks.marked c i.ce).htDrop 1).ackConn c p 2))))
    ∧ (∀ gap s', Arrives s i c .never gap s' → (marking s i c).htStatus k p = 0 →
        (p.typ = htToken → exec (.gxhtToken i) s = .next (afterPacket ((s'.hostTokens c p gap).tryMessages c) c p gap))
        ∧ (p.typ = htPut → exec (.gxhtPut i) s
            = .next (afterPacket (((s'.writeAt (p.arg.toNat % 2 ^ 48) p.payload).finishRx c p 0 gap).tryMessages c) c p gap))
        ∧ (p.typ = htGetreq → exec (.gxhtGetreq i true) s = .next (afterPacket ((s'.hostGet c p gap).tryMessages c) c p gap)))
    ∧ (∀ gap s', Arrives s i c .mgmt gap s' → (marking s i c).htStatus k p = 0 → p.typ = htMgmt →
        exec (.gxhtMgmt i) s = .next (afterPacket (s'.tryMessages c) c p gap))
    ∧ (∀ gap s' st x, Arrives s i c .never gap s' → (marking s i c).htStatus k p = st → st ≠ 0 → (x, true) ∈ cmds →
        exec x s = .next (afterPacket ((s'.refuse c p st).tryMessages c) c p gap))
    ∧ (reserved = true → (marking s i c).htStatus k p = 4)
    ∧ (∀ x, (x, true) ∈ cmds → Enters s i c →
        (∀ e, k.seenAt p.psn.toNat = some e →
          exec x s = .next (if e.isDone then ((marking s i c).htDrop 0).ackConn c p e.status else (marking s i c).htDrop 0))
        ∧ (k.seenAt p.psn.toNat = none → 2 ^ 31 ≤ psnDist k.rxNext p.psn.toNat →
          exec x s = .next (((marking s i c).htDrop 0).ackConn c p (k.statusOf p.psn.toNat)))
        ∧ (k.seenAt p.psn.toNat = none → psnDist k.rxNext p.psn.toNat < 2 ^ 31 → htWindow ≤ psnDist k.rxNext p.psn.toNat →
          exec x s = .next ((marking s i c).htDrop 0)))
    ∧ (exec (.gxhtGetreq i false) s = .next (if p.typ = htGetreq ∧ s.hostUp = true then s.htDrop 3 else s))
    ∧ (p.typ = htAck → Enters s i c →
        let formed := p.rsv = false ∧ p.plen = 48 ∧ p.payload.length = 48 ∧ p.arg = 0
        let covered := fun (x : HtSent) => x.left && (psnBefore x.pkt.psn.toNat p.psn.toNat || (ackRanges p.payload).any (inRange x.pkt.psn.toNat))
        (¬formed → exec (.gxhtAck i) s = .next (((marking s i c).htDrop 2).ackConn c p 4))
        ∧ (formed → ∃ u, exec (.gxhtAck i) s = .next u
          ∧ (u.conn c).unacked.map (·.pkt) = ((s.conn c).unacked.filter (fun x => !covered x)).map (·.pkt)
          ∧ ((s.conn c).unacked.any covered = true → (u.conn c).timeouts = 0)))
    ∧ (let first := (s.conn c).unacked.find? (fun x => x.left)
      let limit := Word.bits (s.hostReg .htcfg) 56 4
      let base := ((s.conn c).unacked.head?.map (fun x => x.pkt.psn.toNat)).getD 0
      (first = none ∨ (s.conn c).st ≠ .opened → exec (.retransmitTimeout c) s = .next s)
      ∧ ∀ x, (s.conn c).st = .opened → first = some x →
        ∃ u, exec (.retransmitTimeout c) s = .next u
        ∧ ((s.conn c).timeouts + 1 < limit → (u.conn c).timeouts = (s.conn c).timeouts + 1
            ∧ (u.conn c).rto = min 100000 (2 * (s.conn c).rto)
            ∧ (s.hostUp = true → s.suitPaused x.pkt.suit = false → psnDist base x.pkt.psn.toNat < htWindow →
              .gxht (s.htFrame (s.gxhtPeer (s.conn c).peer) { x.pkt with ts := BitVec.ofNat 64 s.now }) ∈ u.host.out))
        ∧ (limit ≤ (s.conn c).timeouts + 1 → ((s.conn c).jb && (s.conn c).hb) = false → (u.conn c).st = .failed)
        ∧ (limit ≤ (s.conn c).timeouts + 1 → ((s.conn c).jb && (s.conn c).hb) = true →
            (s.job (s.conn c).jslot).st = .running → (s.job (s.conn c).jslot).stop = none → Stops u (s.conn c).jslot 0x50))
    ∧ ((s.conn c).rtt = none ∨ (s.conn c).st ≠ .opened → exec (.congestionUpdate c) s = .next s)
    ∧ (∀ rtt, (s.conn c).st = .opened → (s.conn c).rtt = some rtt →
        let tdelay := Word.bits (s.hostReg .cccfg) 0 20
        let beta := Word.bits (s.hostReg .cccfg) 27 8
        let bounded := fun (r : Nat) => max 1024 (min (2 ^ 20) r)
        let rate := (s.conn c).rate
        ∃ u, exec (.congestionUpdate c) s = .next u ∧ 1024 ≤ (u.conn c).rate ∧ (u.conn c).rate ≤ 2 ^ 20 ∧ (u.conn c).ceRtt = 0
          ∧ ((s.conn c).ceRtt = 0 → rtt ≤ tdelay → (u.conn c).rate = bounded (rate + Word.bits (s.hostReg .cccfg) 35 8 * 1024))
          ∧ ((s.conn c).ceRtt = 0 → tdelay < rtt → (u.conn c).rate = bounded (rate - rate * beta * (rtt - tdelay) / (256 * rtt)))
          ∧ (0 < (s.conn c).ceRtt → (u.conn c).rate = bounded (rate - rate * beta / 256)))
    ∧ (let watched := ((s.conn c).st = .opened ∨ (s.conn c).st = .failed) ∧ (s.conn c).jb = true ∧ (s.conn c).hb = true
      (¬watched → exec (.heartbeatTimeout c) s = .next s)
      ∧ (watched → exec (.heartbeatTimeout c) s = .next (s.raise (s.conn c).jslot .hostLost { unit := .host }))
      ∧ (watched → (s.job (s.conn c).jslot).st = .running → (s.job (s.conn c).jslot).stop = none →
        ∃ u, exec (.heartbeatTimeout c) s = .next u ∧ Stops u (s.conn c).jslot 0x50 ∧ (u.conn c).st = .held))

/-- The commands of the host port but for GXHT's, and the connection endpoints, complete. -/
def Obligations.HostPortCommands : Prop :=
  ∀ (s : State),
    let st := Word.bits (s.hostReg .hpstat) 0 2
    let synced := ({ s with power := { s.power with ptpOk := true } } : State).updateSrc
    let delayed := fun (u : State) =>
      (s.suitPaused 0 = false → u.host.ptp3 = some s.now ∧ u.host.ptpWait = false
        ∧ u.host.out = s.host.out ++ [.delayReq s.vid (BitVec.ofNat 3 (s.prioOf 0)) s.txSa])
      ∧ (s.suitPaused 0 = true → u.host.ptp3 = none ∧ u.host.ptpWait = true ∧ u.host.out = s.host.out)
    (s.hostUp = false → (∀ prio quanta, exec (.pfcPause prio quanta) s = .next s) ∧ (∀ op, exec (.eapol op) s = .next s)
      ∧ (∀ m sec, exec (.ptpMessage ⟨m, sec⟩) s = .next s) ∧ (∀ d, exec (.ethernetFrameDrop d) s = .next s))
    ∧ (s.hostUp = true →
      (∀ prio quanta, quanta ≠ 0 → ∃ u, exec (.pfcPause prio quanta) s = .next u ∧ u.host.paused.contains prio = true
          ∧ ∀ q, q ≠ prio → u.host.paused.contains q = s.host.paused.contains q)
      ∧ (∀ prio, ∃ u, exec (.pfcPause prio 0) s = .next u ∧ u.host.paused.contains prio = false)
      ∧ (∀ sci an key, ∃ u, exec (.eapol (.install true sci an key)) s = .next u ∧ u.host.macRx = saInstall 16 s.host.macRx { sci, an, key }
          ∧ Word.bit (u.hostReg .hpstat) 19 = (!s.host.macTx.isEmpty || !u.host.macRx.isEmpty))
      ∧ (∀ sci an key, ∃ u, exec (.eapol (.install false sci an key)) s = .next u ∧ u.host.macTx = saInstall 1 s.host.macTx { sci, an, key }
          ∧ Word.bit (u.hostReg .hpstat) 19 = (!u.host.macTx.isEmpty || !s.host.macRx.isEmpty))
      ∧ (∀ sci an, (∃ u, exec (.eapol (.retire true sci an)) s = .next u ∧ u.host.macRx.any (fun x => x.sci == sci && x.an == an) = false)
          ∧ ∃ u, exec (.eapol (.retire false sci an)) s = .next u ∧ u.host.macTx.any (fun x => x.sci == sci && x.an == an) = false)
      ∧ exec (.eapol .none) s = .next s
      ∧ (∀ m sec, s.frameOk sec = false → exec (.ptpMessage ⟨m, sec⟩) s = .next (s.bumpHi (.host .htfcs)))
      ∧ (∀ sec, s.frameOk sec = true →
        (∀ t1, ∃ u, exec (.ptpMessage ⟨(.sync (some t1)), sec⟩) s = .next u ∧ u.host.ptp1 = some t1.toNat ∧ u.host.ptp2 = some s.now
          ∧ u.power.ptpOk = true ∧ delayed u)
        ∧ (∃ u, exec (.ptpMessage ⟨(.sync none), sec⟩) s = .next u ∧ u.host.ptp1 = none ∧ u.host.ptp2 = some s.now ∧ u.host.ptp3 = none)
        ∧ (∀ t1, ∃ u, exec (.ptpMessage ⟨(.followUp t1), sec⟩) s = .next u ∧ u.host.ptp1 = some t1.toNat
            ∧ (s.host.ptp2.isSome = true → delayed u) ∧ (s.host.ptp2 = none → u.host.ptp3 = none))
        ∧ (∀ t1 t2 t3 (t4 : Word), s.host.ptp1 = some t1 → s.host.ptp2 = some t2 → s.host.ptp3 = some t3 →
            exec (.ptpMessage ⟨(.delayResp t4), sec⟩) s
              = .next ((synced.modHost (fun h => { h with ptp1 := none, ptp2 := none, ptp3 := none })).measured 2
                  ((((t1 : Int) - t2) + ((t4.toNat : Int) - t3)) / 2)))
        ∧ (∀ t4, s.host.ptp1 = none ∨ s.host.ptp2 = none ∨ s.host.ptp3 = none →
            exec (.ptpMessage ⟨(.delayResp t4), sec⟩) s = .next synced)
        ∧ exec (.ptpMessage ⟨.announce, sec⟩) s = .next synced ∧ synced.power.ptpOk = true ∧ synced.host = s.host)
      ∧ exec (.ethernetFrameDrop .fcs) s = .next (s.bumpLo (.host .htfcs))
      ∧ exec (.ethernetFrameDrop .macsec) s = .next (s.bumpHi (.host .htfcs))
      ∧ exec (.ethernetFrameDrop .macAddr) s = .next (s.htDrop 2)
      ∧ exec (.ethernetFrameDrop .format) s = .next (s.htDrop 2)
      ∧ exec (.ethernetFrameDrop .pause) s = .next s
      ∧ (∃ u, exec (.hostLinkLoss .lost) s = .next u ∧ Word.bits (u.hostReg .hpstat) 0 2 = 0 ∧ Word.bits (u.hostReg .hpstat) 3 8 = 0))
    ∧ (st ≠ 2 → exec (.hostLinkLoss .lost) s = .next s)
    ∧ (∀ prio, ∃ u, exec (.pfcPauseExpiry prio) s = .next u ∧ u.host.paused = s.host.paused.filter (· != prio))
    ∧ (∀ neg : Option Bool,
      let may := (st = 0 ∨ st = 3) ∧ Word.bit (s.hostReg .hpcfg) 0 = true ∧ s.boot.powered = true ∧ s.excl.contains .host = false
        ∧ ¬(Word.bit (s.hostReg .hpcfg) 3 = true ∧ neg = some false)
      (may → ∃ u, exec (.hostLinkLoss (.training neg)) s = .next u ∧ Word.bits (u.hostReg .hpstat) 0 2 = 1)
      ∧ (¬may → exec (.hostLinkLoss (.training neg)) s = .next s))
    ∧ (∀ ok inv, (st = 1 → ∃ u, exec (.hostLinkLoss (.trained ok inv)) s = .next u
        ∧ u.hostUp = (ok == 0xFF) ∧ Word.bits (u.hostReg .hpstat) 3 8 = ok.toNat ∧ Word.bits (u.hostReg .hpstat) 11 8 = inv.toNat)
      ∧ (st ≠ 1 → exec (.hostLinkLoss (.trained ok inv)) s = .next s))
    ∧ (∃ u, exec .ptpMasterLost s = .next u ∧ u.power.ptpOk = false ∧ Word.bits (u.stewReg .timestat) 0 2 = u.bestSrc)
    ∧ (∀ i, Unasked s i 1 → exec (.ident i) s = .next s)
    ∧ (∀ i, Unasked s i 2 → exec (.connOpen i) s = .next s)
    ∧ (∀ i, Unasked s i 3 → exec (.connClose i) s = .next s)
    ∧ (∀ i r s', Asked s i 1 r s' →
        let w := fun (x : StewReg) => Word.bytes (s.stewReg x)
        exec (.ident i) s = .next (if r.lenOk 0 then s'.answer r 0 (leBytes 4 0 ++ w .ident ++ w .seat ++ w .bootstat ++ w .inv ++ w .invq0
          ++ w .invq1 ++ w .invq2 ++ w .secstat) else s'.answer r 34))
    ∧ (∀ i r s', Asked s i 2 r s' →
        let b := r.body
        let n := leAt b 0 2
        let fl := leAt b 2 1
        let j : JSlot := Fin.ofNat 4 (bitsOf fl 1 2)
        let formed := r.lenOk 32 = true ∧ leAt b 3 1 = 0 ∧ leAt b 14 2 = 0 ∧ n ≠ 0 ∧ (n < 1024 ∨ n = 0xFFFF)
        let jobOk := fl.testBit 0 = true → s.slotOpen j = true
        (¬formed → exec (.connOpen i) s = .next (s'.answer r 34))
        ∧ (formed → fl.testBit 7 = false → n = 0xFFFF → (∀ d : Fin 1024, d ≠ 0 → (s.conn d).st ≠ .free) →
          exec (.connOpen i) s = .next (s'.answer r 33))
        ∧ ∀ c : Fin 1024, c ≠ 0 → formed →
          let picked := n = c.val ∨ (n = 0xFFFF ∧ ∀ d : Fin 1024, 0 < d → d < c → (s.conn d).st ≠ .free)
          let resumes := n = c.val ∧ (s.conn c).st = .held ∧ (s.conn c).jb = fl.testBit 0 ∧ (s.conn c).jslot = j ∧ jobOk
          (fl.testBit 7 = false → picked → (s.conn c).st = .free → fl.testBit 0 = true → s.slotOpen j = true →
            ∃ t : State, exec (.connOpen i) s = .next (t.answer r 0 (leBytes 2 c.val ++ leBytes 1 (s.job j).epoch.toNat ++ [0]))
              ∧ (t.conn c).st = .opened ∧ (t.conn c).jb = true ∧ (t.conn c).jslot = j ∧ (t.conn c).mg = fl.testBit 3
              ∧ (t.conn c).sp = fl.testBit 4 ∧ (t.conn c).hb = fl.testBit 5 ∧ (t.conn c).rxNext = 0 ∧ (t.conn c).txPsn = 0)
          ∧ (fl.testBit 7 = false → picked → (s.conn c).st = .free → fl.testBit 0 = false →
            ∃ t : State, exec (.connOpen i) s = .next (t.answer r 0 (leBytes 2 c.val ++ leBytes 1 0 ++ [0])) ∧ (t.conn c).st = .opened ∧ (t.conn c).jb = false)
          ∧ (fl.testBit 7 = false → picked → (s.conn c).st = .free → ¬jobOk → exec (.connOpen i) s = .next (s'.answer r 8))
          ∧ (fl.testBit 7 = false → n = c.val → (s.conn c).st ≠ .free → exec (.connOpen i) s = .next (s'.answer r 32))
          ∧ (fl.testBit 7 = true → resumes →
            ∃ (t : State) (e : Nat), exec (.connOpen i) s = .next (t.answer r 0 (leBytes 2 c.val ++ leBytes 1 e ++ [0])) ∧ (t.conn c).st = .opened
              ∧ (t.conn c).jb = (s.conn c).jb ∧ (t.conn c).jslot = j ∧ (t.conn c).mg = (s.conn c).mg)
          ∧ (fl.testBit 7 = true → n = 0xFFFF ∨ (n = c.val ∧ ¬resumes) → exec (.connOpen i) s = .next (s'.answer r 8)))
    ∧ (∀ i r s', Asked s i 3 r s' →
        let n := leAt r.body 0 2
        let formed := r.lenOk 8 = true ∧ leAt r.body 2 6 = 0 ∧ n < 1024
        (¬formed → exec (.connClose i) s = .next (s'.answer r 34))
        ∧ (formed → n = 0 → exec (.connClose i) s = .next (s'.answer r 8))
        ∧ ∀ c : Fin 1024, formed → n = c.val → c ≠ 0 →
          exec (.connClose i) s = .next ((s'.modConn c (fun _ => Conn.reset)).answer r 0))

/-! ### Jobs and records (14_jobs_determinism_recovery, 15_boot_reset_journal, 19_patience_telemetry_timers) -/

/-- JOB_ADMIT, JOB_START, JOB_STOP, JOB_RESET, TLB_FLUSH, CONTEXT_HALT, CHASSIS_FAULT and FAULT_PULSE_END complete. The order of the
admission's results is the model's (log 55); choices that the rules do not allow leave the request waiting (log 56). -/
def Obligations.JobCommands : Prop :=
  ∀ (i : Nat) (plan : AdmitPlan) (r : MgmtReq) (j : JSlot) (s s' : State),
    let b := s.job j
    let act := leAt r.body 0 1
    let raw := r.body.drop 1
    let slot := leAt r.body 0 1
    (Unasked s i 0x10 (fun r => leAt r.body 0 1 != 1) → exec (.jobAdmit i plan) s = .next s)
    ∧ (Unasked s i 0x10 (fun r => leAt r.body 0 1 == 1) → exec (.jobStart i) s = .next s)
    ∧ (Unasked s i 0x11 → exec (.jobStop i) s = .next s)
    ∧ (Unasked s i 0x12 (fun r => leAt r.body 1 1 == 0) → exec (.jobResetEnd i) s = .next s)
    ∧ (Unasked s i 0x12 (fun r => leAt r.body 1 1 != 0) → exec (.jobResetRestart i) s = .next s)
    ∧ (Unasked s i 0x13 → exec (.tlbFlush i) s = .next s)
    ∧ (Asked s i 0x10 r s' → act ≠ 1 →
      let formed := act = 0 ∧ r.body ≠ [] ∧ manifestLenOk r.via.isSome raw = true
      let serving := s.inService = true ∧ s.power.critical = false
      (¬formed → exec (.jobAdmit i plan) s = .next (s'.answer r 34))
      ∧ (formed → ¬serving → exec (.jobAdmit i plan) s = .next (s'.answer r 8))
      ∧ (formed → serving → manifestOf (manifestTrim raw) = none → exec (.jobAdmit i plan) s
        = .next ((s'.admitRecord 1 (partSlot (bitsOf (leAt (manifestTrim raw) 0 8) 0 4))).answer r 1))
      ∧ ∀ m, formed → serving → manifestOf (manifestTrim raw) = some m →
        (partSlot m.dies = none → exec (.jobAdmit i plan) s = .next ((s'.admitRecord 2 none).answer r 2))
        ∧ (partSlot m.dies = some j →
          (s'.admitStatus m ≠ 0 → exec (.jobAdmit i plan) s = .next ((s'.admitRecord (s'.admitStatus m) (some j)).answer r (s'.admitStatus m)))
          ∧ (s'.admitStatus m = 0 → s'.planOk j m plan = false → exec (.jobAdmit i plan) s = .next s)
          ∧ (s'.admitStatus m = 0 → s'.planOk j m plan = true →
            ∃ t : State, exec (.jobAdmit i plan) s = .next (t.answer r 0 (admitAnswer j (b.epoch + 1) m plan)) ∧ (t.job j).st = .admitted
              ∧ (t.job j).epoch = b.epoch + 1 ∧ (t.job j).dies = m.dies ∧ (t.job j).stop = none
              ∧ t.journal.head?.map (fun x => (x.typ, x.code)) = some (7, 0))))
    ∧ (Asked s i 0x10 r s' → act = 1 →
      let n := leAt r.body 1 1
      let formed := r.lenOk 24 = true ∧ n < 4 ∧ bytesZero r.body 2 8 = true
      let ready := s.inService = true ∧ s.power.critical = false ∧ b.st = .admitted
      (¬formed → exec (.jobStart i) s = .next (s'.answer r 34))
      ∧ (formed → n = j.val → ¬ready → exec (.jobStart i) s = .next (s'.answer r 8))
      ∧ (formed → n = j.val → ready →
        ∃ t : State, exec (.jobStart i) s = .next (t.answer r 0) ∧ (t.job j).st = .running ∧ (t.job j).locked = true ∧ (t.job j).epoch = b.epoch
          ∧ ∀ tile ∈ s.partTiles b.dies, t.tileReg tile .mjob = BitVec.ofNat 64 (j.val + 2 ^ 2 + b.epoch.toNat * 2 ^ 8 + b.dies * 2 ^ 16)
            ∧ Word.bits (t.tileReg tile .jptbase) 21 27 = bitsOf (leAt r.body 8 8) 21 27 ∧ (t.tile tile).folded = false))
    ∧ (Asked s i 0x11 r s' →
      let formed := r.lenOk 1 = true ∧ slot < 4
      let ready := s.inService = true ∧ b.st = .running ∧ b.stop = none
      (¬formed → exec (.jobStop i) s = .next (s'.answer r 34))
      ∧ (formed → slot = j.val → ¬ready → exec (.jobStop i) s = .next (s'.answer r 8))
      ∧ (formed → slot = j.val → ready → ∃ t : State, exec (.jobStop i) s = .next (t.answer r 0) ∧ Stops t j 0x60))
    ∧ (Asked s i 0x12 r s' →
      let mode := leAt r.body 1 1
      let formed := r.lenOk 2 = true ∧ slot < 4 ∧ mode < 2
      let ready := s.inService = true ∧ (b.st = .stopped ∨ b.st = .admitted)
      let reset := if mode = 0 then Instr.jobResetEnd i else .jobResetRestart i
      (¬formed → exec reset s = .next (s'.answer r 34))
      ∧ (formed → slot = j.val → ¬ready → exec reset s = .next (s'.answer r 8))
      ∧ (formed → slot = j.val → ready → mode = 0 → ∃ t : State, exec (.jobResetEnd i) s = .next (t.answer r 0) ∧ (t.job j).st = .free
          ∧ (t.job j).epoch = b.epoch ∧ (∀ x ∈ t.cells, x.2.kind ≠ 0 → x.2.slot ≠ j.val) ∧ ∀ d w, t.dieReg d (.grant j w) = 0)
      ∧ (formed → slot = j.val → ready → mode = 1 → ∃ t : State, exec (.jobResetRestart i) s = .next (t.answer r 0) ∧ (t.job j).st = .admitted
          ∧ (t.job j).epoch = b.epoch + 1 ∧ (t.job j).stop = none ∧ ∀ d w, t.dieReg d (.grant j w) = s.dieReg d (.grant j w)))
    ∧ (Asked s i 0x13 r s' →
      let formed := r.lenOk 1 = true ∧ slot < 4
      let ready := s.inService = true ∧ b.st = .running
      (¬formed → exec (.tlbFlush i) s = .next (s'.answer r 34))
      ∧ (formed → slot = j.val → ¬ready → exec (.tlbFlush i) s = .next (s'.answer r 8))
      ∧ (formed → slot = j.val → ready → ∃ t : State, exec (.tlbFlush i) s = .next (t.answer r 0) ∧ t.mem = s.mem
          ∧ ∀ tile ∈ s.partTiles b.dies, ∀ e ∈ (t.tile tile).tlb, e.slot ≠ j))
    ∧ (let halts := b.st = .running ∧ b.stop.isSome = true
      (¬halts → exec (.contextHalt j) s = .next s)
      ∧ (halts → b.warm = none ∨ s.canWarm = false → ∃ u, exec (.contextHalt j) s = .next u ∧ (u.job j).st = .stopped ∧ u.mem = s.mem
          ∧ ∀ tile ∈ s.partTiles b.dies, ∀ c, ((u.tile tile).ctx c).halted = true)
      ∧ (∀ k, halts → b.warm = some k → s.canWarm = true → exec (.contextHalt j) s = .next ((s.haltSlot j).warmReset k)))
    ∧ (let reads := s.phase = 2 ∧ s.cpPulse = false ∧ Word.bit (s.stewReg .cpcfg) 2 = true ∧ Word.bit (s.stewReg .cpfault) 26 = false
      let counted := s.modReg (.stew .cpcnt) (fun w => Word.addSat w 16 16 1)
      (¬reads → exec .chassisFault s = .next s)
      ∧ (reads → s.chasCell = none → exec .chassisFault s = .next counted)
      ∧ ∀ d n, reads → s.chasCell = some (d, n) → Fin.ofNat 4 (s.cell d n).slot = j →
        exec .chassisFault s = .next (counted.chassisStop j)
        ∧ (b.st = .running → b.stop = none → ∃ u, exec .chassisFault s = .next u ∧ Stops u j 0x61 ∧ u.cpPulse = false))
    ∧ exec .faultPulseEnd s = .next { s with cpPulse := false }

/-- EVENTS, SNAPSHOT, JOBS, JOURNAL_READ and RPL_READ complete. -/
def Obligations.RecordsRead : Prop :=
  ∀ (i : Nat) (r : MgmtReq) (s s' : State),
    let sub := fun (n : Nat) (r : MgmtReq) => leAt r.body 0 1 == n
    (Unasked s i 0x20 (sub 0) → exec (.events i) s = .next s) ∧ (Unasked s i 0x20 (sub 1) → exec (.snapshot i) s = .next s)
    ∧ (Unasked s i 0x20 (sub 2) → exec (.jobs i) s = .next s) ∧ (Unasked s i 0x21 → exec (.journalRead i) s = .next s)
    ∧ (Unasked s i 0x22 → exec (.rplRead i) s = .next s)
    ∧ (Asked s i 0x20 r s' → leAt r.body 0 1 = 0 →
      let formed := r.lenOk 16 = true ∧ bytesZero r.body 1 8 = true
      let cur := leAt r.body 8 8
      let held := s.events.reverse
      let oldest := (held.head?.map (fun e => e.seq)).getD s.enext
      let l := (held.filter (fun e => decide (cur ≤ e.seq))).take 127
      (¬formed → exec (.events i) s = .next (s'.answer r 34))
      ∧ (formed → ∃ (u : State) (next : Nat), exec (.events i) s = .next u ∧ next = ((l.getLast?.map (fun e => e.seq + 1)).getD (max cur oldest))
        ∧ u.host = (s'.answer r 0 (leBytes 4 0 ++ leBytes 8 next ++ leBytes 4 (oldest - cur) ++ (l.map Event.bytes).flatten)).host
        ∧ (r.via = none → l ≠ [] → Word.bits (u.stewReg .telcur) 0 32 = max next (Word.bits (s.stewReg .telcur) 0 32) % 2 ^ 32)
        ∧ u.events = s.events))
    ∧ (Asked s i 0x20 r s' → leAt r.body 0 1 = 1 →
      let formed := r.lenOk 8 = true ∧ leAt r.body 1 1 = 0
      let group := groupAddrs (leAt r.body 2 2) (leAt r.body 4 4)
      (¬formed → exec (.snapshot i) s = .next (s'.answer r 34))
      ∧ (formed → group = none → exec (.snapshot i) s = .next (s'.answer r 1))
      ∧ ∀ l, formed → group = some l →
        ∃ t : State, exec (.snapshot i) s = .next (t.answer r 0 (leBytes 4 0 ++ leBytes 8 s.now ++ leBytes 8 s.now
          ++ (l.map (fun pa => Word.bytes ((t.wordAt pa).getD 0))).flatten)) ∧ t.mem = s.mem)
    ∧ (Asked s i 0x20 r s' → leAt r.body 0 1 = 2 →
      exec (.jobs i) s = .next (if r.lenOk 1 then s'.answer r 0 (((List.finRange 4).map (fun j =>
        leBytes 1 (s.job j).st.code ++ leBytes 1 (s.job j).epoch.toNat ++ leBytes 1 (s.job j).status ++ leBytes 5 0)).flatten)
        else s'.answer r 34))
    ∧ (Asked s i 0x21 r s' →
      let formed := r.lenOk 8 = true ∧ 1 ≤ leAt r.body 4 2 ∧ leAt r.body 4 2 ≤ 127 ∧ leAt r.body 6 2 = 0
      let l := (s.journal.reverse.filter (fun x => decide (leAt r.body 0 4 ≤ x.seq))).take (leAt r.body 4 2)
      (formed → exec (.journalRead i) s = .next (s'.answer r 0 (leBytes 4 (Word.bits (s.stewReg .jhead) 0 32) ++ leBytes 4 s.oldestSeq
        ++ leBytes 2 l.length ++ leBytes 2 0 ++ (l.map JRecord.bytes).flatten)))
      ∧ (¬formed → exec (.journalRead i) s = .next (s'.answer r 34)))
    ∧ (Asked s i 0x22 r s' →
      let formed := r.lenOk 8 = true ∧ leAt r.body 4 4 = 0
      let l := (s.retired.drop (leAt r.body 0 4)).take 500
      (formed → exec (.rplRead i) s = .next (s'.answer r 0 (leBytes 4 s.retired.length ++ leBytes 2 l.length ++ leBytes 6 0
        ++ (l.map Retired.bytes).flatten)))
      ∧ (¬formed → exec (.rplRead i) s = .next (s'.answer r 34)))

/-! ### Security (18_security) -/

/-- The commands of the security core complete. Signatures verify as an opaque function of the model says (log 41). -/
def Obligations.SecurityCommands : Prop :=
  ∀ (i : Nat) (r : MgmtReq) (body : List Byte) (s s' : State),
    let code := leAt r.body 0 1
    let a : Fin 3 := Fin.ofNat 3 (leAt body 1 1)
    let done := fun (u t : State) (c : Nat) => u = t.answer r 0 ∧ t.journal.head?.map (fun x => (x.typ, x.code)) = some (10, c)
    let fw := [(Instr.write i, 0x31, 1, none), (.check i, 0x31, 2, some 2), (.activate i, 0x31, 3, some 2), (.commit i, 0x31, 4, some 2)]
    let own := [(Instr.take i, 0x32, 1, some 17045), (.enrol i, 0x32, 2, some 17046), (.revoke i, 0x32, 3, some 2), (.fndDisable i, 0x32, 4, some 1),
      (.fndEnable i, 0x32, 5, some 1), (.release i, 0x32, 6, some 1), (.measure i, 0x32, 7, some 49)]
    let slotOk := 1 ≤ leAt body 1 1 ∧ leAt body 1 1 ≤ 4
    let wrong := fun (o u : State) => u = o.answer r 8
    (∀ q ∈ fw ++ own,
      let (x, e, c, len) := q
      (Unasked s i e (fun r => leAt r.body 0 1 == c) → exec x s = .next s)
      ∧ (Asked s i e r s' → code = c →
        (s.sec.owned = false → r.via.isSome = true → exec x s = .next (s'.answer r 8))
        ∧ (s.sec.owned = true ∨ r.via = none → s.ownerBody r = none → exec x s = .next (s'.answer r 34))
        ∧ (∀ raw n, s.sec.owned = true ∨ r.via = none → s.ownerBody r = some raw → len = some n →
          ({ r with body := raw } : MgmtReq).lenOk n = false → exec x s = .next (s'.answer r 34))))
    ∧ (Unasked s i 0x30 → exec (.attest i) s = .next s)
    ∧ (Asked s i 0x30 r s' →
      let room := Word.bit (s.stewReg .secstat) 13 = true ∧ s.sec.queue.length < 4
      (r.lenOk 48 = false → exec (.attest i) s = .next (s'.answer r 34))
      ∧ (r.lenOk 48 = true → ¬room → exec (.attest i) s = .next (s'.answer r 20))
      ∧ (r.lenOk 48 = true → room →
        ∃ u, exec (.attest i) s = .next u ∧ u = ({ s' with sec := { s.sec with queue := s.sec.queue ++ [r] } } : State).signNext
        ∧ (s.sec.signing = none → s.sec.queue = [] → u.sec.signing = some (r, s'.report (r.body.take 48)) ∧ u.sec.queue = [])
        ∧ (s.sec.signing ≠ none → u.sec.signing = s.sec.signing ∧ u.sec.queue = s.sec.queue ++ [r])))
    ∧ (s.sec.signing = none → exec .attestSigned s = .next s)
    ∧ (∀ q rep, s.sec.signing = some (q, rep) → exec .attestSigned s
        = .next ((({ s with sec := { s.sec with signing := none } } : State).answer q 0 (rep ++ s.certificates)).signNext))
    ∧ (Formed s i 0x31 none r body s' → code = 1 →
        let formed := 12 ≤ body.length ∧ bytesZero body 2 8 = true ∧ leAt body 8 4 + (body.length - 12) ≤ areaSize
        (¬formed → exec (.write i) s = .next (s'.answer r 34))
        ∧ (formed → a ≠ 2 → s.sec.running = some a → Decides (.write i) s s' r body wrong)
        ∧ (formed → a = 2 ∨ s.sec.running ≠ some a → Decides (.write i) s s' r body (fun _ u => ∃ t : State, u = t.answer r 0 ∧ ∀ b off, t.flashByte b off =
          if b = a ∧ leAt body 8 4 ≤ off ∧ off < leAt body 8 4 + (body.length - 12) then (body.drop 12).getD (off - leAt body 8 4) 0
          else s.flashByte b off)))
    ∧ (Formed s i 0x31 (some 2) r body s' →
        (code = 2 → Decides (.check i) s s' r body (fun o u => u = o.answer r 0 (leBytes 4 (o.imageCheck a allSections))))
        ∧ (code = 3 → a = 2 → Decides (.activate i) s s' r body wrong)
        ∧ (code = 3 → a ≠ 2 → Decides (.activate i) s s' r body (fun o u =>
            (o.checkStatus a = 0 → ∃ t : State, u = t.answer r 0 ∧ t.sec.bank.val = a.val)
            ∧ (o.checkStatus a ≠ 0 → u = o.answer r (o.checkStatus a))))
        ∧ (code = 4 → Decides (.commit i) s s' r body (fun o u =>
            (o.checkStatus a = 0 → ∃ t : State, u = t.answer r 0
              ∧ t.svn (areaKind a) = max (s.svn (areaKind a)) (leAt (o.imageHeader a) 0x10 4))
            ∧ (o.checkStatus a ≠ 0 → u = o.answer r (o.checkStatus a)))))
    ∧ (Formed s i 0x32 (some 17045) r body s' → code = 1 → s.sec.owned = false →
        let k := (sha384 (slice body 1 388), sha384 (slice body 389 48))
        let proofs := rsaOk k.1 identityDigest (slice body 437 384) && slhOk k.2 identityDigest (slice body 821 16224)
        let clash := [0, 2, 3, 4].any (fun j => s.slotEnabled j && s.slotKeys j == k)
        ∃ u, exec (.take i) s = .next u ∧ (proofs = false → u = s'.answer r 16) ∧ (proofs = true → clash = true → u = s'.answer r 8)
          ∧ (proofs = true → clash = false → ∃ t, done u t 1 ∧ t.sec.owned = true ∧ t.slotKeys 1 = k ∧ t.slotEnabled 1 = true))
    ∧ (Formed s i 0x32 (some 17045) r body s' → code = 1 → s.sec.owned = true → Decides (.take i) s s' r body wrong)
    ∧ (Formed s i 0x32 (some 17046) r body s' → code = 2 → ¬slotOk → exec (.enrol i) s = .next (s'.answer r 34))
    ∧ (Formed s i 0x32 (some 17046) r body s' → code = 2 → slotOk → s.sec.owned = false → exec (.enrol i) s = .next (s'.answer r 8))
    ∧ (Formed s i 0x32 (some 17046) r body s' → code = 2 → slotOk → s.sec.owned = true →
        let slot := leAt body 1 1
        let k := (sha384 (slice body 2 388), sha384 (slice body 390 48))
        let proofs := rsaOk k.1 identityDigest (slice body 438 384) && slhOk k.2 identityDigest (slice body 822 16224)
        let clash := [0, 1, 2, 3, 4].any (fun j => j != slot && s.slotEnabled j && s.slotKeys j == k)
        Decides (.enrol i) s s' r body (fun o u => (proofs = false → u = o.answer r 16) ∧ (proofs = true → clash = true → u = o.answer r 8)
          ∧ (proofs = true → clash = false → ∃ t, done u t 2 ∧ t.slotKeys slot = k ∧ t.slotEnabled slot = true ∧ ∀ j, 1 ≤ j → j ≤ 4 → j ≠ slot → t.slotKeys j = o.slotKeys j)))
    ∧ (Formed s i 0x32 (some 2) r body s' → code = 3 → ¬slotOk → exec (.revoke i) s = .next (s'.answer r 34))
    ∧ (Formed s i 0x32 (some 2) r body s' → code = 3 → slotOk → s.sec.owned = false → exec (.revoke i) s = .next (s'.answer r 8))
    ∧ (Formed s i 0x32 (some 2) r body s' → code = 3 → slotOk → s.sec.owned = true →
        let slot := leAt body 1 1
        Decides (.revoke i) s s' r body (fun o u =>
          (s.sec.fnddis = true → (∀ j, 1 ≤ j → j ≤ 4 → j ≠ slot → s.slotEnabled j = false) → u = o.answer r 8)
          ∧ ((s.sec.fnddis = false ∨ ∃ j, 1 ≤ j ∧ j ≤ 4 ∧ j ≠ slot ∧ s.slotEnabled j = true) →
              ∃ t, done u t 3 ∧ t.slotEnabled slot = false ∧ ∀ j, 1 ≤ j → j ≤ 4 → j ≠ slot → t.slotEnabled j = s.slotEnabled j)))
    ∧ (Formed s i 0x32 (some 1) r body s' → s.sec.owned = false →
        (code = 4 → exec (.fndDisable i) s = .next (s'.answer r 8)) ∧ (code = 5 → exec (.fndEnable i) s = .next (s'.answer r 8))
        ∧ (code = 6 → exec (.release i) s = .next (s'.answer r 8)))
    ∧ (Formed s i 0x32 (some 1) r body s' → s.sec.owned = true →
        (code = 4 → Decides (.fndDisable i) s s' r body (fun _ u => ∃ t, done u t 4 ∧ t.sec.fnddis = true ∧ t.slotEnabled 0 = false))
        ∧ (code = 5 → Decides (.fndEnable i) s s' r body (fun _ u => ∃ t, done u t 5 ∧ t.sec.fnddis = false ∧ t.slotEnabled 0 = true))
        ∧ (code = 6 → Decides (.release i) s s' r body (fun o u =>
            ((∀ b, o.foundationImage b = true) → ∃ t, done u t 6 ∧ t.sec.owned = false ∧ t.sec.ownctr = o.sec.ownctr
              ∧ (∀ j, 1 ≤ j → t.slotEnabled j = false) ∧ t.slotEnabled 0 = true)
            ∧ ((∃ b, o.foundationImage b = false) → u = o.answer r 8))))
    ∧ (Formed s i 0x32 (some 49) r body s' → code = 7 → Decides (.measure i) s s' r body (fun _ u => ∃ t, done u t 7
        ∧ Tab.get (List.replicate 48 0) t.sec.mr 7 = sha384 (Tab.get (List.replicate 48 0) s.sec.mr 7 ++ slice body 1 48)))
    ∧ (s.boot.ready = false → exec .rsaKeyRegenerate s = .next s)
    ∧ (s.boot.ready = true → ∃ u, exec .rsaKeyRegenerate s = .next u ∧ Word.bit (u.stewReg .secstat) 13 = true ∧ u.sec = s.sec)

/-! ### The steward's commands, and patience (19_patience_telemetry_timers, 20_register_index) -/

/-- The mailbox commands, REG_READ, REG_WRITE, REGISTER_WRITE, TILE_RESET and the patience commands complete. -/
def Obligations.StewardAndPatience : Prop :=
  ∀ (t : TileId) (m : Fin 5) (d : List Word) (rest : List (Fin 5 × Nat × List Word)) (s : State),
    let o : State := { s with mailbox := rest }
    let arg := d.headD 0
    let ended := fun (u : State) (st : Nat) =>
      u.mailbox = rest ∧ Word.bit (u.stewReg (.mbstat m)) 0 = false ∧ Word.bits (u.stewReg (.mbstat m)) 8 8 = st
    let j : JSlot := Fin.ofNat 4 (Word.bits arg 0 2)
    let idle := s.computeOn = true ∧ s.boot.ready = true ∧ s.power.sitting = false ∧ s.tileExcl t = false ∧ (s.tile t).folded = false
      ∧ (s.tile t).idle = true ∧ (s.tile t).slice = none ∧ Word.bit (s.tileReg t .patcfg) 0 = true ∧ Word.bit (s.tileReg t .patstat) 0 = false
    let unrun := ∀ j, (s.job j).st ≠ .running ∨ (s.job j).dies.testBit t.die.val = false
    (∀ q ∈ [(Instr.mbTlbFlush, 1), (.mbRplRead, 2), (.fold, 3), (.unfold, 4), (.sitOut, 5), (.sitIn, 6), (.exclClear, 7)],
      (∀ e, s.mailbox.head? = some e → e.2.1 ≠ q.2) → exec q.1 s = .next s)
    ∧ (s.mailbox = (m, 1, d) :: rest →
        (m.val < 4 ∧ j.val ≠ m.val → exec .mbTlbFlush s = .next (o.mailDone m 1))
        ∧ (m = 4 ∨ j.val = m.val → (s.job j).st ≠ .running → exec .mbTlbFlush s = .next (o.mailDone m 8))
        ∧ (m = 4 ∨ j.val = m.val → (s.job j).st = .running → exec .mbTlbFlush s = .next ((o.flushTlbs j).mailDone m 0)))
    ∧ (s.mailbox = (m, 2, d) :: rest → exec .mbRplRead s = .next (o.mailDone m 0
        (BitVec.ofNat 64 s.retired.length :: ((s.retired.drop arg.toNat).take 7).map (fun r => BitVec.ofNat 64 (leVal r.bytes)))))
    ∧ (s.mailbox = (m, 3, d) :: rest ∨ s.mailbox = (m, 4, d) :: rest → tileOfOrd? (Word.bits arg 0 10) = none →
        exec (if s.mailbox = (m, 3, d) :: rest then .fold else .unfold) s = .next (o.mailDone m 34))
    ∧ (s.mailbox = (m, 3, d) :: rest → tileOfOrd? (Word.bits arg 0 10) = some t →
        (s.foldOk t = false → exec .fold s = .next (o.mailDone m 8))
        ∧ (s.foldOk t = true → ∃ u, exec .fold s = .next u ∧ ended u 0 ∧ (u.tile t).folded = true ∧ (u.tile t).retained = Word.bit arg 16
          ∧ (Word.bit arg 16 = true → u.mem = s.mem)
          ∧ (Word.bit arg 16 = false → (u.tile t).ctxs = [] ∧ u.tileReg t .meldcfg = TileReg.meldcfg.reset ∧ ∀ off < 0x1000000, Mem.get u.mem (sramPa t off) = 0)))
    ∧ (s.mailbox = (m, 4, d) :: rest → tileOfOrd? (Word.bits arg 0 10) = some t →
        ((s.tile t).folded = false → exec .unfold s = .next (o.mailDone m 0))
        ∧ ((s.tile t).folded = true → ∃ u, exec .unfold s = .next u ∧ ended u 0 ∧ (u.tile t).folded = false ∧ u.mem = s.mem))
    ∧ (s.mailbox = (m, 5, d) :: rest →
        (s.inService = false ∨ (∃ j, (s.job j).st = .running) → exec .sitOut s = .next (o.mailDone m 8))
        ∧ (s.inService = true → (∀ j, (s.job j).st ≠ .running) →
          ∃ u, exec .sitOut s = .next u ∧ ended u 0 ∧ u.computeOn = false ∧ u.power.sitting = true ∧ u.power.selfRefresh = true ∧ u.scLines = []
            ∧ u.mem = s.mem))
    ∧ (s.mailbox = (m, 6, d) :: rest → exec .sitIn s = .next (o.sitIn.mailDone m 0)
        ∧ (s.power.sitting = false → o.sitIn = o)
        ∧ (s.power.sitting = true →
          let u := o.sitIn.mailDone m 0
          ended u 0 ∧ u.computeOn = true ∧ u.power.sitting = false ∧ u.power.selfRefresh = false ∧ u.mem = s.mem))
    ∧ (s.mailbox = (m, 7, d) :: rest → unitOf? (Word.bits arg 0 16) = none → exec .exclClear s = .next (o.mailDone m 34))
    ∧ (∀ x, s.mailbox = (m, 7, d) :: rest → unitOf? (Word.bits arg 0 16) = some x →
        ∃ u, exec .exclClear s = .next u ∧ ended u 0 ∧ u.boot.exclFlash = s.boot.exclFlash.filter (· != x) ∧ u.excl = s.excl
          ∧ u.journal.head?.map (fun q => (q.typ, q.code, q.unit)) = some (10, 0, unitCode x))
    ∧ (∀ i, (Unasked s i 0x40 → exec (.regRead i) s = .next s) ∧ (Unasked s i 0x41 → exec (.regWrite i) s = .next s))
    ∧ (∀ i r s', Asked s i 0x40 r s' →
        let pa := leAt r.body 0 8
        let n := leAt r.body 8 2
        (r.lenOk 16 = false ∨ n = 0 ∨ 512 < n → exec (.regRead i) s = .next (s'.answer r 34))
        ∧ (r.lenOk 16 = true → 1 ≤ n → n ≤ 512 →
          (bytesZero r.body 10 16 = false → exec (.regRead i) s = .next (s'.answer r 24))
          ∧ (bytesZero r.body 10 16 = true → s.regStatus pa n false ≠ 0 → exec (.regRead i) s = .next (s'.answer r (s.regStatus pa n false)))
          ∧ (bytesZero r.body 10 16 = true → s.regStatus pa n false = 0 → exec (.regRead i) s
            = .next ((s'.readWords n pa).1.answer r 0 (leBytes 4 0 ++ ((s'.readWords n pa).2.map Word.bytes).flatten)))))
    ∧ (∀ i r s', Asked s i 0x41 r s' →
        (s.sec.owned = false → r.via.isSome = true → exec (.regWrite i) s = .next (s'.answer r 8))
        ∧ (s.sec.owned = true ∨ r.via = none →
          (s.ownerBody r = none → exec (.regWrite i) s = .next (s'.answer r 34))
          ∧ (∀ raw, s.ownerBody r = some raw → ({ r with body := raw } : MgmtReq).lenOk (16 + 8 * leAt r.body 8 2) = false →
            exec (.regWrite i) s = .next (s'.answer r 34))))
    ∧ (∀ i r body s', let n := leAt r.body 8 2
        Formed s i 0x41 (some (16 + 8 * n)) r body s' →
        (n = 0 ∨ 512 < n → exec (.regWrite i) s = .next (s'.answer r 34))
        ∧ (1 ≤ n → n ≤ 512 → Decides (.regWrite i) s s' r body (fun o u =>
            let st := if bytesZero body 10 16 then o.regStatus (leAt body 0 8) n true else 24
            (st = 0 → u = (State.writeWords ((List.range n).map (fun k => wordOf (body.drop 16) k)) o (leAt body 0 8)).answer r 0)
            ∧ (st ≠ 0 → u = o.answer r st))))
    ∧ (∀ (pa : BitVec 48) (w : Word), (∀ bytes, bytes ≠ 0xFF → exec (.registerWrite pa w bytes) s = .next s) ∧
        (s.boot.powered = true → s.computeOn = true ∨ 0x0300F0000000 ≤ pa.toNat →
          exec (.registerWrite pa w 0xFF) s = .next (s.stewWrite (pa.toNat / 8 * 8) w)
          ∧ (∀ r, s.locAt (pa.toNat / 8 * 8) = some (.reg r) → exec (.registerWrite pa w 0xFF) s = .next (s.regWrite r w (2 ^ 64 - 1))))
        ∧ (s.boot.powered = false ∨ (s.computeOn = false ∧ pa.toNat < 0x0300F0000000) → exec (.registerWrite pa w 0xFF) s = .next s))
    ∧ (Word.bit (s.tileReg t .patstat) 0 = true → s.tileExcl t = false → s.computeOn = true → unrun →
        ∃ u, exec (.tileReset t) s = .next u ∧ u.tile t = (s.tile t).clear ∧ Word.bit (u.tileReg t .patstat) 0 = true
          ∧ (∀ x ∈ u.farWaits, x.tile ≠ t) ∧ (∀ off, off < 0xC00000 →
            let top := match s.owner t with | some j => (s.job j).scrtop | none => s.unownedTop t
            Mem.get u.mem (sramPa t off) = if top ≤ off then 0 else Mem.get s.mem (sramPa t off))
          ∧ ∀ x, x ≠ t → u.tile x = s.tile x)
    ∧ (Word.bit (s.tileReg t .patstat) 0 = false ∨ s.tileExcl t = true ∨ s.computeOn = false ∨ ¬unrun → exec (.tileReset t) s = .next s)
    ∧ (∀ kind : Fin 4,
        (idle → Word.bit (s.tileReg t .patcfg) (8 + kind.val) = true →
          ∃ u, exec (.patienceSliceStart t kind) s = .next u ∧ (u.tile t).slice = some (kind.val + 1)
            ∧ Word.bits (u.tileReg t .patstat) 2 3 = kind.val + 1 ∧ u.mem = s.mem)
        ∧ (¬idle ∨ Word.bit (s.tileReg t .patcfg) (8 + kind.val) = false → exec (.patienceSliceStart t kind) s = .next s))
    ∧ (∀ good sig off e, (s.tile t).slice = none → exec (.patienceSliceEnd t good sig off e) s = .next s)
    ∧ (∀ kind good sig off e, (s.tile t).slice = some kind → kind < 8 →
        ∃ u, exec (.patienceSliceEnd t good sig off e) s = .next u ∧ (u.tile t).slice = none
          ∧ Word.bits (u.tileReg t .patcnt) 0 32 = (Word.bits (s.tileReg t .patcnt) 0 32 + 1) % 2 ^ 32
          ∧ (good = false → Word.bit (u.tileReg t .patstat) 0 = true ∧ Word.bits (u.tileReg t .patfail) 16 32 = sig.toNat
              ∧ Word.bits (u.tileReg t .patfail) 48 3 = kind ∧ u.journal.head?.map (fun q => (q.typ, q.code)) = some (8, kind))
          ∧ (good = true → let n := passLength (Word.bits (s.tileReg t .patcfg) 8 4)
              let pos := Word.bits (s.tileReg t .patstat) 48 12 + 1
              (n ≤ pos → Word.bits (u.tileReg t .patstat) 48 12 = 0 ∧ Word.bit (u.tileReg t .patstat) 5 = false)
              ∧ (pos < n → Word.bits (u.tileReg t .patstat) 48 12 = pos)))
    ∧ (∀ j, s.owner t = some j →
        (Word.bit (s.tileReg t .patstat) 0 = true → (s.job j).st = .running →
          exec (.patienceFail t) s = .next (s.raise j .patienceFail { unit := .tile t, tile := some t })
          ∧ ((s.job j).stop = none → Stops (s.raise j .patienceFail { unit := .tile t, tile := some t }) j 0x58))
        ∧ (Word.bit (s.tileReg t .patstat) 0 = false ∨ (s.job j).st ≠ .running → exec (.patienceFail t) s = .next s))
    ∧ (s.owner t = none → exec (.patienceFail t) s = .next s)
    ∧ (s.tileExcl t = false → s.boot.ready = true → Word.bit (s.tileReg t .patstat) 5 = false →
        ∃ u, exec (.patienceStale t) s = .next u ∧ Word.bit (u.tileReg t .patstat) 5 = true
          ∧ u.events.head?.map (fun q => (q.unit, q.sev)) = some (unitCode (.tile t), 1))
    ∧ (s.tileExcl t = true ∨ s.boot.ready = false ∨ Word.bit (s.tileReg t .patstat) 5 = true → exec (.patienceStale t) s = .next s)

/-! ### Power, temperature and the clock (16_clocks_power_thermal) -/

/-- The commands of supplies, temperatures, the throttle and the root clock complete. Readings are operands: 10 mV, mV, 0.1 °C, W. -/
def Obligations.PowerAndThermal : Prop :=
  ∀ (s : State) (v : BitVec 16) (t : BitVec 12) (k : Fin 36) (r : Fin 12) (torn ref : Bool),
    let engaged := fun (u : State) (c : Nat) => u.power.causes.testBit c = true ∧ Word.bit (u.stewReg .clkstat) (4 + c) = true ∧ 1 ≤ u.level
    let released := fun (u : State) (c : Nat) => u.power.causes.testBit c = false ∧ Word.bit (u.stewReg .clkstat) (4 + c) = false
    let held := fun (u : State) => u.power.hold = true ∧ u.power.selfRefresh = true ∧ u.computeOn = false ∧ u.scLines = [] ∧ u.boot.ready = false
      ∧ (∀ a < 0x020000000000, Mem.get u.mem a = Mem.get s.mem a) ∧ ((∀ j, (s.job j).st ≠ .running) → u.mem = s.mem)
      ∧ ∀ j, (s.job j).st = .running → (u.job j).st = .stopped
    let off := fun (u : State) (code : Nat) => u.boot.powered = false ∧ u.boot.ready = false ∧ u.mem = [] ∧ u.retired = s.retired
      ∧ u.boot.exclFlash = s.boot.exclFlash ∧ u.boot.owed.getLast?.map (·.1) = some code
    let cap := Word.bits (s.stewReg .pwrcap) 0 13
    (s.boot.powered = false → ∀ i ∈ [Instr.inputWarning v, .railWarning r v, .thermalThrottle t k, .thermalSevere t k, .powerCap v, .throttleForce 0,
        .throttleForce 1, .throttleForce 2, .throttleForce 3, .powerFail v, .powerRecovery v, .undervoltageLockout v torn, .overvoltage v,
        .overcurrent, .railReset r v torn, .thermalCrit t k, .thermalShutdown t k, .lossOfLock ref], exec i s = .next s)
    ∧ (4400 ≤ v.toNat → exec (.inputWarning v) s = .next s)
    ∧ ((railLevels r).1 ≤ v.toNat → exec (.railWarning r v) s = .next s)
    ∧ (t.toNat < 1000 → exec (.thermalThrottle t k) s = .next s)
    ∧ (t.toNat < 1030 ∨ s.power.causes.testBit 2 = false → exec (.thermalSevere t k) s = .next s)
    ∧ (v.toNat ≤ cap → exec (.powerCap v) s = .next s)
    ∧ (s.boot.mrst = true ∨ 4100 ≤ v.toNat → exec (.powerFail v) s = .next s)
    ∧ (s.power.hold = false ∨ v.toNat ≤ 4600 → exec (.powerRecovery v) s = .next s)
    ∧ (3800 ≤ v.toNat → exec (.undervoltageLockout v torn) s = .next s)
    ∧ (v.toNat ≤ 6000 → exec (.overvoltage v) s = .next s)
    ∧ (s.boot.mrst = true ∨ (railLevels r).2 ≤ v.toNat → exec (.railReset r v torn) s = .next s)
    ∧ (s.boot.mrst = true ∨ t.toNat < 1050 → exec (.thermalCrit t k) s = .next s)
    ∧ (t.toNat < 1150 → exec (.thermalShutdown t k) s = .next s)
    ∧ (s.boot.mrst = true ∨ s.boot.step < 3 → exec (.lossOfLock ref) s = .next s)
    ∧ (s.power.railDown.contains r = false → exec (.railRecovery r) s = .next s)
    ∧ (s.power.railDown.contains r = true →
        exec (.railRecovery r) s = .next (s.modPower (fun p => { p with railDown := p.railDown.filter (· != r) })).endHold)
    ∧ (950 ≤ t.toNat → exec (.thermalRecovery t k) s = .next s)
    ∧ (t.toNat < 950 → exec (.thermalRecovery t k) s = .next ((s.setTemp t k).modPower (fun p => { p with critical := false })).endHold)
    ∧ (∀ o : State, o.power.hold = false ∨ o.power.inputLow = true ∨ o.power.railDown ≠ [] ∨ o.power.critical = true → o.endHold = o)
    ∧ (∀ o : State, o.power.hold = true → o.power.inputLow = false → o.power.railDown = [] → o.power.critical = false →
        o.endHold = if o.boot.active then (o.baseReset true).startAt 1 2 true else o.warmReset o.power.holdCause)
    ∧ (∀ x, ∃ u, exec (.stackRefreshHalved x t) s = .next u ∧ (u.power.halved.contains x = true ↔ 850 < t.toNat)
        ∧ ∀ y, y ≠ x → u.power.halved.contains y = s.power.halved.contains y)
    ∧ (s.phase ≠ 2 ∨ s.cpFunction 6 = false → exec .chassisThrottle s = .next s)
    ∧ (s.phase = 2 → s.cpFunction 6 = true →
        (Word.bit (s.stewReg .thrcfg) 2 = false → exec .chassisThrottle s = .next (s.modPower (fun p => { p with chassisLow := true })))
        ∧ (Word.bit (s.stewReg .thrcfg) 2 = true → ∃ u, exec .chassisThrottle s = .next u ∧ engaged u 5 ∧ u.power.chassisLow = true))
    ∧ (∀ (c : Fin 7) (dur : BitVec 32),
        let ends := (c = 0 ∧ 4500 < v.toNat) ∨ c = 1 ∨ (c = 2 ∧ v.toNat < 970) ∨ (c = 3 ∧ v.toNat < 1000)
          ∨ (c = 4 ∧ 100 * v.toNat < 95 * cap) ∨ (c = 5 ∧ s.drivesThrottle = false)
        (s.boot.powered = false ∨ s.power.causes.testBit c.val = false ∨ ¬ends → exec (.throttleRelease c v dur) s = .next s)
        ∧ (s.boot.powered = true → s.power.causes.testBit c.val = true → ends →
          ∃ u, exec (.throttleRelease c v dur) s = .next u ∧ released u c.val ∧ (c = 2 → released u 3)))
    ∧ (s.boot.powered = true →
      (v.toNat < 4400 → ∃ u, exec (.inputWarning v) s = .next u ∧ engaged u 0 ∧ Word.bits (u.stewReg .pwrstat) 0 16 = v.toNat)
      ∧ (v.toNat < (railLevels r).1 → ∃ u, exec (.railWarning r v) s = .next u ∧ engaged u 1)
      ∧ (1000 ≤ t.toNat → ∃ u, exec (.thermalThrottle t k) s = .next u ∧ engaged u 2
          ∧ Word.bits (u.stewReg .tempstat) 0 12 = t.toNat ∧ Word.bits (u.stewReg .tempstat) 12 6 = k.val)
      ∧ (1030 ≤ t.toNat → s.power.causes.testBit 2 = true → ∃ u, exec (.thermalSevere t k) s = .next u ∧ engaged u 3 ∧ 2 ≤ u.level)
      ∧ (cap < v.toNat → ∃ u, exec (.powerCap v) s = .next u ∧ engaged u 4 ∧ Word.bits (u.stewReg .pwrstat) 32 16 = v.toNat)
      ∧ (∀ f : Fin 4, f ≠ 3 → ∃ u, exec (.throttleForce f) s = .next u ∧ Word.bits (u.stewReg .thrcfg) 0 2 = f.val
          ∧ (f = 0 → released u 6) ∧ (f ≠ 0 → engaged u 6 ∧ f.val ≤ u.level))
      ∧ (∃ u, exec (.throttleForce 3) s = .next u ∧ Word.bits (u.stewReg .thrcfg) 0 2 = Word.bits (s.stewReg .thrcfg) 0 2)
      ∧ (s.boot.mrst = false → v.toNat < 4100 → ∃ u, exec (.powerFail v) s = .next u ∧ held u ∧ u.power.inputLow = true)
      ∧ (s.power.hold = true → 4600 < v.toNat →
          exec (.powerRecovery v) s = .next ((s.setVin v.toNat).modPower (fun p => { p with inputLow := false })).endHold)
      ∧ (v.toNat < 3800 → ∃ u, exec (.undervoltageLockout v torn) s = .next u ∧ off u 4 ∧ u.power.underVolt = true
          ∧ u.journal = if torn then s.journal.drop 1 else s.journal)
      ∧ (6000 < v.toNat → ∃ u, exec (.overvoltage v) s = .next u ∧ off u 5 ∧ u.power.overVolt = true ∧ u.journal = s.journal)
      ∧ (∃ u, exec .overcurrent s = .next u ∧ u.boot.powered = false ∧ u.power.overCurrent = true ∧ u.boot.latch = 0 ∧ u.mem = [] ∧ u.journal = s.journal)
      ∧ (s.boot.mrst = false → v.toNat < (railLevels r).2 →
          ∃ u, exec (.railReset r v torn) s = .next u ∧ (r ≠ 11 → held u ∧ u.power.railDown.contains r = true) ∧ (r = 11 → off u 0x2B ∧ u.power.underVolt = true))
      ∧ (s.boot.mrst = false → 1050 ≤ t.toNat → ∃ u, exec (.thermalCrit t k) s = .next u ∧ held u ∧ u.power.critical = true)
      ∧ (1150 ≤ t.toNat → ∃ u, exec (.thermalShutdown t k) s = .next u ∧ off u 0x33 ∧ u.power.thermalOff = true)
      ∧ (s.boot.mrst = false → 3 ≤ s.boot.step → ∃ u, exec (.lossOfLock ref) s = .next u ∧ u.boot.active = true ∧ u.boot.kind = 1
          ∧ u.boot.step = 2 ∧ u.boot.ready = false ∧ u.computeOn = false ∧ u.mem = [] ∧ u.stewReg .seat = s.stewReg .seat
          ∧ Word.bit (u.stewReg .clkstat) 1 = (!ref)))

/-! ### Starts and resets (15_boot_reset_journal, 17_module_hardware) -/

/-- The commands of starts and resets complete. The entry address that a unit's pass may set is a free value (log 61). -/
def Obligations.StartsAndResets : Prop :=
  ∀ (s : State),
    let kept := fun (u : State) => u.journal = s.journal ∧ u.retired = s.retired ∧ u.sec.owned = s.sec.owned ∧ u.sec.keys = s.sec.keys ∧ u.mem = []
      ∧ u.boot.exclFlash = s.boot.exclFlash ∧ u.boot.ready = false ∧ ∀ j, (u.job j).epoch = (s.job j).epoch ∧ (u.job j).st = .free
    let running := s.boot.active = true ∧ s.boot.powered = true ∧ s.boot.mrst = false ∧ s.power.hold = false
    let latched := s.power.underVolt || s.power.overVolt || s.power.overCurrent || s.power.thermalOff
    let owed := (List.finRange 4).filterMap (fun j => if (s.job j).st = .stopped then (s.job j).warm else none)
    let suspect := s.suspects ≠ [] ∧ ∀ j, (s.job j).st ≠ .running
    (s.boot.powered = true ∨ s.tooHot = true → exec .inputPowerGood s = .next s)
    ∧ (s.boot.powered = false → s.tooHot = false → ∃ u, exec .inputPowerGood s = .next u ∧ kept u ∧ u.boot.powered = true ∧ u.boot.active = true
        ∧ u.boot.step = 0 ∧ u.boot.kind = 0)
    ∧ (s.tooHot = true ∨ (s.boot.powered = false ∧ latched = false) → exec .mrst s = .next s)
    ∧ (s.tooHot = false → s.boot.powered = true ∨ latched = true → ∃ u, exec .mrst s = .next u ∧ kept u ∧ u.boot.mrst = true
        ∧ u.boot.powered = s.boot.powered ∧ u.boot.active = false ∧ u.computeOn = false)
    ∧ (s.boot.mrst = false → exec .mrstRelease s = .next s)
    ∧ (s.boot.mrst = true → ∃ u, exec .mrstRelease s = .next u ∧ u.boot.mrst = false ∧ u.boot.active = true
        ∧ (s.boot.powered = true → u.boot.step = 2 ∧ u.boot.kind = 1) ∧ (s.boot.powered = false → u.boot.step = 0 ∧ u.boot.kind = 0))
    ∧ (s.canWarm = false ∨ (owed = [] ∧ ¬suspect) → exec .warmReset s = .next s)
    ∧ (∀ c l, s.canWarm = true → owed = c :: l → exec .warmReset s = .next (s.warmReset c))
    ∧ (s.canWarm = true → owed = [] → suspect → exec .warmReset s = .next (s.warmReset 1))
    ∧ (∀ c, ((s.warmReset c).boot.kind = 2) ∧ (s.warmReset c).boot.ready = false
        ∧ ∀ j, ((s.warmReset c).job j).st = .free ∧ ((s.warmReset c).job j).epoch = (s.job j).epoch)
    ∧ (∀ (x : Option UnitId) (pass : Bool) (dur detail : BitVec 32),
        (¬running → exec (.bootStep x pass dur detail) s = .next s ∧ exec (.bootWatchdog x dur detail) s = .next s)
        ∧ (running →
          (s.boot.step = 0 → ∃ u, exec (.bootStep x true dur detail) s = .next u ∧ u.boot.step = 1 ∧ u.boot.early = s.boot.early ++ [(0, dur.toNat)])
          ∧ (s.boot.step = 1 → ∃ u, exec (.bootStep x true dur detail) s = .next u ∧ u.boot.step = 2 ∧ u.boot.pgood = true ∧ u.phase = 1)
          ∧ (s.boot.step = 2 → s.boot.pgood = false → exec (.bootStep x true dur detail) s = .next s)
          ∧ (s.boot.step = 2 → s.boot.pgood = true → ∃ u, exec (.bootStep x true dur detail) s = .next u ∧ u.boot.step = 3 ∧ u.timebase = 0
              ∧ Word.bit (u.stewReg .clkstat) 0 = true ∧ Word.bit (u.stewReg .clkstat) 1 = true)
          ∧ (s.boot.step = 3 → ∃ u, exec (.bootStep x true dur detail) s = .next u ∧ u.boot.step = 4
              ∧ Word.bit (u.stewReg .secstat) 12 = true ∧ Word.bit (u.stewReg .secstat) 13 = (!detail.toNat.testBit 0)
              ∧ Tab.get (List.replicate 48 0) u.sec.mr 0 = sha384 (Tab.get (List.replicate 48 0) s.sec.mr 0 ++ romDigest)
              ∧ u.boot.owed = [] ∧ u.boot.early = [] ∧ u.boot.latch = 0xFF)
          ∧ (s.boot.step = 4 → exec (.bootStep x true dur detail) s = .next (s.firmware dur.toNat))
          ∧ (s.boot.step = 15 → ∃ u, exec (.bootStep x true dur detail) s = .next u ∧ u.boot.ready = true ∧ u.boot.active = false ∧ u.phase = 2)
          ∧ (∀ q ∈ [(Instr.bootStep x false dur detail, 3), (.bootWatchdog x dur detail, 4)],
              (s.boot.step = 0 → ∃ u, exec q.1 s = .next u ∧ u.boot.powered = false ∧ u.boot.active = false ∧ u.boot.latch = 0)
              ∧ (1 ≤ s.boot.step → s.boot.step ≤ 3 → ∃ u, exec q.1 s = .next u ∧ u.boot.active = false ∧ u.halted = true)
              ∧ (s.boot.step = 4 → exec q.1 s = .next (s.stepRecord 4 q.2 (s.ladder 4 .none) .none dur.toNat 0).failFirmware)
              ∧ (s.boot.step = 15 → exec q.1 s = .next s))
          ∧ (5 ≤ s.boot.step → s.boot.step ≤ 14 →
            let us := match x with
              | some y => if s.boot.left.contains y then [y] else []
              | none => s.boot.left
            let ends := fun (pass expired : Bool) => (us.foldl (fun (o : State) y =>
              o.unitDone y pass expired dur.toNat detail.toNat (BitVec.ofNat 64 (Config.free s.free))) { s with free := s.free + 1 }).endUnits
            (us = [] → exec (.bootStep x pass dur detail) s = .next s ∧ exec (.bootWatchdog x dur detail) s = .next s)
            ∧ (us ≠ [] → exec (.bootStep x pass dur detail) s = .next (ends pass false)
              ∧ exec (.bootWatchdog x dur detail) s = .next (ends false true)))))
    ∧ (∀ o : State, o.boot.left ≠ [] ∨ o.boot.active = false → o.endUnits = o)
    ∧ (∀ o : State, o.boot.left = [] → o.boot.active = true →
        (o.boot.failed = false → o.endUnits = State.beginStep 16 o (o.stepAfter o.boot.step))
        ∧ (o.boot.failed = true → 3 ≤ o.boot.restarts → o.endUnits.boot.active = false ∧ o.endUnits.halted = true)
        ∧ (o.boot.failed = true → o.boot.restarts < 3 → o.endUnits.boot.kind = 3 ∧ o.endUnits.boot.restarts = o.boot.restarts + 1))
    ∧ (running → 5 ≤ s.boot.step → s.boot.step ≤ 14 → ∀ (x : UnitId) (dur detail : BitVec 32),
        s.boot.left.contains x = true → s.boot.left.filter (· != x) ≠ [] →
        let outcome := fun (i : Instr) (o : Nat → Prop) => ∃ u q, exec i s = .next u ∧ u.boot.left = s.boot.left.filter (· != x)
          ∧ u.journal.head? = some q ∧ q.typ = 2 ∧ q.code = s.boot.step ∧ q.unit = unitCode x ∧ o q.outcome
        let suspectTest := s.boot.step = 13 ∧ s.boot.base = 2
        (¬suspectTest → outcome (.bootWatchdog (some x) dur detail) (· = 4) ∧ outcome (.bootStep (some x) false dur detail) (· = 3)
          ∧ (s.unitGood s.boot.step x = false → outcome (.bootStep (some x) true dur detail) (· = 3)))
        ∧ (s.unitGood s.boot.step x = true → outcome (.bootStep (some x) true dur detail) (· ≤ 2))
        ∧ (suspectTest → ∀ i ∈ [Instr.bootWatchdog (some x) dur detail, .bootStep (some x) false dur detail],
          ∃ u, exec i s = .next u ∧ u.boot.left = s.boot.left.filter (· != x) ∧ u.excl.contains (exclusionOf x) = true))
    ∧ (∀ pins : List PinSense,
        let seats := s.boot.powered = true ∧ s.boot.active = true ∧ s.boot.mrst = false ∧ s.phase = 0
        (¬seats → exec (.seating pins) s = .next s)
        ∧ (seats → ∃ u, exec (.seating pins) s = .next u ∧ (s.boot.kind = 1 → u.boot.pgood = true ∧ u.phase = 1)
          ∧ (∀ n < 8, let p := pins.getD n { ohms := 0xFFFFFF, driven := false }
              (∀ c, pinClass p = .ok c → Word.bits (u.stewReg .seat) (2 * n) 2 = c ∧ Word.bits (u.stewReg .cpfault) (3 * n) 3 = 0)
              ∧ (∀ f, pinClass p = .error f → Word.bits (u.stewReg .cpfault) (3 * n) 3 = f ∧ Word.bit (u.stewReg .seat) 16 = false))
          ∧ ((∀ p ∈ pins, ∃ c, pinClass p = .ok c) → Word.bit (u.stewReg .seat) 16 = true ∧ u.stewReg .cpfault = 0)))
    ∧ (∀ ns : Word, (s.timesetOk = false → exec (.timeset ns) s = .next s)
        ∧ (s.timesetOk = true → ∃ u, exec (.timeset ns) s = .next u ∧ u.now = ns.toNat ∧ u.regs = s.regs))
    ∧ (s.boot.powered = true → exec .inputPolarityReversed s = .next s)
    ∧ (s.boot.powered = false → ∃ u, exec .inputPolarityReversed s = .next u ∧ u.power.reversed = true ∧ u.led = .blinks 1)

/-! ### The module's call lines and its I3C target (17_module_hardware) -/

/-- The commands of the call lines and of the I3C target complete. The framing of reads is the model's (log 65), and BCR, DCR and
STATUS are free values (log 66). -/
def Obligations.ModuleLines : Prop :=
  ∀ (s : State),
    let second := fun (w : BitVec 32) => 50000000 ≤ w.toNat ∧ w.toNat ≤ 150000000
    let milli := fun (w : BitVec 32) => 1000 ≤ w.toNat ∧ w.toNat ≤ 10000
    let onBus := s.i3cUp = true ∧ s.host.i3cAddr.isSome = true
    (s.phase = 0 ∨ s.cpOn = true → exec .callLineEnable s = .next s)
    ∧ (s.phase ≠ 0 → s.cpOn = false → ∃ u, exec .callLineEnable s = .next u ∧ u.cpOn = true ∧ u.phase = s.phase
        ∧ (s.phase = 2 → ∀ d, Word.bit (u.dieReg d .sigstat) 0 = u.cpFunction 5))
    ∧ (∀ pin fn high,
        let finds := stuckOk pin.val fn.val s.phase high = true ∧ Word.bit (s.stewReg .cpfault) (24 + fn.val) = false
        (¬finds → exec (.callLineStuck pin fn high) s = .next s)
        ∧ (finds → ∃ u, exec (.callLineStuck pin fn high) s = .next u ∧ Word.bit (u.stewReg .cpfault) (24 + fn.val) = true ∧ u.cpFunction fn.val = false
          ∧ (fn = 5 → ∀ d, Word.bit (u.dieReg d .sigstat) 0 = false) ∧ (fn = 6 → u.power.causes.testBit 5 = false) ∧ (fn = 2 → u.cpPulse = false)
          ∧ (Word.bits (s.stewReg .cpfault) (3 * pin.val) 3 = 0 → Word.bits (u.stewReg .cpfault) (3 * pin.val) 3 = if high then 5 else 4)))
    ∧ (∀ w : BitVec 32,
        (s.readsCp3 = false ∨ ¬second w → exec (.secondPulse w) s = .next s)
        ∧ (s.readsCp3 = true → second w → ∃ u, exec (.secondPulse w) s = .next u ∧ u.power.ppsOk = true
            ∧ Word.bits (u.stewReg .cpcnt) 32 16 = (Word.bits (s.stewReg .cpcnt) 32 16 + 1) % 2 ^ 16
            ∧ (u.bestSrc = 3 → Word.bits (u.stewReg .timestat) 0 2 = 3
              ∧ signed 32 (Word.bits (u.stewReg .timestat) 32 32) = toNearest (s.now - w.toNat) 1000000000))
        ∧ (s.readsCp3 = false ∨ ¬milli w ∨ s.power.ppsOk = false → exec (.tick w) s = .next s)
        ∧ (s.readsCp3 = true → milli w → s.power.ppsOk = true →
            exec (.tick w) s = .next (s.measured 3 (toNearest (s.now - w.toNat) 1000000))
            ∧ (s.bestSrc ≠ 3 → s.measured 3 (toNearest (s.now - w.toNat) 1000000) = s.updateSrc))
        ∧ (s.readsCp3 = false ∨ second w ∨ milli w → exec (.cp3InvalidPulse w) s = .next s)
        ∧ (s.readsCp3 = true → ¬second w → ¬milli w →
            ∃ u, exec (.cp3InvalidPulse w) s = .next u ∧ Word.bits (u.stewReg .cpcnt) 48 16 = min 65535 (Word.bits (s.stewReg .cpcnt) 48 16 + 1)
              ∧ u.timebase = s.timebase))
    ∧ (∃ u, exec .ppsLoss s = .next u ∧ u.power.ppsOk = false ∧ Word.bits (u.stewReg .timestat) 0 2 = u.bestSrc)
    ∧ (∀ b : List Byte, ¬onBus ∨ b.length < 8 → exec (.i3cPrivateWrite b) s = .next s)
    ∧ (¬onBus → exec .i3cPrivateRead s = .next s)
    ∧ (onBus →
        (∀ b : List Byte, 8 ≤ b.length →
            let r : MgmtReq := { via := none, suit := 3, endpoint := leAt b 0 2, tag := leAt b 2 4, body := b.drop 8 }
            let o := s.modHost (fun h => { h with part := none })
            let whole := match s.host.part with
              | some p => if p.endpoint = r.endpoint ∧ p.tag = r.tag then p.body ++ r.body else r.body
              | none => r.body
            (leAt b 6 2 % 0x8000 ≠ b.length - 8 ∨ 4104 < b.length → exec (.i3cPrivateWrite b) s = .next (o.answer r 34))
            ∧ (b.length ≤ 4104 → leAt b 6 2 = 0x8000 + (b.length - 8) → ∃ u, exec (.i3cPrivateWrite b) s = .next u
                ∧ u.host.part = some { r with body := whole } ∧ u.host.reqs = s.host.reqs)
            ∧ (b.length ≤ 4104 → leAt b 6 2 = b.length - 8 →
              (i3cMax < whole.length → exec (.i3cPrivateWrite b) s = .next (o.answer r 34))
              ∧ (whole.length ≤ i3cMax → exec (.i3cPrivateWrite b) s = .next (o.takeRequest { r with body := whole }))))
          ∧ (∀ a rest, s.host.i3cOut = a :: rest → ∃ u, exec .i3cPrivateRead s = .next u
              ∧ (a.body.length ≤ 4096 → u.host.i3cOut = rest
                  ∧ u.host.i3cRead = leBytes 2 a.endpoint ++ leBytes 4 a.tag ++ leBytes 2 a.body.length ++ a.body)
              ∧ (4096 < a.body.length → u.host.i3cOut = { a with body := a.body.drop 4096 } :: rest
                  ∧ u.host.i3cRead = leBytes 2 a.endpoint ++ leBytes 4 a.tag ++ leBytes 2 (4096 + 0x8000) ++ a.body.take 4096))
          ∧ (s.host.i3cOut = [] → ∃ u, exec .i3cPrivateRead s = .next u ∧ u.host.i3cRead = []))
    ∧ (∀ a, (s.i3cUp = false ∨ s.host.i3cAddr ≠ none → exec (.entdaa a) s = .next s)
        ∧ (s.i3cUp = true → s.host.i3cAddr = none → ∃ u, exec (.entdaa a) s = .next u ∧ u.host.i3cAddr = some a))
    ∧ (∀ c, (s.i3cUp = false → exec (.i3cCommonCommand c) s = .next s)
        ∧ (s.i3cUp = true → ∃ u, exec (.i3cCommonCommand c) s = .next u
            ∧ (∀ k, c = .enec k → u.host.i3cEvents = s.host.i3cEvents ||| k) ∧ (∀ k, c = .disec k → u.host.i3cEvents = s.host.i3cEvents &&& ~~~k)
            ∧ (c = .rstdaa → u.host.i3cAddr = none) ∧ (c = .getpid → u.host.i3cRead = s.provisionalId)
            ∧ (c = .getbcr ∨ c = .getdcr → u.host.i3cRead.length = 1) ∧ (c = .getstatus → u.host.i3cRead.length = 2)
            ∧ (∀ k, c = .other k → u = s)
            ∧ u.mem = s.mem ∧ u.regs = s.regs))

/-! ### The state after reset, and time (15_boot_reset_journal, 16_clocks_power_thermal) -/

/-- Reset values that the spec gives, and time. That a step on an empty queue is one cycle of TIME is the model's choice (log 5), and
so is what an unlisted byte of memory reads as (log 2). -/
def Obligations.ResetAndTime : Prop :=
  let z := State.reset
  (z.pending = [] ∧ Memory.wf z.mem = true ∧ z.mem = [] ∧ z.journal = [] ∧ z.events = [] ∧ z.boot.powered = false ∧ z.boot.ready = false
    ∧ (∀ j, (z.job j).st = .free) ∧ (∀ c, (z.ctx c).st = .parked) ∧ (∀ p, z.portUp p = false) ∧ z.hostUp = false
    ∧ (∀ t, z.tileReg t .cutcfg = BitVec.ofNat 64 (0x1000 + 0x400 * 2 ^ 32) ∧ z.tileReg t .gthcfg = 0x400
        ∧ z.tileReg t .patcfg = BitVec.ofNat 64 (1 + 10 * 2 + 0xF * 2 ^ 8) ∧ z.owner t = none)
    ∧ (∀ q, z.quadReg q .dlrcfg = BitVec.ofNat 64 (0x40 + 2 ^ 12 + 2 ^ 13)) ∧ (∀ k, z.stackReg k .stkcfg = BitVec.ofNat 64 (24 + 8 * 2 ^ 8))
    ∧ (∀ p, z.portReg p .routecfg = 3 ∧ Word.bit (z.portReg p .portcfg) 0 = true) ∧ Word.bits (z.hostReg .hpcfg) 4 14 = 9216
    ∧ z.stewReg .pwrcap = 4400)
  ∧ ∀ s : State, s.pending = [] → ∃ u, step s = .next u ∧ u.pending = []
    ∧ (s.boot.powered = false ∨ s.boot.mrst = true → u = s)
    ∧ (s.boot.powered = true → s.boot.mrst = false → Word.bit (s.stewReg .clkstat) 0 = true →
        u.timebase = ((s.timebase : Int) + 10 * 2 ^ 16 + signed 16 (Word.bits (s.stewReg .timesteer) 0 16)).toNat % 2 ^ 80)
    ∧ (s.boot.powered = true → s.boot.mrst = false → Word.bit (s.stewReg .clkstat) 0 = false → s.boot.active = true →
        u = { s with startNs := s.startNs + 10 })
    ∧ (s.boot.powered = true → s.boot.mrst = false → Word.bit (s.stewReg .clkstat) 0 = false → s.boot.active = false → u = s)
end

