-- ==== Sys2Proof/Laws/State.lean ====
section
/-! SUPPORT. What each update of the state leaves alone: one lemma per field per update, true by unfolding. -/

namespace Sys2Proof.Machine

/-! ### `State.setTile` changes `tiles` -/

@[simp] theorem State.setTile_pending (s : State) (t : TileId) (T : Tile) : (s.setTile t T).pending = s.pending := rfl
@[simp] theorem State.setTile_devId (s : State) (t : TileId) (T : Tile) : (s.setTile t T).devId = s.devId := rfl
@[simp] theorem State.setTile_timebase (s : State) (t : TileId) (T : Tile) : (s.setTile t T).timebase = s.timebase := rfl
@[simp] theorem State.setTile_rootRem (s : State) (t : TileId) (T : Tile) : (s.setTile t T).rootRem = s.rootRem := rfl
@[simp] theorem State.setTile_regs (s : State) (t : TileId) (T : Tile) : (s.setTile t T).regs = s.regs := rfl
@[simp] theorem State.setTile_mem (s : State) (t : TileId) (T : Tile) : (s.setTile t T).mem = s.mem := rfl
@[simp] theorem State.setTile_mesh (s : State) (t : TileId) (T : Tile) : (s.setTile t T).mesh = s.mesh := rfl
@[simp] theorem State.setTile_poison (s : State) (t : TileId) (T : Tile) : (s.setTile t T).poison = s.poison := rfl
@[simp] theorem State.setTile_latent (s : State) (t : TileId) (T : Tile) : (s.setTile t T).latent = s.latent := rfl
@[simp] theorem State.setTile_scLines (s : State) (t : TileId) (T : Tile) : (s.setTile t T).scLines = s.scLines := rfl
@[simp] theorem State.setTile_plru (s : State) (t : TileId) (T : Tile) : (s.setTile t T).plru = s.plru := rfl
@[simp] theorem State.setTile_victims (s : State) (t : TileId) (T : Tile) : (s.setTile t T).victims = s.victims := rfl
@[simp] theorem State.setTile_trackers (s : State) (t : TileId) (T : Tile) : (s.setTile t T).trackers = s.trackers := rfl
@[simp] theorem State.setTile_ranges (s : State) (t : TileId) (T : Tile) : (s.setTile t T).ranges = s.ranges := rfl
@[simp] theorem State.setTile_excl (s : State) (t : TileId) (T : Tile) : (s.setTile t T).excl = s.excl := rfl
@[simp] theorem State.setTile_retired (s : State) (t : TileId) (T : Tile) : (s.setTile t T).retired = s.retired := rfl
@[simp] theorem State.setTile_corrected (s : State) (t : TileId) (T : Tile) : (s.setTile t T).corrected = s.corrected := rfl
@[simp] theorem State.setTile_scrubBlk (s : State) (t : TileId) (T : Tile) : (s.setTile t T).scrubBlk = s.scrubBlk := rfl
@[simp] theorem State.setTile_farResv (s : State) (t : TileId) (T : Tile) : (s.setTile t T).farResv = s.farResv := rfl
@[simp] theorem State.setTile_farWaits (s : State) (t : TileId) (T : Tile) : (s.setTile t T).farWaits = s.farWaits := rfl
@[simp] theorem State.setTile_jobs (s : State) (t : TileId) (T : Tile) : (s.setTile t T).jobs = s.jobs := rfl
@[simp] theorem State.setTile_journal (s : State) (t : TileId) (T : Tile) : (s.setTile t T).journal = s.journal := rfl
@[simp] theorem State.setTile_events (s : State) (t : TileId) (T : Tile) : (s.setTile t T).events = s.events := rfl
@[simp] theorem State.setTile_links (s : State) (t : TileId) (T : Tile) : (s.setTile t T).links = s.links := rfl
@[simp] theorem State.setTile_egress (s : State) (t : TileId) (T : Tile) : (s.setTile t T).egress = s.egress := rfl
@[simp] theorem State.setTile_transit (s : State) (t : TileId) (T : Tile) : (s.setTile t T).transit = s.transit := rfl
@[simp] theorem State.setTile_flashRegs (s : State) (t : TileId) (T : Tile) : (s.setTile t T).flashRegs = s.flashRegs := rfl
@[simp] theorem State.setTile_inbox (s : State) (t : TileId) (T : Tile) : (s.setTile t T).inbox = s.inbox := rfl
@[simp] theorem State.setTile_localPkts (s : State) (t : TileId) (T : Tile) : (s.setTile t T).localPkts = s.localPkts := rfl
@[simp] theorem State.setTile_cpOn (s : State) (t : TileId) (T : Tile) : (s.setTile t T).cpOn = s.cpOn := rfl
@[simp] theorem State.setTile_cpPulse (s : State) (t : TileId) (T : Tile) : (s.setTile t T).cpPulse = s.cpPulse := rfl
@[simp] theorem State.setTile_b14Passed (s : State) (t : TileId) (T : Tile) : (s.setTile t T).b14Passed = s.b14Passed := rfl
@[simp] theorem State.setTile_startNs (s : State) (t : TileId) (T : Tile) : (s.setTile t T).startNs = s.startNs := rfl
@[simp] theorem State.setTile_jnext (s : State) (t : TileId) (T : Tile) : (s.setTile t T).jnext = s.jnext := rfl
@[simp] theorem State.setTile_enext (s : State) (t : TileId) (T : Tile) : (s.setTile t T).enext = s.enext := rfl
@[simp] theorem State.setTile_merged (s : State) (t : TileId) (T : Tile) : (s.setTile t T).merged = s.merged := rfl
@[simp] theorem State.setTile_cells (s : State) (t : TileId) (T : Tile) : (s.setTile t T).cells = s.cells := rfl
@[simp] theorem State.setTile_psTab (s : State) (t : TileId) (T : Tile) : (s.setTile t T).psTab = s.psTab := rfl
@[simp] theorem State.setTile_notices (s : State) (t : TileId) (T : Tile) : (s.setTile t T).notices = s.notices := rfl
@[simp] theorem State.setTile_ledger (s : State) (t : TileId) (T : Tile) : (s.setTile t T).ledger = s.ledger := rfl
@[simp] theorem State.setTile_psWaiting (s : State) (t : TileId) (T : Tile) : (s.setTile t T).psWaiting = s.psWaiting := rfl
@[simp] theorem State.setTile_chasLines (s : State) (t : TileId) (T : Tile) : (s.setTile t T).chasLines = s.chasLines := rfl
@[simp] theorem State.setTile_computeOn (s : State) (t : TileId) (T : Tile) : (s.setTile t T).computeOn = s.computeOn := rfl
@[simp] theorem State.setTile_host (s : State) (t : TileId) (T : Tile) : (s.setTile t T).host = s.host := rfl
@[simp] theorem State.setTile_boot (s : State) (t : TileId) (T : Tile) : (s.setTile t T).boot = s.boot := rfl
@[simp] theorem State.setTile_power (s : State) (t : TileId) (T : Tile) : (s.setTile t T).power = s.power := rfl
@[simp] theorem State.setTile_sec (s : State) (t : TileId) (T : Tile) : (s.setTile t T).sec = s.sec := rfl
@[simp] theorem State.setTile_mailbox (s : State) (t : TileId) (T : Tile) : (s.setTile t T).mailbox = s.mailbox := rfl
@[simp] theorem State.setTile_tbl (s : State) (t : TileId) (T : Tile) : (s.setTile t T).tbl = s.tbl := rfl
@[simp] theorem State.setTile_entries (s : State) (t : TileId) (T : Tile) : (s.setTile t T).entries = s.entries := rfl
@[simp] theorem State.setTile_free (s : State) (t : TileId) (T : Tile) : (s.setTile t T).free = s.free := rfl

/-! ### `State.modTile` changes `tiles` -/

@[simp] theorem State.modTile_pending (s : State) (t : TileId) (f : Tile → Tile) : (s.modTile t f).pending = s.pending := rfl
@[simp] theorem State.modTile_devId (s : State) (t : TileId) (f : Tile → Tile) : (s.modTile t f).devId = s.devId := rfl
@[simp] theorem State.modTile_timebase (s : State) (t : TileId) (f : Tile → Tile) : (s.modTile t f).timebase = s.timebase := rfl
@[simp] theorem State.modTile_rootRem (s : State) (t : TileId) (f : Tile → Tile) : (s.modTile t f).rootRem = s.rootRem := rfl
@[simp] theorem State.modTile_regs (s : State) (t : TileId) (f : Tile → Tile) : (s.modTile t f).regs = s.regs := rfl
@[simp] theorem State.modTile_mem (s : State) (t : TileId) (f : Tile → Tile) : (s.modTile t f).mem = s.mem := rfl
@[simp] theorem State.modTile_mesh (s : State) (t : TileId) (f : Tile → Tile) : (s.modTile t f).mesh = s.mesh := rfl
@[simp] theorem State.modTile_poison (s : State) (t : TileId) (f : Tile → Tile) : (s.modTile t f).poison = s.poison := rfl
@[simp] theorem State.modTile_latent (s : State) (t : TileId) (f : Tile → Tile) : (s.modTile t f).latent = s.latent := rfl
@[simp] theorem State.modTile_scLines (s : State) (t : TileId) (f : Tile → Tile) : (s.modTile t f).scLines = s.scLines := rfl
@[simp] theorem State.modTile_plru (s : State) (t : TileId) (f : Tile → Tile) : (s.modTile t f).plru = s.plru := rfl
@[simp] theorem State.modTile_victims (s : State) (t : TileId) (f : Tile → Tile) : (s.modTile t f).victims = s.victims := rfl
@[simp] theorem State.modTile_trackers (s : State) (t : TileId) (f : Tile → Tile) : (s.modTile t f).trackers = s.trackers := rfl
@[simp] theorem State.modTile_ranges (s : State) (t : TileId) (f : Tile → Tile) : (s.modTile t f).ranges = s.ranges := rfl
@[simp] theorem State.modTile_excl (s : State) (t : TileId) (f : Tile → Tile) : (s.modTile t f).excl = s.excl := rfl
@[simp] theorem State.modTile_retired (s : State) (t : TileId) (f : Tile → Tile) : (s.modTile t f).retired = s.retired := rfl
@[simp] theorem State.modTile_corrected (s : State) (t : TileId) (f : Tile → Tile) : (s.modTile t f).corrected = s.corrected := rfl
@[simp] theorem State.modTile_scrubBlk (s : State) (t : TileId) (f : Tile → Tile) : (s.modTile t f).scrubBlk = s.scrubBlk := rfl
@[simp] theorem State.modTile_farResv (s : State) (t : TileId) (f : Tile → Tile) : (s.modTile t f).farResv = s.farResv := rfl
@[simp] theorem State.modTile_farWaits (s : State) (t : TileId) (f : Tile → Tile) : (s.modTile t f).farWaits = s.farWaits := rfl
@[simp] theorem State.modTile_jobs (s : State) (t : TileId) (f : Tile → Tile) : (s.modTile t f).jobs = s.jobs := rfl
@[simp] theorem State.modTile_journal (s : State) (t : TileId) (f : Tile → Tile) : (s.modTile t f).journal = s.journal := rfl
@[simp] theorem State.modTile_events (s : State) (t : TileId) (f : Tile → Tile) : (s.modTile t f).events = s.events := rfl
@[simp] theorem State.modTile_links (s : State) (t : TileId) (f : Tile → Tile) : (s.modTile t f).links = s.links := rfl
@[simp] theorem State.modTile_egress (s : State) (t : TileId) (f : Tile → Tile) : (s.modTile t f).egress = s.egress := rfl
@[simp] theorem State.modTile_transit (s : State) (t : TileId) (f : Tile → Tile) : (s.modTile t f).transit = s.transit := rfl
@[simp] theorem State.modTile_flashRegs (s : State) (t : TileId) (f : Tile → Tile) : (s.modTile t f).flashRegs = s.flashRegs := rfl
@[simp] theorem State.modTile_inbox (s : State) (t : TileId) (f : Tile → Tile) : (s.modTile t f).inbox = s.inbox := rfl
@[simp] theorem State.modTile_localPkts (s : State) (t : TileId) (f : Tile → Tile) : (s.modTile t f).localPkts = s.localPkts := rfl
@[simp] theorem State.modTile_cpOn (s : State) (t : TileId) (f : Tile → Tile) : (s.modTile t f).cpOn = s.cpOn := rfl
@[simp] theorem State.modTile_cpPulse (s : State) (t : TileId) (f : Tile → Tile) : (s.modTile t f).cpPulse = s.cpPulse := rfl
@[simp] theorem State.modTile_b14Passed (s : State) (t : TileId) (f : Tile → Tile) : (s.modTile t f).b14Passed = s.b14Passed := rfl
@[simp] theorem State.modTile_startNs (s : State) (t : TileId) (f : Tile → Tile) : (s.modTile t f).startNs = s.startNs := rfl
@[simp] theorem State.modTile_jnext (s : State) (t : TileId) (f : Tile → Tile) : (s.modTile t f).jnext = s.jnext := rfl
@[simp] theorem State.modTile_enext (s : State) (t : TileId) (f : Tile → Tile) : (s.modTile t f).enext = s.enext := rfl
@[simp] theorem State.modTile_merged (s : State) (t : TileId) (f : Tile → Tile) : (s.modTile t f).merged = s.merged := rfl
@[simp] theorem State.modTile_cells (s : State) (t : TileId) (f : Tile → Tile) : (s.modTile t f).cells = s.cells := rfl
@[simp] theorem State.modTile_psTab (s : State) (t : TileId) (f : Tile → Tile) : (s.modTile t f).psTab = s.psTab := rfl
@[simp] theorem State.modTile_notices (s : State) (t : TileId) (f : Tile → Tile) : (s.modTile t f).notices = s.notices := rfl
@[simp] theorem State.modTile_ledger (s : State) (t : TileId) (f : Tile → Tile) : (s.modTile t f).ledger = s.ledger := rfl
@[simp] theorem State.modTile_psWaiting (s : State) (t : TileId) (f : Tile → Tile) : (s.modTile t f).psWaiting = s.psWaiting := rfl
@[simp] theorem State.modTile_chasLines (s : State) (t : TileId) (f : Tile → Tile) : (s.modTile t f).chasLines = s.chasLines := rfl
@[simp] theorem State.modTile_computeOn (s : State) (t : TileId) (f : Tile → Tile) : (s.modTile t f).computeOn = s.computeOn := rfl
@[simp] theorem State.modTile_host (s : State) (t : TileId) (f : Tile → Tile) : (s.modTile t f).host = s.host := rfl
@[simp] theorem State.modTile_boot (s : State) (t : TileId) (f : Tile → Tile) : (s.modTile t f).boot = s.boot := rfl
@[simp] theorem State.modTile_power (s : State) (t : TileId) (f : Tile → Tile) : (s.modTile t f).power = s.power := rfl
@[simp] theorem State.modTile_sec (s : State) (t : TileId) (f : Tile → Tile) : (s.modTile t f).sec = s.sec := rfl
@[simp] theorem State.modTile_mailbox (s : State) (t : TileId) (f : Tile → Tile) : (s.modTile t f).mailbox = s.mailbox := rfl
@[simp] theorem State.modTile_tbl (s : State) (t : TileId) (f : Tile → Tile) : (s.modTile t f).tbl = s.tbl := rfl
@[simp] theorem State.modTile_entries (s : State) (t : TileId) (f : Tile → Tile) : (s.modTile t f).entries = s.entries := rfl
@[simp] theorem State.modTile_free (s : State) (t : TileId) (f : Tile → Tile) : (s.modTile t f).free = s.free := rfl

/-! ### `State.modCtx` changes `tiles` -/

@[simp] theorem State.modCtx_pending (s : State) (c : CtxRef) (f : Ctx → Ctx) : (s.modCtx c f).pending = s.pending := rfl
@[simp] theorem State.modCtx_devId (s : State) (c : CtxRef) (f : Ctx → Ctx) : (s.modCtx c f).devId = s.devId := rfl
@[simp] theorem State.modCtx_timebase (s : State) (c : CtxRef) (f : Ctx → Ctx) : (s.modCtx c f).timebase = s.timebase := rfl
@[simp] theorem State.modCtx_rootRem (s : State) (c : CtxRef) (f : Ctx → Ctx) : (s.modCtx c f).rootRem = s.rootRem := rfl
@[simp] theorem State.modCtx_regs (s : State) (c : CtxRef) (f : Ctx → Ctx) : (s.modCtx c f).regs = s.regs := rfl
@[simp] theorem State.modCtx_mem (s : State) (c : CtxRef) (f : Ctx → Ctx) : (s.modCtx c f).mem = s.mem := rfl
@[simp] theorem State.modCtx_mesh (s : State) (c : CtxRef) (f : Ctx → Ctx) : (s.modCtx c f).mesh = s.mesh := rfl
@[simp] theorem State.modCtx_poison (s : State) (c : CtxRef) (f : Ctx → Ctx) : (s.modCtx c f).poison = s.poison := rfl
@[simp] theorem State.modCtx_latent (s : State) (c : CtxRef) (f : Ctx → Ctx) : (s.modCtx c f).latent = s.latent := rfl
@[simp] theorem State.modCtx_scLines (s : State) (c : CtxRef) (f : Ctx → Ctx) : (s.modCtx c f).scLines = s.scLines := rfl
@[simp] theorem State.modCtx_plru (s : State) (c : CtxRef) (f : Ctx → Ctx) : (s.modCtx c f).plru = s.plru := rfl
@[simp] theorem State.modCtx_victims (s : State) (c : CtxRef) (f : Ctx → Ctx) : (s.modCtx c f).victims = s.victims := rfl
@[simp] theorem State.modCtx_trackers (s : State) (c : CtxRef) (f : Ctx → Ctx) : (s.modCtx c f).trackers = s.trackers := rfl
@[simp] theorem State.modCtx_ranges (s : State) (c : CtxRef) (f : Ctx → Ctx) : (s.modCtx c f).ranges = s.ranges := rfl
@[simp] theorem State.modCtx_excl (s : State) (c : CtxRef) (f : Ctx → Ctx) : (s.modCtx c f).excl = s.excl := rfl
@[simp] theorem State.modCtx_retired (s : State) (c : CtxRef) (f : Ctx → Ctx) : (s.modCtx c f).retired = s.retired := rfl
@[simp] theorem State.modCtx_corrected (s : State) (c : CtxRef) (f : Ctx → Ctx) : (s.modCtx c f).corrected = s.corrected := rfl
@[simp] theorem State.modCtx_scrubBlk (s : State) (c : CtxRef) (f : Ctx → Ctx) : (s.modCtx c f).scrubBlk = s.scrubBlk := rfl
@[simp] theorem State.modCtx_farResv (s : State) (c : CtxRef) (f : Ctx → Ctx) : (s.modCtx c f).farResv = s.farResv := rfl
@[simp] theorem State.modCtx_farWaits (s : State) (c : CtxRef) (f : Ctx → Ctx) : (s.modCtx c f).farWaits = s.farWaits := rfl
@[simp] theorem State.modCtx_jobs (s : State) (c : CtxRef) (f : Ctx → Ctx) : (s.modCtx c f).jobs = s.jobs := rfl
@[simp] theorem State.modCtx_journal (s : State) (c : CtxRef) (f : Ctx → Ctx) : (s.modCtx c f).journal = s.journal := rfl
@[simp] theorem State.modCtx_events (s : State) (c : CtxRef) (f : Ctx → Ctx) : (s.modCtx c f).events = s.events := rfl
@[simp] theorem State.modCtx_links (s : State) (c : CtxRef) (f : Ctx → Ctx) : (s.modCtx c f).links = s.links := rfl
@[simp] theorem State.modCtx_egress (s : State) (c : CtxRef) (f : Ctx → Ctx) : (s.modCtx c f).egress = s.egress := rfl
@[simp] theorem State.modCtx_transit (s : State) (c : CtxRef) (f : Ctx → Ctx) : (s.modCtx c f).transit = s.transit := rfl
@[simp] theorem State.modCtx_flashRegs (s : State) (c : CtxRef) (f : Ctx → Ctx) : (s.modCtx c f).flashRegs = s.flashRegs := rfl
@[simp] theorem State.modCtx_inbox (s : State) (c : CtxRef) (f : Ctx → Ctx) : (s.modCtx c f).inbox = s.inbox := rfl
@[simp] theorem State.modCtx_localPkts (s : State) (c : CtxRef) (f : Ctx → Ctx) : (s.modCtx c f).localPkts = s.localPkts := rfl
@[simp] theorem State.modCtx_cpOn (s : State) (c : CtxRef) (f : Ctx → Ctx) : (s.modCtx c f).cpOn = s.cpOn := rfl
@[simp] theorem State.modCtx_cpPulse (s : State) (c : CtxRef) (f : Ctx → Ctx) : (s.modCtx c f).cpPulse = s.cpPulse := rfl
@[simp] theorem State.modCtx_b14Passed (s : State) (c : CtxRef) (f : Ctx → Ctx) : (s.modCtx c f).b14Passed = s.b14Passed := rfl
@[simp] theorem State.modCtx_startNs (s : State) (c : CtxRef) (f : Ctx → Ctx) : (s.modCtx c f).startNs = s.startNs := rfl
@[simp] theorem State.modCtx_jnext (s : State) (c : CtxRef) (f : Ctx → Ctx) : (s.modCtx c f).jnext = s.jnext := rfl
@[simp] theorem State.modCtx_enext (s : State) (c : CtxRef) (f : Ctx → Ctx) : (s.modCtx c f).enext = s.enext := rfl
@[simp] theorem State.modCtx_merged (s : State) (c : CtxRef) (f : Ctx → Ctx) : (s.modCtx c f).merged = s.merged := rfl
@[simp] theorem State.modCtx_cells (s : State) (c : CtxRef) (f : Ctx → Ctx) : (s.modCtx c f).cells = s.cells := rfl
@[simp] theorem State.modCtx_psTab (s : State) (c : CtxRef) (f : Ctx → Ctx) : (s.modCtx c f).psTab = s.psTab := rfl
@[simp] theorem State.modCtx_notices (s : State) (c : CtxRef) (f : Ctx → Ctx) : (s.modCtx c f).notices = s.notices := rfl
@[simp] theorem State.modCtx_ledger (s : State) (c : CtxRef) (f : Ctx → Ctx) : (s.modCtx c f).ledger = s.ledger := rfl
@[simp] theorem State.modCtx_psWaiting (s : State) (c : CtxRef) (f : Ctx → Ctx) : (s.modCtx c f).psWaiting = s.psWaiting := rfl
@[simp] theorem State.modCtx_chasLines (s : State) (c : CtxRef) (f : Ctx → Ctx) : (s.modCtx c f).chasLines = s.chasLines := rfl
@[simp] theorem State.modCtx_computeOn (s : State) (c : CtxRef) (f : Ctx → Ctx) : (s.modCtx c f).computeOn = s.computeOn := rfl
@[simp] theorem State.modCtx_host (s : State) (c : CtxRef) (f : Ctx → Ctx) : (s.modCtx c f).host = s.host := rfl
@[simp] theorem State.modCtx_boot (s : State) (c : CtxRef) (f : Ctx → Ctx) : (s.modCtx c f).boot = s.boot := rfl
@[simp] theorem State.modCtx_power (s : State) (c : CtxRef) (f : Ctx → Ctx) : (s.modCtx c f).power = s.power := rfl
@[simp] theorem State.modCtx_sec (s : State) (c : CtxRef) (f : Ctx → Ctx) : (s.modCtx c f).sec = s.sec := rfl
@[simp] theorem State.modCtx_mailbox (s : State) (c : CtxRef) (f : Ctx → Ctx) : (s.modCtx c f).mailbox = s.mailbox := rfl
@[simp] theorem State.modCtx_tbl (s : State) (c : CtxRef) (f : Ctx → Ctx) : (s.modCtx c f).tbl = s.tbl := rfl
@[simp] theorem State.modCtx_entries (s : State) (c : CtxRef) (f : Ctx → Ctx) : (s.modCtx c f).entries = s.entries := rfl
@[simp] theorem State.modCtx_free (s : State) (c : CtxRef) (f : Ctx → Ctx) : (s.modCtx c f).free = s.free := rfl

/-! ### `State.modVctx` changes `tiles` -/

@[simp] theorem State.modVctx_pending (s : State) (t : TileId) (v : VctxId) (f : VCtx → VCtx) : (s.modVctx t v f).pending = s.pending := rfl
@[simp] theorem State.modVctx_devId (s : State) (t : TileId) (v : VctxId) (f : VCtx → VCtx) : (s.modVctx t v f).devId = s.devId := rfl
@[simp] theorem State.modVctx_timebase (s : State) (t : TileId) (v : VctxId) (f : VCtx → VCtx) : (s.modVctx t v f).timebase = s.timebase := rfl
@[simp] theorem State.modVctx_rootRem (s : State) (t : TileId) (v : VctxId) (f : VCtx → VCtx) : (s.modVctx t v f).rootRem = s.rootRem := rfl
@[simp] theorem State.modVctx_regs (s : State) (t : TileId) (v : VctxId) (f : VCtx → VCtx) : (s.modVctx t v f).regs = s.regs := rfl
@[simp] theorem State.modVctx_mem (s : State) (t : TileId) (v : VctxId) (f : VCtx → VCtx) : (s.modVctx t v f).mem = s.mem := rfl
@[simp] theorem State.modVctx_mesh (s : State) (t : TileId) (v : VctxId) (f : VCtx → VCtx) : (s.modVctx t v f).mesh = s.mesh := rfl
@[simp] theorem State.modVctx_poison (s : State) (t : TileId) (v : VctxId) (f : VCtx → VCtx) : (s.modVctx t v f).poison = s.poison := rfl
@[simp] theorem State.modVctx_latent (s : State) (t : TileId) (v : VctxId) (f : VCtx → VCtx) : (s.modVctx t v f).latent = s.latent := rfl
@[simp] theorem State.modVctx_scLines (s : State) (t : TileId) (v : VctxId) (f : VCtx → VCtx) : (s.modVctx t v f).scLines = s.scLines := rfl
@[simp] theorem State.modVctx_plru (s : State) (t : TileId) (v : VctxId) (f : VCtx → VCtx) : (s.modVctx t v f).plru = s.plru := rfl
@[simp] theorem State.modVctx_victims (s : State) (t : TileId) (v : VctxId) (f : VCtx → VCtx) : (s.modVctx t v f).victims = s.victims := rfl
@[simp] theorem State.modVctx_trackers (s : State) (t : TileId) (v : VctxId) (f : VCtx → VCtx) : (s.modVctx t v f).trackers = s.trackers := rfl
@[simp] theorem State.modVctx_ranges (s : State) (t : TileId) (v : VctxId) (f : VCtx → VCtx) : (s.modVctx t v f).ranges = s.ranges := rfl
@[simp] theorem State.modVctx_excl (s : State) (t : TileId) (v : VctxId) (f : VCtx → VCtx) : (s.modVctx t v f).excl = s.excl := rfl
@[simp] theorem State.modVctx_retired (s : State) (t : TileId) (v : VctxId) (f : VCtx → VCtx) : (s.modVctx t v f).retired = s.retired := rfl
@[simp] theorem State.modVctx_corrected (s : State) (t : TileId) (v : VctxId) (f : VCtx → VCtx) : (s.modVctx t v f).corrected = s.corrected := rfl
@[simp] theorem State.modVctx_scrubBlk (s : State) (t : TileId) (v : VctxId) (f : VCtx → VCtx) : (s.modVctx t v f).scrubBlk = s.scrubBlk := rfl
@[simp] theorem State.modVctx_farResv (s : State) (t : TileId) (v : VctxId) (f : VCtx → VCtx) : (s.modVctx t v f).farResv = s.farResv := rfl
@[simp] theorem State.modVctx_farWaits (s : State) (t : TileId) (v : VctxId) (f : VCtx → VCtx) : (s.modVctx t v f).farWaits = s.farWaits := rfl
@[simp] theorem State.modVctx_jobs (s : State) (t : TileId) (v : VctxId) (f : VCtx → VCtx) : (s.modVctx t v f).jobs = s.jobs := rfl
@[simp] theorem State.modVctx_journal (s : State) (t : TileId) (v : VctxId) (f : VCtx → VCtx) : (s.modVctx t v f).journal = s.journal := rfl
@[simp] theorem State.modVctx_events (s : State) (t : TileId) (v : VctxId) (f : VCtx → VCtx) : (s.modVctx t v f).events = s.events := rfl
@[simp] theorem State.modVctx_links (s : State) (t : TileId) (v : VctxId) (f : VCtx → VCtx) : (s.modVctx t v f).links = s.links := rfl
@[simp] theorem State.modVctx_egress (s : State) (t : TileId) (v : VctxId) (f : VCtx → VCtx) : (s.modVctx t v f).egress = s.egress := rfl
@[simp] theorem State.modVctx_transit (s : State) (t : TileId) (v : VctxId) (f : VCtx → VCtx) : (s.modVctx t v f).transit = s.transit := rfl
@[simp] theorem State.modVctx_flashRegs (s : State) (t : TileId) (v : VctxId) (f : VCtx → VCtx) : (s.modVctx t v f).flashRegs = s.flashRegs := rfl
@[simp] theorem State.modVctx_inbox (s : State) (t : TileId) (v : VctxId) (f : VCtx → VCtx) : (s.modVctx t v f).inbox = s.inbox := rfl
@[simp] theorem State.modVctx_localPkts (s : State) (t : TileId) (v : VctxId) (f : VCtx → VCtx) : (s.modVctx t v f).localPkts = s.localPkts := rfl
@[simp] theorem State.modVctx_cpOn (s : State) (t : TileId) (v : VctxId) (f : VCtx → VCtx) : (s.modVctx t v f).cpOn = s.cpOn := rfl
@[simp] theorem State.modVctx_cpPulse (s : State) (t : TileId) (v : VctxId) (f : VCtx → VCtx) : (s.modVctx t v f).cpPulse = s.cpPulse := rfl
@[simp] theorem State.modVctx_b14Passed (s : State) (t : TileId) (v : VctxId) (f : VCtx → VCtx) : (s.modVctx t v f).b14Passed = s.b14Passed := rfl
@[simp] theorem State.modVctx_startNs (s : State) (t : TileId) (v : VctxId) (f : VCtx → VCtx) : (s.modVctx t v f).startNs = s.startNs := rfl
@[simp] theorem State.modVctx_jnext (s : State) (t : TileId) (v : VctxId) (f : VCtx → VCtx) : (s.modVctx t v f).jnext = s.jnext := rfl
@[simp] theorem State.modVctx_enext (s : State) (t : TileId) (v : VctxId) (f : VCtx → VCtx) : (s.modVctx t v f).enext = s.enext := rfl
@[simp] theorem State.modVctx_merged (s : State) (t : TileId) (v : VctxId) (f : VCtx → VCtx) : (s.modVctx t v f).merged = s.merged := rfl
@[simp] theorem State.modVctx_cells (s : State) (t : TileId) (v : VctxId) (f : VCtx → VCtx) : (s.modVctx t v f).cells = s.cells := rfl
@[simp] theorem State.modVctx_psTab (s : State) (t : TileId) (v : VctxId) (f : VCtx → VCtx) : (s.modVctx t v f).psTab = s.psTab := rfl
@[simp] theorem State.modVctx_notices (s : State) (t : TileId) (v : VctxId) (f : VCtx → VCtx) : (s.modVctx t v f).notices = s.notices := rfl
@[simp] theorem State.modVctx_ledger (s : State) (t : TileId) (v : VctxId) (f : VCtx → VCtx) : (s.modVctx t v f).ledger = s.ledger := rfl
@[simp] theorem State.modVctx_psWaiting (s : State) (t : TileId) (v : VctxId) (f : VCtx → VCtx) : (s.modVctx t v f).psWaiting = s.psWaiting := rfl
@[simp] theorem State.modVctx_chasLines (s : State) (t : TileId) (v : VctxId) (f : VCtx → VCtx) : (s.modVctx t v f).chasLines = s.chasLines := rfl
@[simp] theorem State.modVctx_computeOn (s : State) (t : TileId) (v : VctxId) (f : VCtx → VCtx) : (s.modVctx t v f).computeOn = s.computeOn := rfl
@[simp] theorem State.modVctx_host (s : State) (t : TileId) (v : VctxId) (f : VCtx → VCtx) : (s.modVctx t v f).host = s.host := rfl
@[simp] theorem State.modVctx_boot (s : State) (t : TileId) (v : VctxId) (f : VCtx → VCtx) : (s.modVctx t v f).boot = s.boot := rfl
@[simp] theorem State.modVctx_power (s : State) (t : TileId) (v : VctxId) (f : VCtx → VCtx) : (s.modVctx t v f).power = s.power := rfl
@[simp] theorem State.modVctx_sec (s : State) (t : TileId) (v : VctxId) (f : VCtx → VCtx) : (s.modVctx t v f).sec = s.sec := rfl
@[simp] theorem State.modVctx_mailbox (s : State) (t : TileId) (v : VctxId) (f : VCtx → VCtx) : (s.modVctx t v f).mailbox = s.mailbox := rfl
@[simp] theorem State.modVctx_tbl (s : State) (t : TileId) (v : VctxId) (f : VCtx → VCtx) : (s.modVctx t v f).tbl = s.tbl := rfl
@[simp] theorem State.modVctx_entries (s : State) (t : TileId) (v : VctxId) (f : VCtx → VCtx) : (s.modVctx t v f).entries = s.entries := rfl
@[simp] theorem State.modVctx_free (s : State) (t : TileId) (v : VctxId) (f : VCtx → VCtx) : (s.modVctx t v f).free = s.free := rfl

/-! ### `State.setReg` changes `regs` -/

@[simp] theorem State.setReg_pending (s : State) (r : Reg) (w : Word) : (s.setReg r w).pending = s.pending := rfl
@[simp] theorem State.setReg_devId (s : State) (r : Reg) (w : Word) : (s.setReg r w).devId = s.devId := rfl
@[simp] theorem State.setReg_timebase (s : State) (r : Reg) (w : Word) : (s.setReg r w).timebase = s.timebase := rfl
@[simp] theorem State.setReg_rootRem (s : State) (r : Reg) (w : Word) : (s.setReg r w).rootRem = s.rootRem := rfl
@[simp] theorem State.setReg_mem (s : State) (r : Reg) (w : Word) : (s.setReg r w).mem = s.mem := rfl
@[simp] theorem State.setReg_tiles (s : State) (r : Reg) (w : Word) : (s.setReg r w).tiles = s.tiles := rfl
@[simp] theorem State.setReg_mesh (s : State) (r : Reg) (w : Word) : (s.setReg r w).mesh = s.mesh := rfl
@[simp] theorem State.setReg_poison (s : State) (r : Reg) (w : Word) : (s.setReg r w).poison = s.poison := rfl
@[simp] theorem State.setReg_latent (s : State) (r : Reg) (w : Word) : (s.setReg r w).latent = s.latent := rfl
@[simp] theorem State.setReg_scLines (s : State) (r : Reg) (w : Word) : (s.setReg r w).scLines = s.scLines := rfl
@[simp] theorem State.setReg_plru (s : State) (r : Reg) (w : Word) : (s.setReg r w).plru = s.plru := rfl
@[simp] theorem State.setReg_victims (s : State) (r : Reg) (w : Word) : (s.setReg r w).victims = s.victims := rfl
@[simp] theorem State.setReg_trackers (s : State) (r : Reg) (w : Word) : (s.setReg r w).trackers = s.trackers := rfl
@[simp] theorem State.setReg_ranges (s : State) (r : Reg) (w : Word) : (s.setReg r w).ranges = s.ranges := rfl
@[simp] theorem State.setReg_excl (s : State) (r : Reg) (w : Word) : (s.setReg r w).excl = s.excl := rfl
@[simp] theorem State.setReg_retired (s : State) (r : Reg) (w : Word) : (s.setReg r w).retired = s.retired := rfl
@[simp] theorem State.setReg_corrected (s : State) (r : Reg) (w : Word) : (s.setReg r w).corrected = s.corrected := rfl
@[simp] theorem State.setReg_scrubBlk (s : State) (r : Reg) (w : Word) : (s.setReg r w).scrubBlk = s.scrubBlk := rfl
@[simp] theorem State.setReg_farResv (s : State) (r : Reg) (w : Word) : (s.setReg r w).farResv = s.farResv := rfl
@[simp] theorem State.setReg_farWaits (s : State) (r : Reg) (w : Word) : (s.setReg r w).farWaits = s.farWaits := rfl
@[simp] theorem State.setReg_jobs (s : State) (r : Reg) (w : Word) : (s.setReg r w).jobs = s.jobs := rfl
@[simp] theorem State.setReg_journal (s : State) (r : Reg) (w : Word) : (s.setReg r w).journal = s.journal := rfl
@[simp] theorem State.setReg_events (s : State) (r : Reg) (w : Word) : (s.setReg r w).events = s.events := rfl
@[simp] theorem State.setReg_links (s : State) (r : Reg) (w : Word) : (s.setReg r w).links = s.links := rfl
@[simp] theorem State.setReg_egress (s : State) (r : Reg) (w : Word) : (s.setReg r w).egress = s.egress := rfl
@[simp] theorem State.setReg_transit (s : State) (r : Reg) (w : Word) : (s.setReg r w).transit = s.transit := rfl
@[simp] theorem State.setReg_flashRegs (s : State) (r : Reg) (w : Word) : (s.setReg r w).flashRegs = s.flashRegs := rfl
@[simp] theorem State.setReg_inbox (s : State) (r : Reg) (w : Word) : (s.setReg r w).inbox = s.inbox := rfl
@[simp] theorem State.setReg_localPkts (s : State) (r : Reg) (w : Word) : (s.setReg r w).localPkts = s.localPkts := rfl
@[simp] theorem State.setReg_cpOn (s : State) (r : Reg) (w : Word) : (s.setReg r w).cpOn = s.cpOn := rfl
@[simp] theorem State.setReg_cpPulse (s : State) (r : Reg) (w : Word) : (s.setReg r w).cpPulse = s.cpPulse := rfl
@[simp] theorem State.setReg_b14Passed (s : State) (r : Reg) (w : Word) : (s.setReg r w).b14Passed = s.b14Passed := rfl
@[simp] theorem State.setReg_startNs (s : State) (r : Reg) (w : Word) : (s.setReg r w).startNs = s.startNs := rfl
@[simp] theorem State.setReg_jnext (s : State) (r : Reg) (w : Word) : (s.setReg r w).jnext = s.jnext := rfl
@[simp] theorem State.setReg_enext (s : State) (r : Reg) (w : Word) : (s.setReg r w).enext = s.enext := rfl
@[simp] theorem State.setReg_merged (s : State) (r : Reg) (w : Word) : (s.setReg r w).merged = s.merged := rfl
@[simp] theorem State.setReg_cells (s : State) (r : Reg) (w : Word) : (s.setReg r w).cells = s.cells := rfl
@[simp] theorem State.setReg_psTab (s : State) (r : Reg) (w : Word) : (s.setReg r w).psTab = s.psTab := rfl
@[simp] theorem State.setReg_notices (s : State) (r : Reg) (w : Word) : (s.setReg r w).notices = s.notices := rfl
@[simp] theorem State.setReg_ledger (s : State) (r : Reg) (w : Word) : (s.setReg r w).ledger = s.ledger := rfl
@[simp] theorem State.setReg_psWaiting (s : State) (r : Reg) (w : Word) : (s.setReg r w).psWaiting = s.psWaiting := rfl
@[simp] theorem State.setReg_chasLines (s : State) (r : Reg) (w : Word) : (s.setReg r w).chasLines = s.chasLines := rfl
@[simp] theorem State.setReg_computeOn (s : State) (r : Reg) (w : Word) : (s.setReg r w).computeOn = s.computeOn := rfl
@[simp] theorem State.setReg_host (s : State) (r : Reg) (w : Word) : (s.setReg r w).host = s.host := rfl
@[simp] theorem State.setReg_boot (s : State) (r : Reg) (w : Word) : (s.setReg r w).boot = s.boot := rfl
@[simp] theorem State.setReg_power (s : State) (r : Reg) (w : Word) : (s.setReg r w).power = s.power := rfl
@[simp] theorem State.setReg_sec (s : State) (r : Reg) (w : Word) : (s.setReg r w).sec = s.sec := rfl
@[simp] theorem State.setReg_mailbox (s : State) (r : Reg) (w : Word) : (s.setReg r w).mailbox = s.mailbox := rfl
@[simp] theorem State.setReg_tbl (s : State) (r : Reg) (w : Word) : (s.setReg r w).tbl = s.tbl := rfl
@[simp] theorem State.setReg_entries (s : State) (r : Reg) (w : Word) : (s.setReg r w).entries = s.entries := rfl
@[simp] theorem State.setReg_free (s : State) (r : Reg) (w : Word) : (s.setReg r w).free = s.free := rfl

/-! ### `State.modReg` changes `regs` -/

@[simp] theorem State.modReg_pending (s : State) (r : Reg) (f : Word → Word) : (s.modReg r f).pending = s.pending := rfl
@[simp] theorem State.modReg_devId (s : State) (r : Reg) (f : Word → Word) : (s.modReg r f).devId = s.devId := rfl
@[simp] theorem State.modReg_timebase (s : State) (r : Reg) (f : Word → Word) : (s.modReg r f).timebase = s.timebase := rfl
@[simp] theorem State.modReg_rootRem (s : State) (r : Reg) (f : Word → Word) : (s.modReg r f).rootRem = s.rootRem := rfl
@[simp] theorem State.modReg_mem (s : State) (r : Reg) (f : Word → Word) : (s.modReg r f).mem = s.mem := rfl
@[simp] theorem State.modReg_tiles (s : State) (r : Reg) (f : Word → Word) : (s.modReg r f).tiles = s.tiles := rfl
@[simp] theorem State.modReg_mesh (s : State) (r : Reg) (f : Word → Word) : (s.modReg r f).mesh = s.mesh := rfl
@[simp] theorem State.modReg_poison (s : State) (r : Reg) (f : Word → Word) : (s.modReg r f).poison = s.poison := rfl
@[simp] theorem State.modReg_latent (s : State) (r : Reg) (f : Word → Word) : (s.modReg r f).latent = s.latent := rfl
@[simp] theorem State.modReg_scLines (s : State) (r : Reg) (f : Word → Word) : (s.modReg r f).scLines = s.scLines := rfl
@[simp] theorem State.modReg_plru (s : State) (r : Reg) (f : Word → Word) : (s.modReg r f).plru = s.plru := rfl
@[simp] theorem State.modReg_victims (s : State) (r : Reg) (f : Word → Word) : (s.modReg r f).victims = s.victims := rfl
@[simp] theorem State.modReg_trackers (s : State) (r : Reg) (f : Word → Word) : (s.modReg r f).trackers = s.trackers := rfl
@[simp] theorem State.modReg_ranges (s : State) (r : Reg) (f : Word → Word) : (s.modReg r f).ranges = s.ranges := rfl
@[simp] theorem State.modReg_excl (s : State) (r : Reg) (f : Word → Word) : (s.modReg r f).excl = s.excl := rfl
@[simp] theorem State.modReg_retired (s : State) (r : Reg) (f : Word → Word) : (s.modReg r f).retired = s.retired := rfl
@[simp] theorem State.modReg_corrected (s : State) (r : Reg) (f : Word → Word) : (s.modReg r f).corrected = s.corrected := rfl
@[simp] theorem State.modReg_scrubBlk (s : State) (r : Reg) (f : Word → Word) : (s.modReg r f).scrubBlk = s.scrubBlk := rfl
@[simp] theorem State.modReg_farResv (s : State) (r : Reg) (f : Word → Word) : (s.modReg r f).farResv = s.farResv := rfl
@[simp] theorem State.modReg_farWaits (s : State) (r : Reg) (f : Word → Word) : (s.modReg r f).farWaits = s.farWaits := rfl
@[simp] theorem State.modReg_jobs (s : State) (r : Reg) (f : Word → Word) : (s.modReg r f).jobs = s.jobs := rfl
@[simp] theorem State.modReg_journal (s : State) (r : Reg) (f : Word → Word) : (s.modReg r f).journal = s.journal := rfl
@[simp] theorem State.modReg_events (s : State) (r : Reg) (f : Word → Word) : (s.modReg r f).events = s.events := rfl
@[simp] theorem State.modReg_links (s : State) (r : Reg) (f : Word → Word) : (s.modReg r f).links = s.links := rfl
@[simp] theorem State.modReg_egress (s : State) (r : Reg) (f : Word → Word) : (s.modReg r f).egress = s.egress := rfl
@[simp] theorem State.modReg_transit (s : State) (r : Reg) (f : Word → Word) : (s.modReg r f).transit = s.transit := rfl
@[simp] theorem State.modReg_flashRegs (s : State) (r : Reg) (f : Word → Word) : (s.modReg r f).flashRegs = s.flashRegs := rfl
@[simp] theorem State.modReg_inbox (s : State) (r : Reg) (f : Word → Word) : (s.modReg r f).inbox = s.inbox := rfl
@[simp] theorem State.modReg_localPkts (s : State) (r : Reg) (f : Word → Word) : (s.modReg r f).localPkts = s.localPkts := rfl
@[simp] theorem State.modReg_cpOn (s : State) (r : Reg) (f : Word → Word) : (s.modReg r f).cpOn = s.cpOn := rfl
@[simp] theorem State.modReg_cpPulse (s : State) (r : Reg) (f : Word → Word) : (s.modReg r f).cpPulse = s.cpPulse := rfl
@[simp] theorem State.modReg_b14Passed (s : State) (r : Reg) (f : Word → Word) : (s.modReg r f).b14Passed = s.b14Passed := rfl
@[simp] theorem State.modReg_startNs (s : State) (r : Reg) (f : Word → Word) : (s.modReg r f).startNs = s.startNs := rfl
@[simp] theorem State.modReg_jnext (s : State) (r : Reg) (f : Word → Word) : (s.modReg r f).jnext = s.jnext := rfl
@[simp] theorem State.modReg_enext (s : State) (r : Reg) (f : Word → Word) : (s.modReg r f).enext = s.enext := rfl
@[simp] theorem State.modReg_merged (s : State) (r : Reg) (f : Word → Word) : (s.modReg r f).merged = s.merged := rfl
@[simp] theorem State.modReg_cells (s : State) (r : Reg) (f : Word → Word) : (s.modReg r f).cells = s.cells := rfl
@[simp] theorem State.modReg_psTab (s : State) (r : Reg) (f : Word → Word) : (s.modReg r f).psTab = s.psTab := rfl
@[simp] theorem State.modReg_notices (s : State) (r : Reg) (f : Word → Word) : (s.modReg r f).notices = s.notices := rfl
@[simp] theorem State.modReg_ledger (s : State) (r : Reg) (f : Word → Word) : (s.modReg r f).ledger = s.ledger := rfl
@[simp] theorem State.modReg_psWaiting (s : State) (r : Reg) (f : Word → Word) : (s.modReg r f).psWaiting = s.psWaiting := rfl
@[simp] theorem State.modReg_chasLines (s : State) (r : Reg) (f : Word → Word) : (s.modReg r f).chasLines = s.chasLines := rfl
@[simp] theorem State.modReg_computeOn (s : State) (r : Reg) (f : Word → Word) : (s.modReg r f).computeOn = s.computeOn := rfl
@[simp] theorem State.modReg_host (s : State) (r : Reg) (f : Word → Word) : (s.modReg r f).host = s.host := rfl
@[simp] theorem State.modReg_boot (s : State) (r : Reg) (f : Word → Word) : (s.modReg r f).boot = s.boot := rfl
@[simp] theorem State.modReg_power (s : State) (r : Reg) (f : Word → Word) : (s.modReg r f).power = s.power := rfl
@[simp] theorem State.modReg_sec (s : State) (r : Reg) (f : Word → Word) : (s.modReg r f).sec = s.sec := rfl
@[simp] theorem State.modReg_mailbox (s : State) (r : Reg) (f : Word → Word) : (s.modReg r f).mailbox = s.mailbox := rfl
@[simp] theorem State.modReg_tbl (s : State) (r : Reg) (f : Word → Word) : (s.modReg r f).tbl = s.tbl := rfl
@[simp] theorem State.modReg_entries (s : State) (r : Reg) (f : Word → Word) : (s.modReg r f).entries = s.entries := rfl
@[simp] theorem State.modReg_free (s : State) (r : Reg) (f : Word → Word) : (s.modReg r f).free = s.free := rfl

/-! ### `State.modJob` changes `jobs` -/

@[simp] theorem State.modJob_pending (s : State) (j : JSlot) (f : Job → Job) : (s.modJob j f).pending = s.pending := rfl
@[simp] theorem State.modJob_devId (s : State) (j : JSlot) (f : Job → Job) : (s.modJob j f).devId = s.devId := rfl
@[simp] theorem State.modJob_timebase (s : State) (j : JSlot) (f : Job → Job) : (s.modJob j f).timebase = s.timebase := rfl
@[simp] theorem State.modJob_rootRem (s : State) (j : JSlot) (f : Job → Job) : (s.modJob j f).rootRem = s.rootRem := rfl
@[simp] theorem State.modJob_regs (s : State) (j : JSlot) (f : Job → Job) : (s.modJob j f).regs = s.regs := rfl
@[simp] theorem State.modJob_mem (s : State) (j : JSlot) (f : Job → Job) : (s.modJob j f).mem = s.mem := rfl
@[simp] theorem State.modJob_tiles (s : State) (j : JSlot) (f : Job → Job) : (s.modJob j f).tiles = s.tiles := rfl
@[simp] theorem State.modJob_mesh (s : State) (j : JSlot) (f : Job → Job) : (s.modJob j f).mesh = s.mesh := rfl
@[simp] theorem State.modJob_poison (s : State) (j : JSlot) (f : Job → Job) : (s.modJob j f).poison = s.poison := rfl
@[simp] theorem State.modJob_latent (s : State) (j : JSlot) (f : Job → Job) : (s.modJob j f).latent = s.latent := rfl
@[simp] theorem State.modJob_scLines (s : State) (j : JSlot) (f : Job → Job) : (s.modJob j f).scLines = s.scLines := rfl
@[simp] theorem State.modJob_plru (s : State) (j : JSlot) (f : Job → Job) : (s.modJob j f).plru = s.plru := rfl
@[simp] theorem State.modJob_victims (s : State) (j : JSlot) (f : Job → Job) : (s.modJob j f).victims = s.victims := rfl
@[simp] theorem State.modJob_trackers (s : State) (j : JSlot) (f : Job → Job) : (s.modJob j f).trackers = s.trackers := rfl
@[simp] theorem State.modJob_ranges (s : State) (j : JSlot) (f : Job → Job) : (s.modJob j f).ranges = s.ranges := rfl
@[simp] theorem State.modJob_excl (s : State) (j : JSlot) (f : Job → Job) : (s.modJob j f).excl = s.excl := rfl
@[simp] theorem State.modJob_retired (s : State) (j : JSlot) (f : Job → Job) : (s.modJob j f).retired = s.retired := rfl
@[simp] theorem State.modJob_corrected (s : State) (j : JSlot) (f : Job → Job) : (s.modJob j f).corrected = s.corrected := rfl
@[simp] theorem State.modJob_scrubBlk (s : State) (j : JSlot) (f : Job → Job) : (s.modJob j f).scrubBlk = s.scrubBlk := rfl
@[simp] theorem State.modJob_farResv (s : State) (j : JSlot) (f : Job → Job) : (s.modJob j f).farResv = s.farResv := rfl
@[simp] theorem State.modJob_farWaits (s : State) (j : JSlot) (f : Job → Job) : (s.modJob j f).farWaits = s.farWaits := rfl
@[simp] theorem State.modJob_journal (s : State) (j : JSlot) (f : Job → Job) : (s.modJob j f).journal = s.journal := rfl
@[simp] theorem State.modJob_events (s : State) (j : JSlot) (f : Job → Job) : (s.modJob j f).events = s.events := rfl
@[simp] theorem State.modJob_links (s : State) (j : JSlot) (f : Job → Job) : (s.modJob j f).links = s.links := rfl
@[simp] theorem State.modJob_egress (s : State) (j : JSlot) (f : Job → Job) : (s.modJob j f).egress = s.egress := rfl
@[simp] theorem State.modJob_transit (s : State) (j : JSlot) (f : Job → Job) : (s.modJob j f).transit = s.transit := rfl
@[simp] theorem State.modJob_flashRegs (s : State) (j : JSlot) (f : Job → Job) : (s.modJob j f).flashRegs = s.flashRegs := rfl
@[simp] theorem State.modJob_inbox (s : State) (j : JSlot) (f : Job → Job) : (s.modJob j f).inbox = s.inbox := rfl
@[simp] theorem State.modJob_localPkts (s : State) (j : JSlot) (f : Job → Job) : (s.modJob j f).localPkts = s.localPkts := rfl
@[simp] theorem State.modJob_cpOn (s : State) (j : JSlot) (f : Job → Job) : (s.modJob j f).cpOn = s.cpOn := rfl
@[simp] theorem State.modJob_cpPulse (s : State) (j : JSlot) (f : Job → Job) : (s.modJob j f).cpPulse = s.cpPulse := rfl
@[simp] theorem State.modJob_b14Passed (s : State) (j : JSlot) (f : Job → Job) : (s.modJob j f).b14Passed = s.b14Passed := rfl
@[simp] theorem State.modJob_startNs (s : State) (j : JSlot) (f : Job → Job) : (s.modJob j f).startNs = s.startNs := rfl
@[simp] theorem State.modJob_jnext (s : State) (j : JSlot) (f : Job → Job) : (s.modJob j f).jnext = s.jnext := rfl
@[simp] theorem State.modJob_enext (s : State) (j : JSlot) (f : Job → Job) : (s.modJob j f).enext = s.enext := rfl
@[simp] theorem State.modJob_merged (s : State) (j : JSlot) (f : Job → Job) : (s.modJob j f).merged = s.merged := rfl
@[simp] theorem State.modJob_cells (s : State) (j : JSlot) (f : Job → Job) : (s.modJob j f).cells = s.cells := rfl
@[simp] theorem State.modJob_psTab (s : State) (j : JSlot) (f : Job → Job) : (s.modJob j f).psTab = s.psTab := rfl
@[simp] theorem State.modJob_notices (s : State) (j : JSlot) (f : Job → Job) : (s.modJob j f).notices = s.notices := rfl
@[simp] theorem State.modJob_ledger (s : State) (j : JSlot) (f : Job → Job) : (s.modJob j f).ledger = s.ledger := rfl
@[simp] theorem State.modJob_psWaiting (s : State) (j : JSlot) (f : Job → Job) : (s.modJob j f).psWaiting = s.psWaiting := rfl
@[simp] theorem State.modJob_chasLines (s : State) (j : JSlot) (f : Job → Job) : (s.modJob j f).chasLines = s.chasLines := rfl
@[simp] theorem State.modJob_computeOn (s : State) (j : JSlot) (f : Job → Job) : (s.modJob j f).computeOn = s.computeOn := rfl
@[simp] theorem State.modJob_host (s : State) (j : JSlot) (f : Job → Job) : (s.modJob j f).host = s.host := rfl
@[simp] theorem State.modJob_boot (s : State) (j : JSlot) (f : Job → Job) : (s.modJob j f).boot = s.boot := rfl
@[simp] theorem State.modJob_power (s : State) (j : JSlot) (f : Job → Job) : (s.modJob j f).power = s.power := rfl
@[simp] theorem State.modJob_sec (s : State) (j : JSlot) (f : Job → Job) : (s.modJob j f).sec = s.sec := rfl
@[simp] theorem State.modJob_mailbox (s : State) (j : JSlot) (f : Job → Job) : (s.modJob j f).mailbox = s.mailbox := rfl
@[simp] theorem State.modJob_tbl (s : State) (j : JSlot) (f : Job → Job) : (s.modJob j f).tbl = s.tbl := rfl
@[simp] theorem State.modJob_entries (s : State) (j : JSlot) (f : Job → Job) : (s.modJob j f).entries = s.entries := rfl
@[simp] theorem State.modJob_free (s : State) (j : JSlot) (f : Job → Job) : (s.modJob j f).free = s.free := rfl

/-! ### `State.modLink` changes `links` -/

@[simp] theorem State.modLink_pending (s : State) (p : PortId) (f : LinkSt → LinkSt) : (s.modLink p f).pending = s.pending := rfl
@[simp] theorem State.modLink_devId (s : State) (p : PortId) (f : LinkSt → LinkSt) : (s.modLink p f).devId = s.devId := rfl
@[simp] theorem State.modLink_timebase (s : State) (p : PortId) (f : LinkSt → LinkSt) : (s.modLink p f).timebase = s.timebase := rfl
@[simp] theorem State.modLink_rootRem (s : State) (p : PortId) (f : LinkSt → LinkSt) : (s.modLink p f).rootRem = s.rootRem := rfl
@[simp] theorem State.modLink_regs (s : State) (p : PortId) (f : LinkSt → LinkSt) : (s.modLink p f).regs = s.regs := rfl
@[simp] theorem State.modLink_mem (s : State) (p : PortId) (f : LinkSt → LinkSt) : (s.modLink p f).mem = s.mem := rfl
@[simp] theorem State.modLink_tiles (s : State) (p : PortId) (f : LinkSt → LinkSt) : (s.modLink p f).tiles = s.tiles := rfl
@[simp] theorem State.modLink_mesh (s : State) (p : PortId) (f : LinkSt → LinkSt) : (s.modLink p f).mesh = s.mesh := rfl
@[simp] theorem State.modLink_poison (s : State) (p : PortId) (f : LinkSt → LinkSt) : (s.modLink p f).poison = s.poison := rfl
@[simp] theorem State.modLink_latent (s : State) (p : PortId) (f : LinkSt → LinkSt) : (s.modLink p f).latent = s.latent := rfl
@[simp] theorem State.modLink_scLines (s : State) (p : PortId) (f : LinkSt → LinkSt) : (s.modLink p f).scLines = s.scLines := rfl
@[simp] theorem State.modLink_plru (s : State) (p : PortId) (f : LinkSt → LinkSt) : (s.modLink p f).plru = s.plru := rfl
@[simp] theorem State.modLink_victims (s : State) (p : PortId) (f : LinkSt → LinkSt) : (s.modLink p f).victims = s.victims := rfl
@[simp] theorem State.modLink_trackers (s : State) (p : PortId) (f : LinkSt → LinkSt) : (s.modLink p f).trackers = s.trackers := rfl
@[simp] theorem State.modLink_ranges (s : State) (p : PortId) (f : LinkSt → LinkSt) : (s.modLink p f).ranges = s.ranges := rfl
@[simp] theorem State.modLink_excl (s : State) (p : PortId) (f : LinkSt → LinkSt) : (s.modLink p f).excl = s.excl := rfl
@[simp] theorem State.modLink_retired (s : State) (p : PortId) (f : LinkSt → LinkSt) : (s.modLink p f).retired = s.retired := rfl
@[simp] theorem State.modLink_corrected (s : State) (p : PortId) (f : LinkSt → LinkSt) : (s.modLink p f).corrected = s.corrected := rfl
@[simp] theorem State.modLink_scrubBlk (s : State) (p : PortId) (f : LinkSt → LinkSt) : (s.modLink p f).scrubBlk = s.scrubBlk := rfl
@[simp] theorem State.modLink_farResv (s : State) (p : PortId) (f : LinkSt → LinkSt) : (s.modLink p f).farResv = s.farResv := rfl
@[simp] theorem State.modLink_farWaits (s : State) (p : PortId) (f : LinkSt → LinkSt) : (s.modLink p f).farWaits = s.farWaits := rfl
@[simp] theorem State.modLink_jobs (s : State) (p : PortId) (f : LinkSt → LinkSt) : (s.modLink p f).jobs = s.jobs := rfl
@[simp] theorem State.modLink_journal (s : State) (p : PortId) (f : LinkSt → LinkSt) : (s.modLink p f).journal = s.journal := rfl
@[simp] theorem State.modLink_events (s : State) (p : PortId) (f : LinkSt → LinkSt) : (s.modLink p f).events = s.events := rfl
@[simp] theorem State.modLink_egress (s : State) (p : PortId) (f : LinkSt → LinkSt) : (s.modLink p f).egress = s.egress := rfl
@[simp] theorem State.modLink_transit (s : State) (p : PortId) (f : LinkSt → LinkSt) : (s.modLink p f).transit = s.transit := rfl
@[simp] theorem State.modLink_flashRegs (s : State) (p : PortId) (f : LinkSt → LinkSt) : (s.modLink p f).flashRegs = s.flashRegs := rfl
@[simp] theorem State.modLink_inbox (s : State) (p : PortId) (f : LinkSt → LinkSt) : (s.modLink p f).inbox = s.inbox := rfl
@[simp] theorem State.modLink_localPkts (s : State) (p : PortId) (f : LinkSt → LinkSt) : (s.modLink p f).localPkts = s.localPkts := rfl
@[simp] theorem State.modLink_cpOn (s : State) (p : PortId) (f : LinkSt → LinkSt) : (s.modLink p f).cpOn = s.cpOn := rfl
@[simp] theorem State.modLink_cpPulse (s : State) (p : PortId) (f : LinkSt → LinkSt) : (s.modLink p f).cpPulse = s.cpPulse := rfl
@[simp] theorem State.modLink_b14Passed (s : State) (p : PortId) (f : LinkSt → LinkSt) : (s.modLink p f).b14Passed = s.b14Passed := rfl
@[simp] theorem State.modLink_startNs (s : State) (p : PortId) (f : LinkSt → LinkSt) : (s.modLink p f).startNs = s.startNs := rfl
@[simp] theorem State.modLink_jnext (s : State) (p : PortId) (f : LinkSt → LinkSt) : (s.modLink p f).jnext = s.jnext := rfl
@[simp] theorem State.modLink_enext (s : State) (p : PortId) (f : LinkSt → LinkSt) : (s.modLink p f).enext = s.enext := rfl
@[simp] theorem State.modLink_merged (s : State) (p : PortId) (f : LinkSt → LinkSt) : (s.modLink p f).merged = s.merged := rfl
@[simp] theorem State.modLink_cells (s : State) (p : PortId) (f : LinkSt → LinkSt) : (s.modLink p f).cells = s.cells := rfl
@[simp] theorem State.modLink_psTab (s : State) (p : PortId) (f : LinkSt → LinkSt) : (s.modLink p f).psTab = s.psTab := rfl
@[simp] theorem State.modLink_notices (s : State) (p : PortId) (f : LinkSt → LinkSt) : (s.modLink p f).notices = s.notices := rfl
@[simp] theorem State.modLink_ledger (s : State) (p : PortId) (f : LinkSt → LinkSt) : (s.modLink p f).ledger = s.ledger := rfl
@[simp] theorem State.modLink_psWaiting (s : State) (p : PortId) (f : LinkSt → LinkSt) : (s.modLink p f).psWaiting = s.psWaiting := rfl
@[simp] theorem State.modLink_chasLines (s : State) (p : PortId) (f : LinkSt → LinkSt) : (s.modLink p f).chasLines = s.chasLines := rfl
@[simp] theorem State.modLink_computeOn (s : State) (p : PortId) (f : LinkSt → LinkSt) : (s.modLink p f).computeOn = s.computeOn := rfl
@[simp] theorem State.modLink_host (s : State) (p : PortId) (f : LinkSt → LinkSt) : (s.modLink p f).host = s.host := rfl
@[simp] theorem State.modLink_boot (s : State) (p : PortId) (f : LinkSt → LinkSt) : (s.modLink p f).boot = s.boot := rfl
@[simp] theorem State.modLink_power (s : State) (p : PortId) (f : LinkSt → LinkSt) : (s.modLink p f).power = s.power := rfl
@[simp] theorem State.modLink_sec (s : State) (p : PortId) (f : LinkSt → LinkSt) : (s.modLink p f).sec = s.sec := rfl
@[simp] theorem State.modLink_mailbox (s : State) (p : PortId) (f : LinkSt → LinkSt) : (s.modLink p f).mailbox = s.mailbox := rfl
@[simp] theorem State.modLink_tbl (s : State) (p : PortId) (f : LinkSt → LinkSt) : (s.modLink p f).tbl = s.tbl := rfl
@[simp] theorem State.modLink_entries (s : State) (p : PortId) (f : LinkSt → LinkSt) : (s.modLink p f).entries = s.entries := rfl
@[simp] theorem State.modLink_free (s : State) (p : PortId) (f : LinkSt → LinkSt) : (s.modLink p f).free = s.free := rfl

/-! ### `State.modCell` changes `cells` -/

@[simp] theorem State.modCell_pending (s : State) (d : DieId) (n : Fin 65536) (f : Cell → Cell) : (s.modCell d n f).pending = s.pending := rfl
@[simp] theorem State.modCell_devId (s : State) (d : DieId) (n : Fin 65536) (f : Cell → Cell) : (s.modCell d n f).devId = s.devId := rfl
@[simp] theorem State.modCell_timebase (s : State) (d : DieId) (n : Fin 65536) (f : Cell → Cell) : (s.modCell d n f).timebase = s.timebase := rfl
@[simp] theorem State.modCell_rootRem (s : State) (d : DieId) (n : Fin 65536) (f : Cell → Cell) : (s.modCell d n f).rootRem = s.rootRem := rfl
@[simp] theorem State.modCell_regs (s : State) (d : DieId) (n : Fin 65536) (f : Cell → Cell) : (s.modCell d n f).regs = s.regs := rfl
@[simp] theorem State.modCell_mem (s : State) (d : DieId) (n : Fin 65536) (f : Cell → Cell) : (s.modCell d n f).mem = s.mem := rfl
@[simp] theorem State.modCell_tiles (s : State) (d : DieId) (n : Fin 65536) (f : Cell → Cell) : (s.modCell d n f).tiles = s.tiles := rfl
@[simp] theorem State.modCell_mesh (s : State) (d : DieId) (n : Fin 65536) (f : Cell → Cell) : (s.modCell d n f).mesh = s.mesh := rfl
@[simp] theorem State.modCell_poison (s : State) (d : DieId) (n : Fin 65536) (f : Cell → Cell) : (s.modCell d n f).poison = s.poison := rfl
@[simp] theorem State.modCell_latent (s : State) (d : DieId) (n : Fin 65536) (f : Cell → Cell) : (s.modCell d n f).latent = s.latent := rfl
@[simp] theorem State.modCell_scLines (s : State) (d : DieId) (n : Fin 65536) (f : Cell → Cell) : (s.modCell d n f).scLines = s.scLines := rfl
@[simp] theorem State.modCell_plru (s : State) (d : DieId) (n : Fin 65536) (f : Cell → Cell) : (s.modCell d n f).plru = s.plru := rfl
@[simp] theorem State.modCell_victims (s : State) (d : DieId) (n : Fin 65536) (f : Cell → Cell) : (s.modCell d n f).victims = s.victims := rfl
@[simp] theorem State.modCell_trackers (s : State) (d : DieId) (n : Fin 65536) (f : Cell → Cell) : (s.modCell d n f).trackers = s.trackers := rfl
@[simp] theorem State.modCell_ranges (s : State) (d : DieId) (n : Fin 65536) (f : Cell → Cell) : (s.modCell d n f).ranges = s.ranges := rfl
@[simp] theorem State.modCell_excl (s : State) (d : DieId) (n : Fin 65536) (f : Cell → Cell) : (s.modCell d n f).excl = s.excl := rfl
@[simp] theorem State.modCell_retired (s : State) (d : DieId) (n : Fin 65536) (f : Cell → Cell) : (s.modCell d n f).retired = s.retired := rfl
@[simp] theorem State.modCell_corrected (s : State) (d : DieId) (n : Fin 65536) (f : Cell → Cell) : (s.modCell d n f).corrected = s.corrected := rfl
@[simp] theorem State.modCell_scrubBlk (s : State) (d : DieId) (n : Fin 65536) (f : Cell → Cell) : (s.modCell d n f).scrubBlk = s.scrubBlk := rfl
@[simp] theorem State.modCell_farResv (s : State) (d : DieId) (n : Fin 65536) (f : Cell → Cell) : (s.modCell d n f).farResv = s.farResv := rfl
@[simp] theorem State.modCell_farWaits (s : State) (d : DieId) (n : Fin 65536) (f : Cell → Cell) : (s.modCell d n f).farWaits = s.farWaits := rfl
@[simp] theorem State.modCell_jobs (s : State) (d : DieId) (n : Fin 65536) (f : Cell → Cell) : (s.modCell d n f).jobs = s.jobs := rfl
@[simp] theorem State.modCell_journal (s : State) (d : DieId) (n : Fin 65536) (f : Cell → Cell) : (s.modCell d n f).journal = s.journal := rfl
@[simp] theorem State.modCell_events (s : State) (d : DieId) (n : Fin 65536) (f : Cell → Cell) : (s.modCell d n f).events = s.events := rfl
@[simp] theorem State.modCell_links (s : State) (d : DieId) (n : Fin 65536) (f : Cell → Cell) : (s.modCell d n f).links = s.links := rfl
@[simp] theorem State.modCell_egress (s : State) (d : DieId) (n : Fin 65536) (f : Cell → Cell) : (s.modCell d n f).egress = s.egress := rfl
@[simp] theorem State.modCell_transit (s : State) (d : DieId) (n : Fin 65536) (f : Cell → Cell) : (s.modCell d n f).transit = s.transit := rfl
@[simp] theorem State.modCell_flashRegs (s : State) (d : DieId) (n : Fin 65536) (f : Cell → Cell) : (s.modCell d n f).flashRegs = s.flashRegs := rfl
@[simp] theorem State.modCell_inbox (s : State) (d : DieId) (n : Fin 65536) (f : Cell → Cell) : (s.modCell d n f).inbox = s.inbox := rfl
@[simp] theorem State.modCell_localPkts (s : State) (d : DieId) (n : Fin 65536) (f : Cell → Cell) : (s.modCell d n f).localPkts = s.localPkts := rfl
@[simp] theorem State.modCell_cpOn (s : State) (d : DieId) (n : Fin 65536) (f : Cell → Cell) : (s.modCell d n f).cpOn = s.cpOn := rfl
@[simp] theorem State.modCell_cpPulse (s : State) (d : DieId) (n : Fin 65536) (f : Cell → Cell) : (s.modCell d n f).cpPulse = s.cpPulse := rfl
@[simp] theorem State.modCell_b14Passed (s : State) (d : DieId) (n : Fin 65536) (f : Cell → Cell) : (s.modCell d n f).b14Passed = s.b14Passed := rfl
@[simp] theorem State.modCell_startNs (s : State) (d : DieId) (n : Fin 65536) (f : Cell → Cell) : (s.modCell d n f).startNs = s.startNs := rfl
@[simp] theorem State.modCell_jnext (s : State) (d : DieId) (n : Fin 65536) (f : Cell → Cell) : (s.modCell d n f).jnext = s.jnext := rfl
@[simp] theorem State.modCell_enext (s : State) (d : DieId) (n : Fin 65536) (f : Cell → Cell) : (s.modCell d n f).enext = s.enext := rfl
@[simp] theorem State.modCell_merged (s : State) (d : DieId) (n : Fin 65536) (f : Cell → Cell) : (s.modCell d n f).merged = s.merged := rfl
@[simp] theorem State.modCell_psTab (s : State) (d : DieId) (n : Fin 65536) (f : Cell → Cell) : (s.modCell d n f).psTab = s.psTab := rfl
@[simp] theorem State.modCell_notices (s : State) (d : DieId) (n : Fin 65536) (f : Cell → Cell) : (s.modCell d n f).notices = s.notices := rfl
@[simp] theorem State.modCell_ledger (s : State) (d : DieId) (n : Fin 65536) (f : Cell → Cell) : (s.modCell d n f).ledger = s.ledger := rfl
@[simp] theorem State.modCell_psWaiting (s : State) (d : DieId) (n : Fin 65536) (f : Cell → Cell) : (s.modCell d n f).psWaiting = s.psWaiting := rfl
@[simp] theorem State.modCell_chasLines (s : State) (d : DieId) (n : Fin 65536) (f : Cell → Cell) : (s.modCell d n f).chasLines = s.chasLines := rfl
@[simp] theorem State.modCell_computeOn (s : State) (d : DieId) (n : Fin 65536) (f : Cell → Cell) : (s.modCell d n f).computeOn = s.computeOn := rfl
@[simp] theorem State.modCell_host (s : State) (d : DieId) (n : Fin 65536) (f : Cell → Cell) : (s.modCell d n f).host = s.host := rfl
@[simp] theorem State.modCell_boot (s : State) (d : DieId) (n : Fin 65536) (f : Cell → Cell) : (s.modCell d n f).boot = s.boot := rfl
@[simp] theorem State.modCell_power (s : State) (d : DieId) (n : Fin 65536) (f : Cell → Cell) : (s.modCell d n f).power = s.power := rfl
@[simp] theorem State.modCell_sec (s : State) (d : DieId) (n : Fin 65536) (f : Cell → Cell) : (s.modCell d n f).sec = s.sec := rfl
@[simp] theorem State.modCell_mailbox (s : State) (d : DieId) (n : Fin 65536) (f : Cell → Cell) : (s.modCell d n f).mailbox = s.mailbox := rfl
@[simp] theorem State.modCell_tbl (s : State) (d : DieId) (n : Fin 65536) (f : Cell → Cell) : (s.modCell d n f).tbl = s.tbl := rfl
@[simp] theorem State.modCell_entries (s : State) (d : DieId) (n : Fin 65536) (f : Cell → Cell) : (s.modCell d n f).entries = s.entries := rfl
@[simp] theorem State.modCell_free (s : State) (d : DieId) (n : Fin 65536) (f : Cell → Cell) : (s.modCell d n f).free = s.free := rfl

/-! ### `State.modConn` changes `host` -/

@[simp] theorem State.modConn_pending (s : State) (c : Fin 1024) (f : Conn → Conn) : (s.modConn c f).pending = s.pending := rfl
@[simp] theorem State.modConn_devId (s : State) (c : Fin 1024) (f : Conn → Conn) : (s.modConn c f).devId = s.devId := rfl
@[simp] theorem State.modConn_timebase (s : State) (c : Fin 1024) (f : Conn → Conn) : (s.modConn c f).timebase = s.timebase := rfl
@[simp] theorem State.modConn_rootRem (s : State) (c : Fin 1024) (f : Conn → Conn) : (s.modConn c f).rootRem = s.rootRem := rfl
@[simp] theorem State.modConn_regs (s : State) (c : Fin 1024) (f : Conn → Conn) : (s.modConn c f).regs = s.regs := rfl
@[simp] theorem State.modConn_mem (s : State) (c : Fin 1024) (f : Conn → Conn) : (s.modConn c f).mem = s.mem := rfl
@[simp] theorem State.modConn_tiles (s : State) (c : Fin 1024) (f : Conn → Conn) : (s.modConn c f).tiles = s.tiles := rfl
@[simp] theorem State.modConn_mesh (s : State) (c : Fin 1024) (f : Conn → Conn) : (s.modConn c f).mesh = s.mesh := rfl
@[simp] theorem State.modConn_poison (s : State) (c : Fin 1024) (f : Conn → Conn) : (s.modConn c f).poison = s.poison := rfl
@[simp] theorem State.modConn_latent (s : State) (c : Fin 1024) (f : Conn → Conn) : (s.modConn c f).latent = s.latent := rfl
@[simp] theorem State.modConn_scLines (s : State) (c : Fin 1024) (f : Conn → Conn) : (s.modConn c f).scLines = s.scLines := rfl
@[simp] theorem State.modConn_plru (s : State) (c : Fin 1024) (f : Conn → Conn) : (s.modConn c f).plru = s.plru := rfl
@[simp] theorem State.modConn_victims (s : State) (c : Fin 1024) (f : Conn → Conn) : (s.modConn c f).victims = s.victims := rfl
@[simp] theorem State.modConn_trackers (s : State) (c : Fin 1024) (f : Conn → Conn) : (s.modConn c f).trackers = s.trackers := rfl
@[simp] theorem State.modConn_ranges (s : State) (c : Fin 1024) (f : Conn → Conn) : (s.modConn c f).ranges = s.ranges := rfl
@[simp] theorem State.modConn_excl (s : State) (c : Fin 1024) (f : Conn → Conn) : (s.modConn c f).excl = s.excl := rfl
@[simp] theorem State.modConn_retired (s : State) (c : Fin 1024) (f : Conn → Conn) : (s.modConn c f).retired = s.retired := rfl
@[simp] theorem State.modConn_corrected (s : State) (c : Fin 1024) (f : Conn → Conn) : (s.modConn c f).corrected = s.corrected := rfl
@[simp] theorem State.modConn_scrubBlk (s : State) (c : Fin 1024) (f : Conn → Conn) : (s.modConn c f).scrubBlk = s.scrubBlk := rfl
@[simp] theorem State.modConn_farResv (s : State) (c : Fin 1024) (f : Conn → Conn) : (s.modConn c f).farResv = s.farResv := rfl
@[simp] theorem State.modConn_farWaits (s : State) (c : Fin 1024) (f : Conn → Conn) : (s.modConn c f).farWaits = s.farWaits := rfl
@[simp] theorem State.modConn_jobs (s : State) (c : Fin 1024) (f : Conn → Conn) : (s.modConn c f).jobs = s.jobs := rfl
@[simp] theorem State.modConn_journal (s : State) (c : Fin 1024) (f : Conn → Conn) : (s.modConn c f).journal = s.journal := rfl
@[simp] theorem State.modConn_events (s : State) (c : Fin 1024) (f : Conn → Conn) : (s.modConn c f).events = s.events := rfl
@[simp] theorem State.modConn_links (s : State) (c : Fin 1024) (f : Conn → Conn) : (s.modConn c f).links = s.links := rfl
@[simp] theorem State.modConn_egress (s : State) (c : Fin 1024) (f : Conn → Conn) : (s.modConn c f).egress = s.egress := rfl
@[simp] theorem State.modConn_transit (s : State) (c : Fin 1024) (f : Conn → Conn) : (s.modConn c f).transit = s.transit := rfl
@[simp] theorem State.modConn_flashRegs (s : State) (c : Fin 1024) (f : Conn → Conn) : (s.modConn c f).flashRegs = s.flashRegs := rfl
@[simp] theorem State.modConn_inbox (s : State) (c : Fin 1024) (f : Conn → Conn) : (s.modConn c f).inbox = s.inbox := rfl
@[simp] theorem State.modConn_localPkts (s : State) (c : Fin 1024) (f : Conn → Conn) : (s.modConn c f).localPkts = s.localPkts := rfl
@[simp] theorem State.modConn_cpOn (s : State) (c : Fin 1024) (f : Conn → Conn) : (s.modConn c f).cpOn = s.cpOn := rfl
@[simp] theorem State.modConn_cpPulse (s : State) (c : Fin 1024) (f : Conn → Conn) : (s.modConn c f).cpPulse = s.cpPulse := rfl
@[simp] theorem State.modConn_b14Passed (s : State) (c : Fin 1024) (f : Conn → Conn) : (s.modConn c f).b14Passed = s.b14Passed := rfl
@[simp] theorem State.modConn_startNs (s : State) (c : Fin 1024) (f : Conn → Conn) : (s.modConn c f).startNs = s.startNs := rfl
@[simp] theorem State.modConn_jnext (s : State) (c : Fin 1024) (f : Conn → Conn) : (s.modConn c f).jnext = s.jnext := rfl
@[simp] theorem State.modConn_enext (s : State) (c : Fin 1024) (f : Conn → Conn) : (s.modConn c f).enext = s.enext := rfl
@[simp] theorem State.modConn_merged (s : State) (c : Fin 1024) (f : Conn → Conn) : (s.modConn c f).merged = s.merged := rfl
@[simp] theorem State.modConn_cells (s : State) (c : Fin 1024) (f : Conn → Conn) : (s.modConn c f).cells = s.cells := rfl
@[simp] theorem State.modConn_psTab (s : State) (c : Fin 1024) (f : Conn → Conn) : (s.modConn c f).psTab = s.psTab := rfl
@[simp] theorem State.modConn_notices (s : State) (c : Fin 1024) (f : Conn → Conn) : (s.modConn c f).notices = s.notices := rfl
@[simp] theorem State.modConn_ledger (s : State) (c : Fin 1024) (f : Conn → Conn) : (s.modConn c f).ledger = s.ledger := rfl
@[simp] theorem State.modConn_psWaiting (s : State) (c : Fin 1024) (f : Conn → Conn) : (s.modConn c f).psWaiting = s.psWaiting := rfl
@[simp] theorem State.modConn_chasLines (s : State) (c : Fin 1024) (f : Conn → Conn) : (s.modConn c f).chasLines = s.chasLines := rfl
@[simp] theorem State.modConn_computeOn (s : State) (c : Fin 1024) (f : Conn → Conn) : (s.modConn c f).computeOn = s.computeOn := rfl
@[simp] theorem State.modConn_boot (s : State) (c : Fin 1024) (f : Conn → Conn) : (s.modConn c f).boot = s.boot := rfl
@[simp] theorem State.modConn_power (s : State) (c : Fin 1024) (f : Conn → Conn) : (s.modConn c f).power = s.power := rfl
@[simp] theorem State.modConn_sec (s : State) (c : Fin 1024) (f : Conn → Conn) : (s.modConn c f).sec = s.sec := rfl
@[simp] theorem State.modConn_mailbox (s : State) (c : Fin 1024) (f : Conn → Conn) : (s.modConn c f).mailbox = s.mailbox := rfl
@[simp] theorem State.modConn_tbl (s : State) (c : Fin 1024) (f : Conn → Conn) : (s.modConn c f).tbl = s.tbl := rfl
@[simp] theorem State.modConn_entries (s : State) (c : Fin 1024) (f : Conn → Conn) : (s.modConn c f).entries = s.entries := rfl
@[simp] theorem State.modConn_free (s : State) (c : Fin 1024) (f : Conn → Conn) : (s.modConn c f).free = s.free := rfl

/-! ### `State.modHost` changes `host` -/

@[simp] theorem State.modHost_pending (s : State) (f : HostSt → HostSt) : (s.modHost f).pending = s.pending := rfl
@[simp] theorem State.modHost_devId (s : State) (f : HostSt → HostSt) : (s.modHost f).devId = s.devId := rfl
@[simp] theorem State.modHost_timebase (s : State) (f : HostSt → HostSt) : (s.modHost f).timebase = s.timebase := rfl
@[simp] theorem State.modHost_rootRem (s : State) (f : HostSt → HostSt) : (s.modHost f).rootRem = s.rootRem := rfl
@[simp] theorem State.modHost_regs (s : State) (f : HostSt → HostSt) : (s.modHost f).regs = s.regs := rfl
@[simp] theorem State.modHost_mem (s : State) (f : HostSt → HostSt) : (s.modHost f).mem = s.mem := rfl
@[simp] theorem State.modHost_tiles (s : State) (f : HostSt → HostSt) : (s.modHost f).tiles = s.tiles := rfl
@[simp] theorem State.modHost_mesh (s : State) (f : HostSt → HostSt) : (s.modHost f).mesh = s.mesh := rfl
@[simp] theorem State.modHost_poison (s : State) (f : HostSt → HostSt) : (s.modHost f).poison = s.poison := rfl
@[simp] theorem State.modHost_latent (s : State) (f : HostSt → HostSt) : (s.modHost f).latent = s.latent := rfl
@[simp] theorem State.modHost_scLines (s : State) (f : HostSt → HostSt) : (s.modHost f).scLines = s.scLines := rfl
@[simp] theorem State.modHost_plru (s : State) (f : HostSt → HostSt) : (s.modHost f).plru = s.plru := rfl
@[simp] theorem State.modHost_victims (s : State) (f : HostSt → HostSt) : (s.modHost f).victims = s.victims := rfl
@[simp] theorem State.modHost_trackers (s : State) (f : HostSt → HostSt) : (s.modHost f).trackers = s.trackers := rfl
@[simp] theorem State.modHost_ranges (s : State) (f : HostSt → HostSt) : (s.modHost f).ranges = s.ranges := rfl
@[simp] theorem State.modHost_excl (s : State) (f : HostSt → HostSt) : (s.modHost f).excl = s.excl := rfl
@[simp] theorem State.modHost_retired (s : State) (f : HostSt → HostSt) : (s.modHost f).retired = s.retired := rfl
@[simp] theorem State.modHost_corrected (s : State) (f : HostSt → HostSt) : (s.modHost f).corrected = s.corrected := rfl
@[simp] theorem State.modHost_scrubBlk (s : State) (f : HostSt → HostSt) : (s.modHost f).scrubBlk = s.scrubBlk := rfl
@[simp] theorem State.modHost_farResv (s : State) (f : HostSt → HostSt) : (s.modHost f).farResv = s.farResv := rfl
@[simp] theorem State.modHost_farWaits (s : State) (f : HostSt → HostSt) : (s.modHost f).farWaits = s.farWaits := rfl
@[simp] theorem State.modHost_jobs (s : State) (f : HostSt → HostSt) : (s.modHost f).jobs = s.jobs := rfl
@[simp] theorem State.modHost_journal (s : State) (f : HostSt → HostSt) : (s.modHost f).journal = s.journal := rfl
@[simp] theorem State.modHost_events (s : State) (f : HostSt → HostSt) : (s.modHost f).events = s.events := rfl
@[simp] theorem State.modHost_links (s : State) (f : HostSt → HostSt) : (s.modHost f).links = s.links := rfl
@[simp] theorem State.modHost_egress (s : State) (f : HostSt → HostSt) : (s.modHost f).egress = s.egress := rfl
@[simp] theorem State.modHost_transit (s : State) (f : HostSt → HostSt) : (s.modHost f).transit = s.transit := rfl
@[simp] theorem State.modHost_flashRegs (s : State) (f : HostSt → HostSt) : (s.modHost f).flashRegs = s.flashRegs := rfl
@[simp] theorem State.modHost_inbox (s : State) (f : HostSt → HostSt) : (s.modHost f).inbox = s.inbox := rfl
@[simp] theorem State.modHost_localPkts (s : State) (f : HostSt → HostSt) : (s.modHost f).localPkts = s.localPkts := rfl
@[simp] theorem State.modHost_cpOn (s : State) (f : HostSt → HostSt) : (s.modHost f).cpOn = s.cpOn := rfl
@[simp] theorem State.modHost_cpPulse (s : State) (f : HostSt → HostSt) : (s.modHost f).cpPulse = s.cpPulse := rfl
@[simp] theorem State.modHost_b14Passed (s : State) (f : HostSt → HostSt) : (s.modHost f).b14Passed = s.b14Passed := rfl
@[simp] theorem State.modHost_startNs (s : State) (f : HostSt → HostSt) : (s.modHost f).startNs = s.startNs := rfl
@[simp] theorem State.modHost_jnext (s : State) (f : HostSt → HostSt) : (s.modHost f).jnext = s.jnext := rfl
@[simp] theorem State.modHost_enext (s : State) (f : HostSt → HostSt) : (s.modHost f).enext = s.enext := rfl
@[simp] theorem State.modHost_merged (s : State) (f : HostSt → HostSt) : (s.modHost f).merged = s.merged := rfl
@[simp] theorem State.modHost_cells (s : State) (f : HostSt → HostSt) : (s.modHost f).cells = s.cells := rfl
@[simp] theorem State.modHost_psTab (s : State) (f : HostSt → HostSt) : (s.modHost f).psTab = s.psTab := rfl
@[simp] theorem State.modHost_notices (s : State) (f : HostSt → HostSt) : (s.modHost f).notices = s.notices := rfl
@[simp] theorem State.modHost_ledger (s : State) (f : HostSt → HostSt) : (s.modHost f).ledger = s.ledger := rfl
@[simp] theorem State.modHost_psWaiting (s : State) (f : HostSt → HostSt) : (s.modHost f).psWaiting = s.psWaiting := rfl
@[simp] theorem State.modHost_chasLines (s : State) (f : HostSt → HostSt) : (s.modHost f).chasLines = s.chasLines := rfl
@[simp] theorem State.modHost_computeOn (s : State) (f : HostSt → HostSt) : (s.modHost f).computeOn = s.computeOn := rfl
@[simp] theorem State.modHost_boot (s : State) (f : HostSt → HostSt) : (s.modHost f).boot = s.boot := rfl
@[simp] theorem State.modHost_power (s : State) (f : HostSt → HostSt) : (s.modHost f).power = s.power := rfl
@[simp] theorem State.modHost_sec (s : State) (f : HostSt → HostSt) : (s.modHost f).sec = s.sec := rfl
@[simp] theorem State.modHost_mailbox (s : State) (f : HostSt → HostSt) : (s.modHost f).mailbox = s.mailbox := rfl
@[simp] theorem State.modHost_tbl (s : State) (f : HostSt → HostSt) : (s.modHost f).tbl = s.tbl := rfl
@[simp] theorem State.modHost_entries (s : State) (f : HostSt → HostSt) : (s.modHost f).entries = s.entries := rfl
@[simp] theorem State.modHost_free (s : State) (f : HostSt → HostSt) : (s.modHost f).free = s.free := rfl

/-! ### `State.modPower` changes `power` -/

@[simp] theorem State.modPower_pending (s : State) (f : Power → Power) : (s.modPower f).pending = s.pending := rfl
@[simp] theorem State.modPower_devId (s : State) (f : Power → Power) : (s.modPower f).devId = s.devId := rfl
@[simp] theorem State.modPower_timebase (s : State) (f : Power → Power) : (s.modPower f).timebase = s.timebase := rfl
@[simp] theorem State.modPower_rootRem (s : State) (f : Power → Power) : (s.modPower f).rootRem = s.rootRem := rfl
@[simp] theorem State.modPower_regs (s : State) (f : Power → Power) : (s.modPower f).regs = s.regs := rfl
@[simp] theorem State.modPower_mem (s : State) (f : Power → Power) : (s.modPower f).mem = s.mem := rfl
@[simp] theorem State.modPower_tiles (s : State) (f : Power → Power) : (s.modPower f).tiles = s.tiles := rfl
@[simp] theorem State.modPower_mesh (s : State) (f : Power → Power) : (s.modPower f).mesh = s.mesh := rfl
@[simp] theorem State.modPower_poison (s : State) (f : Power → Power) : (s.modPower f).poison = s.poison := rfl
@[simp] theorem State.modPower_latent (s : State) (f : Power → Power) : (s.modPower f).latent = s.latent := rfl
@[simp] theorem State.modPower_scLines (s : State) (f : Power → Power) : (s.modPower f).scLines = s.scLines := rfl
@[simp] theorem State.modPower_plru (s : State) (f : Power → Power) : (s.modPower f).plru = s.plru := rfl
@[simp] theorem State.modPower_victims (s : State) (f : Power → Power) : (s.modPower f).victims = s.victims := rfl
@[simp] theorem State.modPower_trackers (s : State) (f : Power → Power) : (s.modPower f).trackers = s.trackers := rfl
@[simp] theorem State.modPower_ranges (s : State) (f : Power → Power) : (s.modPower f).ranges = s.ranges := rfl
@[simp] theorem State.modPower_excl (s : State) (f : Power → Power) : (s.modPower f).excl = s.excl := rfl
@[simp] theorem State.modPower_retired (s : State) (f : Power → Power) : (s.modPower f).retired = s.retired := rfl
@[simp] theorem State.modPower_corrected (s : State) (f : Power → Power) : (s.modPower f).corrected = s.corrected := rfl
@[simp] theorem State.modPower_scrubBlk (s : State) (f : Power → Power) : (s.modPower f).scrubBlk = s.scrubBlk := rfl
@[simp] theorem State.modPower_farResv (s : State) (f : Power → Power) : (s.modPower f).farResv = s.farResv := rfl
@[simp] theorem State.modPower_farWaits (s : State) (f : Power → Power) : (s.modPower f).farWaits = s.farWaits := rfl
@[simp] theorem State.modPower_jobs (s : State) (f : Power → Power) : (s.modPower f).jobs = s.jobs := rfl
@[simp] theorem State.modPower_journal (s : State) (f : Power → Power) : (s.modPower f).journal = s.journal := rfl
@[simp] theorem State.modPower_events (s : State) (f : Power → Power) : (s.modPower f).events = s.events := rfl
@[simp] theorem State.modPower_links (s : State) (f : Power → Power) : (s.modPower f).links = s.links := rfl
@[simp] theorem State.modPower_egress (s : State) (f : Power → Power) : (s.modPower f).egress = s.egress := rfl
@[simp] theorem State.modPower_transit (s : State) (f : Power → Power) : (s.modPower f).transit = s.transit := rfl
@[simp] theorem State.modPower_flashRegs (s : State) (f : Power → Power) : (s.modPower f).flashRegs = s.flashRegs := rfl
@[simp] theorem State.modPower_inbox (s : State) (f : Power → Power) : (s.modPower f).inbox = s.inbox := rfl
@[simp] theorem State.modPower_localPkts (s : State) (f : Power → Power) : (s.modPower f).localPkts = s.localPkts := rfl
@[simp] theorem State.modPower_cpOn (s : State) (f : Power → Power) : (s.modPower f).cpOn = s.cpOn := rfl
@[simp] theorem State.modPower_cpPulse (s : State) (f : Power → Power) : (s.modPower f).cpPulse = s.cpPulse := rfl
@[simp] theorem State.modPower_b14Passed (s : State) (f : Power → Power) : (s.modPower f).b14Passed = s.b14Passed := rfl
@[simp] theorem State.modPower_startNs (s : State) (f : Power → Power) : (s.modPower f).startNs = s.startNs := rfl
@[simp] theorem State.modPower_jnext (s : State) (f : Power → Power) : (s.modPower f).jnext = s.jnext := rfl
@[simp] theorem State.modPower_enext (s : State) (f : Power → Power) : (s.modPower f).enext = s.enext := rfl
@[simp] theorem State.modPower_merged (s : State) (f : Power → Power) : (s.modPower f).merged = s.merged := rfl
@[simp] theorem State.modPower_cells (s : State) (f : Power → Power) : (s.modPower f).cells = s.cells := rfl
@[simp] theorem State.modPower_psTab (s : State) (f : Power → Power) : (s.modPower f).psTab = s.psTab := rfl
@[simp] theorem State.modPower_notices (s : State) (f : Power → Power) : (s.modPower f).notices = s.notices := rfl
@[simp] theorem State.modPower_ledger (s : State) (f : Power → Power) : (s.modPower f).ledger = s.ledger := rfl
@[simp] theorem State.modPower_psWaiting (s : State) (f : Power → Power) : (s.modPower f).psWaiting = s.psWaiting := rfl
@[simp] theorem State.modPower_chasLines (s : State) (f : Power → Power) : (s.modPower f).chasLines = s.chasLines := rfl
@[simp] theorem State.modPower_computeOn (s : State) (f : Power → Power) : (s.modPower f).computeOn = s.computeOn := rfl
@[simp] theorem State.modPower_host (s : State) (f : Power → Power) : (s.modPower f).host = s.host := rfl
@[simp] theorem State.modPower_boot (s : State) (f : Power → Power) : (s.modPower f).boot = s.boot := rfl
@[simp] theorem State.modPower_sec (s : State) (f : Power → Power) : (s.modPower f).sec = s.sec := rfl
@[simp] theorem State.modPower_mailbox (s : State) (f : Power → Power) : (s.modPower f).mailbox = s.mailbox := rfl
@[simp] theorem State.modPower_tbl (s : State) (f : Power → Power) : (s.modPower f).tbl = s.tbl := rfl
@[simp] theorem State.modPower_entries (s : State) (f : Power → Power) : (s.modPower f).entries = s.entries := rfl
@[simp] theorem State.modPower_free (s : State) (f : Power → Power) : (s.modPower f).free = s.free := rfl

end Sys2Proof.Machine
end

