-- ==== Sys2Proof/Laws/Tab.lean ====
section
/-! SUPPORT. Laws of sparse tables: a read after a write. -/

namespace Sys2Proof.Machine

variable {κ α : Type} [DecidableEq κ]

@[simp] theorem Tab.find?_set_self (t : Tab κ α) (k : κ) (v : α) : Tab.find? (Tab.set t k v) k = some v := by
  induction t with
  | nil => simp [Tab.set, Tab.find?]
  | cons p t ih =>
    obtain ⟨k', v'⟩ := p
    by_cases h : k' = k
    · simp [Tab.set, Tab.find?, h]
    · simp [Tab.set, Tab.find?, h, ih]

theorem Tab.find?_set_ne (t : Tab κ α) {k k' : κ} (v : α) (h : k' ≠ k) : Tab.find? (Tab.set t k v) k' = Tab.find? t k' := by
  induction t with
  | nil => simp [Tab.set, Tab.find?, Ne.symm h]
  | cons p t ih =>
    obtain ⟨a, b⟩ := p
    by_cases ha : a = k
    · subst ha
      simp [Tab.set, Tab.find?, Ne.symm h]
    · by_cases hb : a = k'
      · subst hb
        simp [Tab.set, Tab.find?, h]
      · simp [Tab.set, Tab.find?, ha, hb, ih]

@[simp] theorem Tab.get_set_self (d : α) (t : Tab κ α) (k : κ) (v : α) : Tab.get d (Tab.set t k v) k = v := by
  simp [Tab.get]

theorem Tab.get_set_ne (d : α) (t : Tab κ α) {k k' : κ} (v : α) (h : k' ≠ k) : Tab.get d (Tab.set t k v) k' = Tab.get d t k' := by
  simp [Tab.get, Tab.find?_set_ne t v h]

theorem Tab.erase_cons (a : κ) (b : α) (t : Tab κ α) (k : κ) :
    Tab.erase ((a, b) :: t) k = if a = k then Tab.erase t k else (a, b) :: Tab.erase t k := by
  by_cases h : a = k <;> simp [Tab.erase, h]

theorem Tab.find?_erase_ne (t : Tab κ α) {k k' : κ} (h : k' ≠ k) : Tab.find? (Tab.erase t k) k' = Tab.find? t k' := by
  induction t with
  | nil => rfl
  | cons p t ih =>
    obtain ⟨a, b⟩ := p
    rw [Tab.erase_cons]
    by_cases ha : a = k
    · subst ha
      simp [Tab.find?, Ne.symm h, ih]
    · simp [ha, Tab.find?, ih]

@[simp] theorem Tab.find?_erase_self (t : Tab κ α) (k : κ) : Tab.find? (Tab.erase t k) k = none := by
  induction t with
  | nil => rfl
  | cons p t ih =>
    obtain ⟨a, b⟩ := p
    rw [Tab.erase_cons]
    by_cases ha : a = k <;> simp [ha, Tab.find?, ih]

end Sys2Proof.Machine
end

