-- ==== Sys2Proof/Laws/Ctx.lean ====
section
/-! SUPPORT. Laws of tiles, contexts and registers: a read after a write, and what memory reads depend on. -/

namespace Sys2Proof.Machine

/-! ### Tiles -/

@[simp] theorem State.tile_setTile_self (s : State) (t : TileId) (T : Tile) : (s.setTile t T).tile t = T := by
  simp [State.tile, State.setTile]

theorem State.tile_setTile_ne (s : State) {t u : TileId} (T : Tile) (h : u ≠ t) : (s.setTile t T).tile u = s.tile u := by
  simp [State.tile, State.setTile, Tab.get_set_ne _ _ _ h]

@[simp] theorem State.tile_modTile_self (s : State) (t : TileId) (f : Tile → Tile) : (s.modTile t f).tile t = (f (s.tile t)).abort := by
  simp [State.modTile]

theorem State.tile_modTile_ne (s : State) {t u : TileId} (f : Tile → Tile) (h : u ≠ t) : (s.modTile t f).tile u = s.tile u := by
  simp [State.modTile, State.tile_setTile_ne _ _ h]

@[simp] theorem State.tile_setReg (s : State) (r : Reg) (w : Word) (u : TileId) : (s.setReg r w).tile u = s.tile u := rfl
@[simp] theorem State.tile_modReg (s : State) (r : Reg) (f : Word → Word) (u : TileId) : (s.modReg r f).tile u = s.tile u := rfl
@[simp] theorem State.tile_modJob (s : State) (j : JSlot) (f : Job → Job) (u : TileId) : (s.modJob j f).tile u = s.tile u := rfl

/-! ### What a patience slice given up leaves alone (R551) -/

@[simp] theorem Tile.abort_ctxs (T : Tile) : T.abort.ctxs = T.ctxs := by unfold Tile.abort; split <;> rfl
@[simp] theorem Tile.abort_slots (T : Tile) : T.abort.slots = T.slots := by unfold Tile.abort; split <;> rfl
@[simp] theorem Tile.abort_vctxs (T : Tile) : T.abort.vctxs = T.vctxs := by unfold Tile.abort; split <;> rfl
@[simp] theorem Tile.abort_memq (T : Tile) : T.abort.memq = T.memq := by unfold Tile.abort; split <;> rfl
@[simp] theorem Tile.abort_tokq (T : Tile) : T.abort.tokq = T.tokq := by unfold Tile.abort; split <;> rfl
@[simp] theorem Tile.abort_seq (T : Tile) : T.abort.seq = T.seq := by unfold Tile.abort; split <;> rfl
@[simp] theorem Tile.abort_tlb (T : Tile) : T.abort.tlb = T.tlb := by unfold Tile.abort; split <;> rfl
@[simp] theorem Tile.abort_mtvec (T : Tile) : T.abort.mtvec = T.mtvec := by unfold Tile.abort; split <;> rfl
@[simp] theorem Tile.abort_mtvecLock (T : Tile) : T.abort.mtvecLock = T.mtvecLock := by unfold Tile.abort; split <;> rfl
@[simp] theorem Tile.abort_dcache (T : Tile) : T.abort.dcache = T.dcache := by unfold Tile.abort; split <;> rfl
@[simp] theorem Tile.abort_bindq (T : Tile) : T.abort.bindq = T.bindq := by unfold Tile.abort; split <;> rfl
@[simp] theorem Tile.abort_streams (T : Tile) : T.abort.streams = T.streams := by unfold Tile.abort; split <;> rfl
@[simp] theorem Tile.abort_isects (T : Tile) : T.abort.isects = T.isects := by unfold Tile.abort; split <;> rfl
@[simp] theorem Tile.abort_xfers (T : Tile) : T.abort.xfers = T.xfers := by unfold Tile.abort; split <;> rfl
@[simp] theorem Tile.abort_saved (T : Tile) : T.abort.saved = T.saved := by unfold Tile.abort; split <;> rfl
@[simp] theorem Tile.abort_pre (T : Tile) : T.abort.pre = T.pre := by unfold Tile.abort; split <;> rfl
@[simp] theorem Tile.abort_hand (T : Tile) : T.abort.hand = T.hand := by unfold Tile.abort; split <;> rfl
@[simp] theorem Tile.abort_spilled (T : Tile) : T.abort.spilled = T.spilled := by unfold Tile.abort; split <;> rfl
@[simp] theorem Tile.abort_kitty (T : Tile) : T.abort.kitty = T.kitty := by unfold Tile.abort; split <;> rfl
@[simp] theorem Tile.abort_folded (T : Tile) : T.abort.folded = T.folded := by unfold Tile.abort; split <;> rfl
@[simp] theorem Tile.abort_ctx (T : Tile) (c : CtxId) : T.abort.ctx c = T.ctx c := by simp [Tile.ctx]
@[simp] theorem Tile.abort_vctx (T : Tile) (v : VctxId) : T.abort.vctx v = T.vctx v := by simp [Tile.vctx]

/-! ### Contexts -/

@[simp] theorem Tile.ctx_modCtx_self (T : Tile) (c : CtxId) (f : Ctx → Ctx) : (T.modCtx c f).ctx c = f (T.ctx c) := by
  simp [Tile.ctx, Tile.modCtx]

theorem Tile.ctx_modCtx_ne (T : Tile) {c d : CtxId} (f : Ctx → Ctx) (h : d ≠ c) : (T.modCtx c f).ctx d = T.ctx d := by
  simp [Tile.ctx, Tile.modCtx, Tab.get_set_ne _ _ _ h]

@[simp] theorem State.ctx_modCtx_self (s : State) (c : CtxRef) (f : Ctx → Ctx) : (s.modCtx c f).ctx c = f (s.ctx c) := by
  simp [State.ctx, State.modCtx]

theorem State.ctx_modCtx_ne (s : State) {c d : CtxRef} (f : Ctx → Ctx) (h : d ≠ c) : (s.modCtx c f).ctx d = s.ctx d := by
  by_cases ht : d.tile = c.tile
  · have hc : d.ctx ≠ c.ctx := fun e => h (by cases d; cases c; simp_all)
    simp [State.ctx, State.modCtx, ht, Tile.ctx_modCtx_ne _ _ hc]
  · simp [State.ctx, State.modCtx, State.tile_modTile_ne _ _ ht]

/-- A change of a tile that keeps its contexts keeps every context of the device. -/
theorem State.ctx_modTile (s : State) (t : TileId) (f : Tile → Tile) (h : (f (s.tile t)).ctxs = (s.tile t).ctxs) (d : CtxRef) :
    (s.modTile t f).ctx d = s.ctx d := by
  by_cases ht : d.tile = t
  · subst ht
    simp [State.ctx, Tile.ctx, h]
  · simp [State.ctx, State.tile_modTile_ne _ _ ht]

@[simp] theorem State.ctx_setReg (s : State) (r : Reg) (w : Word) (d : CtxRef) : (s.setReg r w).ctx d = s.ctx d := rfl
@[simp] theorem State.ctx_modReg (s : State) (r : Reg) (f : Word → Word) (d : CtxRef) : (s.modReg r f).ctx d = s.ctx d := rfl

/-- A change of a context changes nothing of any tile but its contexts and its patience slice. -/
theorem State.tile_modCtx (s : State) (c : CtxRef) (f : Ctx → Ctx) (u : TileId) :
    ((s.modCtx c f).tile u).slots = (s.tile u).slots ∧ ((s.modCtx c f).tile u).vctxs = (s.tile u).vctxs
    ∧ ((s.modCtx c f).tile u).memq = (s.tile u).memq ∧ ((s.modCtx c f).tile u).tokq = (s.tile u).tokq
    ∧ ((s.modCtx c f).tile u).seq = (s.tile u).seq ∧ ((s.modCtx c f).tile u).tlb = (s.tile u).tlb
    ∧ ((s.modCtx c f).tile u).mtvec = (s.tile u).mtvec := by
  by_cases h : u = c.tile
  · subst h; simp [State.modCtx, Tile.modCtx]
  · simp [State.modCtx, State.tile_modTile_ne _ _ h]

/-! ### Integer registers (R54) -/

@[simp] theorem Ctx.getX_zero (k : Ctx) : k.getX 0 = 0 := by simp [Ctx.getX]

theorem Ctx.getX_setX_self (k : Ctx) {r : XReg} (v : Word) (h : r ≠ 0) : (k.setX r v).getX r = v := by
  simp [Ctx.getX, Ctx.setX, h]

theorem Ctx.getX_setX_ne (k : Ctx) {r q : XReg} (v : Word) (h : q ≠ r ∨ q = 0) : (k.setX r v).getX q = k.getX q := by
  unfold Ctx.getX Ctx.setX
  by_cases hq : q = 0
  · simp [hq]
  · have hn : q ≠ r := h.resolve_right hq
    by_cases hr : r = 0
    · simp [hr]
    · simp [hq, hr, Tab.get_set_ne _ _ _ hn]

/-- A context's register file is all that a register write changes. -/
theorem Ctx.setX_eq (k : Ctx) (r : XReg) (v : Word) : ∃ x, k.setX r v = { k with x := x } := by
  by_cases h : r = 0
  · exact ⟨k.x, by simp [Ctx.setX, h]⟩
  · exact ⟨Tab.set k.x r v, by simp [Ctx.setX, h]⟩

/-! ### Registers -/

@[simp] theorem State.reg_setReg_self (s : State) (r : Reg) (w : Word) : (s.setReg r w).reg r = w := by
  simp [State.reg, State.setReg]

theorem State.reg_setReg_ne (s : State) {r q : Reg} (w : Word) (h : q ≠ r) : (s.setReg r w).reg q = s.reg q := by
  simp [State.reg, State.setReg, Tab.find?_set_ne _ _ h]

@[simp] theorem State.reg_modReg_self (s : State) (r : Reg) (f : Word → Word) : (s.modReg r f).reg r = f (s.reg r) := by
  simp [State.modReg]

theorem State.reg_modReg_ne (s : State) {r q : Reg} (f : Word → Word) (h : q ≠ r) : (s.modReg r f).reg q = s.reg q := by
  simp [State.modReg, State.reg_setReg_ne _ _ h]

/-! ### Memory reads -/

/-- What an address names depends on the exclusions alone. -/
theorem State.target_congr {s t : State} (h : t.excl = s.excl) (pa : Nat) : t.target pa = s.target pa := by
  unfold State.target; rw [h]

/-- A byte of memory depends on the exclusions, the slot areas, the slots and the listed bytes. -/
theorem State.byteAt_congr {s t : State} (hm : t.mem = s.mem) (hr : ∀ u, t.tileReg u .meldcfg = s.tileReg u .meldcfg)
    (hs : ∀ u, (t.tile u).slots = (s.tile u).slots) (x : Target) (pa : Nat) : t.byteAt x pa = s.byteAt x pa := by
  have ha : ∀ u off, t.slotAt u off = s.slotAt u off := fun u off => by
    unfold State.slotAt State.slotBase State.slotCap; rw [hr]
  have hb : ∀ u, t.slotBase u = s.slotBase u := fun u => by unfold State.slotBase; rw [hr]
  cases x with
  | sram u off => simp only [State.byteAt, ha, hb, hm, hs]
  | _ => simp only [State.byteAt, hm]

theorem State.byte_congr {s t : State} (he : t.excl = s.excl) (hm : t.mem = s.mem)
    (hr : ∀ u, t.tileReg u .meldcfg = s.tileReg u .meldcfg) (hs : ∀ u, (t.tile u).slots = (s.tile u).slots) (pa : Nat) :
    t.byte pa = s.byte pa := by
  unfold State.byte
  rw [State.target_congr he]
  exact State.byteAt_congr hm hr hs _ _

/-- A change of one context leaves memory alone. -/
theorem State.byte_modCtx (s : State) (c : CtxRef) (f : Ctx → Ctx) (pa : Nat) : (s.modCtx c f).byte pa = s.byte pa :=
  State.byte_congr (State.modCtx_excl s c f) (State.modCtx_mem s c f) (fun _ => rfl) (fun u => (State.tile_modCtx s c f u).1) pa

end Sys2Proof.Machine
end

