-- ==== Sys2Proof/Laws/Mem.lean ====
section
/-! SUPPORT. Laws of memory: every operation keeps the canonical form, a read after a write, and what a write leaves alone. -/

namespace Sys2Proof.Machine

/-! ### The canonical form -/

theorem Mem.wfFrom_weaken {lo hi : Nat} (h : lo ≤ hi) : ∀ {m : List Host.Cell}, Mem.wfFrom (some hi) m = true → Mem.wfFrom (some lo) m = true
  | [], _ => rfl
  | (a, b) :: t, w => by
    simp only [Mem.wfFrom, Bool.and_eq_true, decide_eq_true_eq] at w ⊢
    exact ⟨⟨by omega, w.1.2⟩, w.2⟩

theorem Mem.wfFrom_none {lo : Nat} : ∀ {m : List Host.Cell}, Mem.wfFrom (some lo) m = true → Mem.wfFrom none m = true
  | [], _ => rfl
  | (a, b) :: t, w => by
    simp only [Mem.wfFrom, Bool.and_eq_true, decide_eq_true_eq] at w ⊢
    exact ⟨⟨trivial, w.1.2⟩, w.2⟩

/-- A byte written above a bound keeps the list canonical above that bound. -/
theorem Mem.set_wfFrom {lo : Option Nat} {a : Nat} {b : Byte} (h : ∀ l ∈ lo, l < a) :
    ∀ {m : List Host.Cell}, Mem.wfFrom lo m = true → Mem.wfFrom lo (Mem.set m a b) = true
  | [], _ => by
    by_cases hb : b = Mem.blank
    · simp [Mem.set, hb, Mem.wfFrom]
    · cases lo <;> simp_all [Mem.set, Mem.wfFrom]
  | (a', b') :: t, w => by
    simp only [Mem.wfFrom, Bool.and_eq_true] at w
    unfold Mem.set
    split
    · rename_i hlt
      simp only [Mem.wfFrom, Bool.and_eq_true]
      exact ⟨w.1, Mem.set_wfFrom (by simpa using hlt) w.2⟩
    · split
      · rename_i he
        subst he
        split
        · cases lo with
          | none => exact Mem.wfFrom_none w.2
          | some l => exact Mem.wfFrom_weaken (Nat.le_of_lt (h l rfl)) w.2
        · rename_i hb
          simp only [Mem.wfFrom, Bool.and_eq_true]
          exact ⟨⟨w.1.1, by simpa using hb⟩, w.2⟩
      · split
        · simp only [Mem.wfFrom, Bool.and_eq_true]
          exact w
        · rename_i hb
          simp only [Mem.wfFrom, Bool.and_eq_true]
          refine ⟨⟨?_, by simpa using hb⟩, ⟨by simp; omega, w.1.2⟩, w.2⟩
          cases lo with
          | none => rfl
          | some l => simpa using h l rfl

/-- A write of one byte keeps the canonical form. -/
theorem Mem.set_wf {m : List Host.Cell} (a : Nat) (b : Byte) (h : Memory.wf m = true) : Memory.wf (Mem.set m a b) = true :=
  Mem.set_wfFrom (lo := none) (by simp) h

/-- A write of consecutive bytes keeps the canonical form. -/
theorem Mem.setBytes_wf : ∀ {m : List Host.Cell} (a : Nat) (l : List Byte), Memory.wf m = true → Memory.wf (Mem.setBytes m a l) = true
  | _, _, [], h => h
  | _, a, b :: t, h => Mem.setBytes_wf (a + 1) t (Mem.set_wf a b h)

theorem Mem.filter_wfFrom (p : Host.Cell → Bool) :
    ∀ {lo : Option Nat} {m : List Host.Cell}, Mem.wfFrom lo m = true → Mem.wfFrom lo (m.filter p) = true
  | _, [], _ => rfl
  | lo, (a, b) :: t, w => by
    simp only [Mem.wfFrom, Bool.and_eq_true] at w
    by_cases hp : p (a, b) = true
    · simp only [List.filter_cons, hp, if_true, Mem.wfFrom, Bool.and_eq_true]
      exact ⟨w.1, Mem.filter_wfFrom p w.2⟩
    · simp only [List.filter_cons, hp]
      refine Mem.filter_wfFrom p ?_
      cases lo with
      | none => exact Mem.wfFrom_none w.2
      | some l => exact Mem.wfFrom_weaken (Nat.le_of_lt (by simpa using w.1.1)) w.2

/-- Clearing a range keeps the canonical form. -/
theorem Mem.clear_wf {m : List Host.Cell} (lo hi : Nat) (h : Memory.wf m = true) : Memory.wf (Mem.clear m lo hi) = true :=
  Mem.filter_wfFrom _ h

/-- A fold of writes keeps the canonical form. -/
theorem Mem.foldl_wf {α : Type} (f : List Host.Cell → α → List Host.Cell)
    (hf : ∀ m x, Memory.wf m = true → Memory.wf (f m x) = true) (l : List α) :
    ∀ {m : List Host.Cell}, Memory.wf m = true → Memory.wf (l.foldl f m) = true := by
  induction l with
  | nil => intro m h; exact h
  | cons x t ih => intro m h; exact ih (hf m x h)

/-- Reset memory is in the canonical form. -/
theorem State.reset_mem_wf : Memory.wf State.reset.mem = true := rfl

/-! ### Reads after writes -/

theorem Mem.get_of_wfFrom_ge {lo : Nat} : ∀ {m : List Host.Cell}, Mem.wfFrom (some lo) m = true → ∀ {a : Nat}, a ≤ lo → Mem.get m a = Mem.blank
  | [], _, _, _ => rfl
  | (a', b') :: t, w, a, h => by
    simp only [Mem.wfFrom, Bool.and_eq_true, decide_eq_true_eq] at w
    have : a' ≠ a := by omega
    simp only [Mem.get, this, if_false]
    exact Mem.get_of_wfFrom_ge w.2 (by omega)

theorem Mem.get_set_from {a : Nat} {b : Byte} : ∀ {lo : Option Nat} {m : List Host.Cell}, Mem.wfFrom lo m = true →
    Mem.get (Mem.set m a b) a = b
  | _, [], _ => by
    by_cases hb : b = Mem.blank <;> simp [Mem.set, Mem.get, hb]
  | _, (a', b') :: t, w => by
    simp only [Mem.wfFrom, Bool.and_eq_true] at w
    unfold Mem.set
    split
    · rename_i hlt
      have : a' ≠ a := by omega
      simp only [Mem.get, this, if_false]
      exact Mem.get_set_from w.2
    · split
      · rename_i he
        subst he
        split
        · rename_i hb
          rw [Mem.get_of_wfFrom_ge w.2 (Nat.le_refl _), hb]
        · simp [Mem.get]
      · split
        · rename_i hne hb
          simp only [Mem.get, hne, if_false]
          rw [Mem.get_of_wfFrom_ge w.2 (by omega), hb]
        · simp [Mem.get]

/-- A read of the byte just written, in a canonical memory. -/
theorem Mem.get_set_self {m : List Host.Cell} (a : Nat) (b : Byte) (h : Memory.wf m = true) : Mem.get (Mem.set m a b) a = b :=
  Mem.get_set_from h

/-- A write leaves every other byte alone. -/
theorem Mem.get_set_ne {a a₀ : Nat} {b : Byte} (h : a₀ ≠ a) : ∀ {m : List Host.Cell}, Mem.get (Mem.set m a b) a₀ = Mem.get m a₀
  | [] => by by_cases hb : b = Mem.blank <;> simp [Mem.set, Mem.get, hb, Ne.symm h]
  | (a', b') :: t => by
    unfold Mem.set
    split
    · simp only [Mem.get, Mem.get_set_ne h]
    · split
      · rename_i he
        subst he
        split <;> simp [Mem.get, Ne.symm h]
      · split
        · rfl
        · simp [Mem.get, Ne.symm h]

/-- A write of consecutive bytes leaves every byte outside them alone. -/
theorem Mem.get_setBytes_out {a₀ : Nat} : ∀ {m : List Host.Cell} {a : Nat} {l : List Byte}, (a₀ < a ∨ a + l.length ≤ a₀) →
    Mem.get (Mem.setBytes m a l) a₀ = Mem.get m a₀
  | _, _, [], _ => rfl
  | m, a, b :: t, h => by
    simp only [List.length_cons] at h
    have h1 : a₀ ≠ a := by omega
    rw [Mem.setBytes, Mem.get_setBytes_out (by omega), Mem.get_set_ne h1]

/-- Clearing blanks the range, and leaves every other byte alone. -/
theorem Mem.get_clear (lo hi a : Nat) : ∀ {m : List Host.Cell},
    Mem.get (Mem.clear m lo hi) a = if lo ≤ a ∧ a < hi then Mem.blank else Mem.get m a
  | [] => by simp [Mem.clear, Mem.get]
  | (a', b') :: t => by
    have ih := Mem.get_clear lo hi a (m := t)
    unfold Mem.clear at ih ⊢
    rw [List.filter_cons]
    by_cases hp : lo ≤ a' ∧ a' < hi
    · simp only [hp, and_self, decide_true, Bool.not_true, Bool.false_eq_true, if_false]
      rw [ih]
      by_cases ha : a' = a
      · subst ha; simp [hp]
      · simp [Mem.get, ha]
    · simp only [hp, decide_false, Bool.not_false, if_true, Mem.get]
      rw [ih]
      by_cases ha : a' = a
      · subst ha; simp [hp]
      · simp [ha]

/-! ### Memory under the operations of the state -/

theorem State.writeSlotByte_mem (s : State) (t : TileId) (i j : Nat) (b : Byte) : (s.writeSlotByte t i j b).mem = s.mem := by
  unfold State.writeSlotByte
  split
  · split <;> simp
  · rfl

theorem State.setByteAt_wf {s : State} (x : Target) (pa : Nat) (b : Byte) (h : Memory.wf s.mem = true) :
    Memory.wf (s.setByteAt x pa b).mem = true := by
  unfold State.setByteAt
  split
  · split
    · rw [State.writeSlotByte_mem]; exact h
    · exact Mem.set_wf _ _ h
  · exact Mem.set_wf _ _ h

theorem State.setBytes_wf : ∀ {s : State} (pa : Nat) (l : List Byte), Memory.wf s.mem = true → Memory.wf (s.setBytes pa l).mem = true
  | _, _, [], h => h
  | _, pa, _ :: t, h => State.setBytes_wf (pa + 1) t (State.setByteAt_wf _ pa _ h)

/-- A write by any agent keeps memory canonical (R340, R348). -/
theorem State.write_wf {s : State} (pa : Nat) (l : List Byte) (h : Memory.wf s.mem = true) : Memory.wf (s.write pa l).mem = true :=
  State.setBytes_wf pa l h

end Sys2Proof.Machine
end

