-- ==== Sys2Proof/Laws/Sound.lean ====
section
/-! SUPPORT. Laws of the shared operations: that they keep memory canonical and the journal and the event ring within their sizes, and
what a context command does once it issues. -/

namespace Sys2Proof

open Sys2Proof.Machine

/-! ### Transfer -/

/-- Nothing but memory, the journal and the event ring matters to `Sound`. -/
theorem Sound.congr {s t : State} (h : Sound s) (hm : t.mem = s.mem) (hj : t.journal = s.journal) (he : t.events = s.events) : Sound t :=
  ⟨hm ▸ h.mem, hj ▸ h.journal, he ▸ h.events⟩

/-- A fold of operations that keep `Sound` keeps it. -/
theorem Sound.foldl {α : Type} {f : State → α → State} (hf : ∀ s x, Sound s → Sound (f s x)) (l : List α) :
    ∀ {s : State}, Sound s → Sound (l.foldl f s) := by
  induction l with
  | nil => intro s h; exact h
  | cons x t ih => intro s h; exact ih (hf s x h)

theorem Sound.reset : Sound State.reset := ⟨rfl, Nat.zero_le _, Nat.zero_le _⟩

/-! ### Updates of one field -/

theorem Sound.setTile {s : State} (h : Sound s) (t : TileId) (T : Tile) : Sound (s.setTile t T) := h.congr rfl rfl rfl
theorem Sound.modTile {s : State} (h : Sound s) (t : TileId) (f : Tile → Tile) : Sound (s.modTile t f) := h.congr rfl rfl rfl
theorem Sound.modCtx {s : State} (h : Sound s) (c : CtxRef) (f : Ctx → Ctx) : Sound (s.modCtx c f) := h.congr rfl rfl rfl
theorem Sound.modVctx {s : State} (h : Sound s) (t : TileId) (v : VctxId) (f : VCtx → VCtx) : Sound (s.modVctx t v f) := h.congr rfl rfl rfl
theorem Sound.setReg {s : State} (h : Sound s) (r : Reg) (w : Word) : Sound (s.setReg r w) := h.congr rfl rfl rfl
theorem Sound.modReg {s : State} (h : Sound s) (r : Reg) (f : Word → Word) : Sound (s.modReg r f) := h.congr rfl rfl rfl
theorem Sound.modJob {s : State} (h : Sound s) (j : JSlot) (f : Job → Job) : Sound (s.modJob j f) := h.congr rfl rfl rfl
theorem Sound.modLink {s : State} (h : Sound s) (p : PortId) (f : LinkSt → LinkSt) : Sound (s.modLink p f) := h.congr rfl rfl rfl
theorem Sound.modCell {s : State} (h : Sound s) (d : DieId) (n : Fin 65536) (f : Cell → Cell) : Sound (s.modCell d n f) := h.congr rfl rfl rfl
theorem Sound.modConn {s : State} (h : Sound s) (c : Fin 1024) (f : Conn → Conn) : Sound (s.modConn c f) := h.congr rfl rfl rfl
theorem Sound.modHost {s : State} (h : Sound s) (f : HostSt → HostSt) : Sound (s.modHost f) := h.congr rfl rfl rfl
theorem Sound.modPower {s : State} (h : Sound s) (f : Power → Power) : Sound (s.modPower f) := h.congr rfl rfl rfl
theorem Sound.modBoot {s : State} (h : Sound s) (f : Boot → Boot) : Sound (s.modBoot f) := h.congr rfl rfl rfl

/-! ### Memory, the journal and the event ring -/

theorem Machine.State.writeSlotByte_rings (s : State) (t : TileId) (i j : Nat) (b : Byte) :
    (s.writeSlotByte t i j b).journal = s.journal ∧ (s.writeSlotByte t i j b).events = s.events := by
  unfold State.writeSlotByte
  split
  · split <;> exact ⟨rfl, rfl⟩
  · exact ⟨rfl, rfl⟩

theorem Sound.setByteAt {s : State} (h : Sound s) (x : Target) (pa : Nat) (b : Byte) : Sound (s.setByteAt x pa b) := by
  refine ⟨State.setByteAt_wf x pa b h.mem, ?_, ?_⟩ <;> unfold State.setByteAt <;> split
  · split
    · rw [(State.writeSlotByte_rings ..).1]; exact h.journal
    · exact h.journal
  · exact h.journal
  · split
    · rw [(State.writeSlotByte_rings ..).2]; exact h.events
    · exact h.events
  · exact h.events

theorem Sound.setBytes : ∀ {s : State} (_ : Sound s) (pa : Nat) (l : List Byte), Sound (s.setBytes pa l)
  | _, h, _, [] => h
  | _, h, pa, _ :: t => Sound.setBytes (h.setByteAt _ pa _) (pa + 1) t

/-- A write of memory by any agent. -/
theorem Sound.write {s : State} (h : Sound s) (pa : Nat) (l : List Byte) : Sound (s.write pa l) := by
  refine Sound.setBytes ?_ pa l
  exact h.congr rfl rfl rfl

/-- A journal record: a full ring loses its 2,048 oldest (R471). -/
theorem Sound.journalAdd {s : State} (h : Sound s) (typ code outcome attempt unit : Nat) (detail : List Byte)
    (info : Option FaultInfo) : Sound (s.journalAdd typ code outcome attempt unit detail info) := by
  refine ⟨h.mem, ?_, h.events⟩
  have := h.journal
  simp only [State.journalAdd, State.modReg_journal]
  split
  · simp only [List.length_cons, List.length_take]; omega
  · simp only [List.length_cons]; omega

/-- An event: a full ring loses its oldest (R554). -/
theorem Sound.eventAdd {s : State} (h : Sound s) (typ code sev unit : Nat) (detail : List Byte) (extra : Nat)
    (info : Option FaultInfo) : Sound (s.eventAdd typ code sev unit detail extra info) := by
  refine ⟨h.mem, h.journal, ?_⟩
  have := h.events
  simp only [State.eventAdd, State.modReg_events, decide_eq_true_eq]
  split
  · simp only [List.length_cons, List.length_take]; omega
  · simp only [List.length_cons]; omega

theorem Sound.eventMerged {s : State} (h : Sound s) (typ code sev unit : Nat) (detail : List Byte) :
    Sound (s.eventMerged typ code sev unit detail) := by
  simp only [State.eventMerged]
  split
  · split
    · exact h.congr rfl rfl rfl
    · refine Sound.eventAdd ?_ ..
      exact h.congr rfl rfl rfl
  · refine Sound.eventAdd ?_ ..
    exact h.congr rfl rfl rfl

/-! ### Job faults and exceptions (R65, R447, R448) -/

theorem Sound.pend {s : State} (h : Sound s) (c : CtxRef) (cause : Nat) : Sound (s.pend c cause) := h.congr rfl rfl rfl
theorem Sound.pullCp2 {s : State} (h : Sound s) : Sound s.pullCp2 := h.congr rfl rfl rfl

theorem Sound.pulseCp2 {s : State} (h : Sound s) : Sound s.pulseCp2 := by
  unfold State.pulseCp2; split
  · exact h
  · exact h.pullCp2

theorem Sound.signalChassisFault {s : State} (h : Sound s) : Sound s.signalChassisFault := by
  unfold State.signalChassisFault; split
  · exact h.pullCp2
  · exact h

theorem Sound.recordFault {s : State} (h : Sound s) (j : JSlot) (code : Nat) (i : FaultInfo) (first : Bool) :
    Sound (s.recordFault j code i first) := by
  simp only [State.recordFault]
  split
  · split <;> exact (h.journalAdd ..).eventAdd ..
  · exact h.journalAdd ..

/-- The waits of a tile end: the wait states of its saved contexts change in memory (R336). -/
theorem Sound.endWaits {s : State} (h : Sound s) (t : TileId) : Sound (s.endWaits t) := by
  refine Sound.foldl (fun s x h => ?_) _ (h.modTile ..)
  exact h.write ..

theorem Sound.stopSlot {s : State} (h : Sound s) (j : JSlot) (code : Nat) (warm : Option Nat) : Sound (s.stopSlot j code warm) := by
  unfold State.stopSlot
  refine Sound.foldl (fun s t h => ?_) _ (h.congr rfl rfl rfl)
  split
  · exact h
  · exact (h.pend ..).endWaits _

/-! ### Ports (R385, R392 to R395) -/

theorem Sound.linkReport {s : State} (h : Sound s) (p : PortId) : Sound (s.linkReport p) := by
  unfold State.linkReport; split
  · exact h.modLink ..
  · exact h

theorem Sound.freePool {s : State} (h : Sound s) (p : PortId) (id units : Nat) : Sound (s.freePool p id units) := (h.modLink ..).linkReport _

theorem Sound.letGo {s : State} (h : Sound s) (e : EgPkt) : Sound (s.letGo e) := by
  unfold State.letGo; split
  · exact h
  · exact h.freePool ..
  · exact h.congr rfl rfl rfl

/-- A fold that keeps `Sound` of the state beside what it gathers. -/
theorem Sound.foldSnd {α β : Type} {f : β × State → α → β × State} (hf : ∀ a x, Sound a.2 → Sound (f a x).2) (l : List α) :
    ∀ {a : β × State}, Sound a.2 → Sound (l.foldl f a).2 := by
  induction l with
  | nil => intro a h; exact h
  | cons x t ih => intro a h; exact ih (hf a x h)

theorem Sound.cross {s : State} (h : Sound s) (p : PortId) : Sound (s.cross p) := by
  unfold State.cross
  refine Sound.congr (s := _) (Sound.foldSnd (fun a x ha => ?_) (Tab.get [] s.egress p) (a := ([], s)) h) rfl rfl rfl
  dsimp only
  split
  · exact ha
  · exact (ha.letGo x).congr rfl rfl rfl

theorem Sound.transmit {s : State} (h : Sound s) (p : PortId) (e : EgPkt) : Sound (s.transmit p e) := by
  unfold State.transmit
  refine Sound.modReg ?_ ..
  refine Sound.letGo ?_ e
  exact h.congr rfl rfl rfl

theorem Sound.pump : ∀ (n : Nat) {s : State} (_ : Sound s) (p : PortId), Sound (State.pump n s p)
  | 0, _, h, _ => h
  | n + 1, _, h, p => by
    unfold State.pump
    split
    · dsimp only
      split
      · exact Sound.pump n ((h.cross p).transmit ..) p
      · exact h.cross p
    · exact h

theorem Sound.wakePort {s : State} (h : Sound s) (p : PortId) : Sound (s.wakePort p) := by
  unfold State.wakePort; split
  · exact h.modReg ..
  · exact h

theorem Sound.sendPort {s : State} (h : Sound s) (die : DieId) (p : PortId) (k : Packet) (escape injected sb : Bool) (hold : Hold) :
    Sound (s.sendPort die p k escape injected sb hold) := by
  unfold State.sendPort
  refine Sound.pump _ ?_ p
  split
  · exact (h.wakePort p).congr rfl rfl rfl
  · exact Sound.congr ((h.wakePort p).modLink p id) rfl rfl rfl

theorem Sound.floodFault {s : State} (h : Sound s) (j : JSlot) (code tile time : Nat) : Sound (s.floodFault j code tile time) := by
  refine Sound.foldl (fun s p h => ?_) _ h
  split
  · exact h.sendPort ..
  · exact h

theorem Sound.startStop {s : State} (h : Sound s) (j : JSlot) (code tile time : Nat) : Sound (s.startStop j code tile time) :=
  ((h.stopSlot ..).floodFault ..).signalChassisFault

/-- A job fault raised (R447). -/
theorem Sound.raise {s : State} (h : Sound s) (j : JSlot) (r : Reason) (i : FaultInfo) : Sound (s.raise j r i) := by
  simp only [State.raise]
  split
  · split
    · exact (h.recordFault ..).startStop ..
    · exact h.recordFault ..
  · exact h

theorem Sound.raiseTile {s : State} (h : Sound s) (t : TileId) (r : Reason) (i : FaultInfo) : Sound (s.raiseTile t r i) := by
  unfold State.raiseTile; split
  · exact h.raise ..
  · exact h

theorem Sound.clearCounters {s : State} (h : Sound s) (tiles : List TileId) (quads : List QuadId) : Sound (s.clearCounters tiles quads) :=
  Sound.foldl (fun _ _ h => h.setReg ..) _ (h.congr rfl rfl rfl)

theorem Sound.tileResetCore {s : State} (h : Sound s) (t : TileId) (top : Nat) : Sound (s.tileResetCore t top) :=
  have g : Sound ((s.clearCounters [t] []).modTile t (fun T => T.clear)) := (h.clearCounters ..).modTile ..
  ⟨Mem.clear_wf _ _ g.mem, g.journal, g.events⟩

/-- An exception of a context (R65, R68). -/
theorem Sound.exception {s : State} (h : Sound s) (c : CtxRef) (cause : Nat) (tval : Word) : Sound (s.exception c cause tval) := by
  unfold State.exception
  simp only
  split
  · split
    · exact h.raise ..
    · exact (h.journalAdd ..).tileResetCore ..
  · exact h.modCtx ..

theorem Sound.illegal {s : State} (h : Sound s) (c : CtxRef) (bits : Nat) : Sound (s.illegal c bits) := h.exception ..

theorem Sound.queueSend {s : State} (h : Sound s) (t : TileId) (x : Option CtxId) (k : SendKind) : Sound (s.queueSend t x k) := h.modTile ..

/-! ### Context commands -/

/-- A context command that issues runs its meaning in the state the fetch leaves (R32, R44). -/
theorem Machine.State.issue_of {s s' : State} {c : CtxRef} {n : Nat} (h : Issues s c n s') (f : State → State) : s.issue c n f = f s' := by
  simp [State.issue, h.1, h.2]

/-- A context command that cannot issue has no effect (R32). -/
theorem Machine.State.issue_not {s : State} {c : CtxRef} {n : Nat} (h : s.canIssue c = false) (f : State → State) : s.issue c n f = s := by
  simp [State.issue, h]

end Sys2Proof
end

