-- ==== Sys2Proof/WellFormed.lean ====
section
/-! DEFINITION. Well-formed commands: the relations between operands that their types do not rule out. -/

namespace Sys2Proof

/-! ### Compressed instructions (R27)

A command of size two stands for an instruction of the C extension of RV64 by the 32-bit instruction it expands to. -/

/-- A register that a 3-bit field can name. -/
def XReg.prime (r : XReg) : Bool := decide (8 ≤ r.val ∧ r.val < 16)

/-- Whether a 12-bit immediate fits in `n` bits, signed. -/
def fitsSigned (n : Nat) (imm : BitVec 12) : Bool := decide (-(2 ^ (n - 1) : Int) ≤ imm.toInt ∧ imm.toInt < 2 ^ (n - 1))

/-- An unsigned offset below a bound, a multiple of the access. -/
def scaled (imm : BitVec 12) (step bound : Nat) : Bool := decide (imm.toNat % step = 0 ∧ imm.toNat < bound)

/-- C.LW, C.LD, C.LWSP and C.LDSP. -/
def compressedLoad (rd rs1 : XReg) (imm : BitVec 12) (w : Width) (uns : Bool) : Bool :=
  !uns && match w with
  | .w => (rd.prime && rs1.prime && scaled imm 4 128) || (rs1 == 2 && rd != 0 && scaled imm 4 256)
  | .d => (rd.prime && rs1.prime && scaled imm 8 256) || (rs1 == 2 && rd != 0 && scaled imm 8 512)
  | _ => false

/-- C.SW, C.SD, C.SWSP and C.SDSP. -/
def compressedStore (rs1 rs2 : XReg) (imm : BitVec 12) (w : Width) : Bool :=
  match w with
  | .w => (rs1.prime && rs2.prime && scaled imm 4 128) || (rs1 == 2 && scaled imm 4 256)
  | .d => (rs1.prime && rs2.prime && scaled imm 8 256) || (rs1 == 2 && scaled imm 8 512)
  | _ => false

/-- The other instructions of the C extension but C.EBREAK, by their expansions. -/
def IntOp.compressed (op : IntOp) : Bool :=
  match op with
  | .lui rd imm => rd != 2 && imm != 0 && decide (-32 ≤ imm.toInt ∧ imm.toInt < 32)
  | .jal rd off => rd == 0 && decide (-1024 ≤ off.toInt ∧ off.toInt < 1024)
  | .jalr rd rs1 imm => (rd == 0 || rd == 1) && rs1 != 0 && imm == 0
  | .branch op rs1 rs2 off => (op == .beq || op == .bne) && rs1.prime && rs2 == 0 && fitsSigned 8 off
  | .alu op rd rs1 rs2 =>
      (op == .add && rs2 != 0 && (rs1 == 0 || rs1 == rd))
      || ((op == .sub || op == .xor || op == .or || op == .and) && rd == rs1 && rd.prime && rs2.prime)
  | .aluW op rd rs1 rs2 => (op == .addw || op == .subw) && rd == rs1 && rd.prime && rs2.prime
  | .aluI op rd rs1 imm =>
      match op with
      | .addi =>
          ((rs1 == 0 || rs1 == rd) && fitsSigned 6 imm)
          || (rd == 2 && rs1 == 2 && imm != 0 && fitsSigned 10 imm && imm.toNat % 16 == 0)
          || (rd.prime && rs1 == 2 && imm != 0 && scaled imm 4 1024)
      | .addiw => rd != 0 && rs1 == rd && fitsSigned 6 imm
      | .andi => rd.prime && rs1 == rd && fitsSigned 6 imm
      | _ => false
  | .shift op rd rs1 _ => (op == .slli && rs1 == rd) || ((op == .srli || op == .srai) && rs1 == rd && rd.prime)
  | _ => false

/-- Whether an integer instruction has an encoding: a shift of 32 bits shifts by less than 32. -/
def IntOp.wf (op : IntOp) : Bool :=
  match op with
  | .shift op _ _ n => (op != .slliw && op != .srliw && op != .sraiw && op != .roriw) || decide (n.val < 32)
  | _ => true

/-- The bits of an encoding. -/
def ILen.bits : ILen → Nat
  | .two => 16
  | .four => 32
  | .eight => 64

/-! ### Messages -/

/-- A token as it stands in a packet or a queue: PLEN gives the length of its payload, at most 256 bytes (R70). -/
def Token.wf (k : Token) : Bool := k.payload.length == 16 * k.plen.toNat && decide (k.plen.toNat ≤ 16)

/-- A link packet: its body is at most 19 whole units of 16 bytes (R387). -/
def Packet.wf (k : Packet) : Bool := k.body.length % 16 == 0 && decide (k.body.length ≤ 304)

/-- A UDP datagram: a frame has at most 9,216 bytes (R410). -/
def HtIn.wf (i : HtIn) : Bool := decide (i.data.length ≤ 9216)

/-- What training finds: a lane has one fault, with a code of LANEDIAG (R405). -/
def Training.wf (r : Training) : Bool :=
  r.faults.all (fun f => decide (f.code.val ≠ 0)) && decide ((r.faults.map (fun f => f.lane)).Nodup)

/-! ### Other operands -/

/-- No number twice. -/
def distinct (l : List Nat) : Bool := decide l.Nodup

/-- A plan of an admission grants no granule twice. -/
def AdmitPlan.wf (p : AdmitPlan) : Bool := distinct p.granules

/-- An aligned word of register space (R13). -/
def registerAddr (pa : BitVec 48) : Bool :=
  decide (pa.toNat % 8 = 0 ∧ 0x030000000000 ≤ pa.toNat ∧ pa.toNat < 0x030100000000)

/-! ### Commands -/

/-- Whether a command is well formed: what its operands must satisfy beyond their types, so that it spells an event that can
happen. `exec` gives every command its effect; a command that is not well formed stands for nothing. -/
def Instr.wf (i : Instr) : Bool :=
  match i with
  | .load _ rd rs1 imm w uns sz => sz == .four || compressedLoad rd rs1 imm w uns
  | .store _ rs1 rs2 imm w sz => sz == .four || compressedStore rs1 rs2 imm w
  | .tokenUnitSend _ i _ => decide (i < 64)
  | .spawn _ k => k.wf
  | .set _ k _ => k.wf
  | .arrive _ k _ => k.wf
  | .potAdd _ k _ => k.wf
  | .potAddsq _ k _ => k.wf
  | .potMax _ k _ => k.wf
  | .potMin _ k _ => k.wf
  | .potMerge _ k => k.wf
  | .stat _ k _ => k.wf
  | .kittyDrain _ _ victims => distinct victims
  | .barrv _ k => k.wf
  | .brel _ k => k.wf
  | .farrd _ k => k.wf
  | .farwr _ k => k.wf
  | .faramo _ k => k.wf
  | .farrsp _ k => k.wf
  | .linkTraining _ r => r.wf
  | .fastRetrain _ r => r.wf
  | .tokenPacket _ k => k.wf
  | .put _ k => k.wf
  | .puts _ k => k.wf
  | .xack _ k => k.wf
  | .getreq _ k _ => k.wf
  | .getdata _ k => k.wf
  | .sigr _ k => k.wf
  | .fault _ k => k.wf
  | .gxhtToken k => k.wf
  | .gxhtPut k => k.wf
  | .gxhtGetreq k _ => k.wf
  | .gxhtGetrsp k => k.wf
  | .gxhtMgmt k => k.wf
  | .gxhtAck k => k.wf
  | .jobAdmit _ plan => plan.wf
  | .registerWrite pa _ bytes => registerAddr pa && bytes == 0xFF
  | .seating pins => pins.length == 8
  | .integerInstruction _ op sz => op.wf && (sz == .four || op.compressed)
  | .illegalInstruction _ bits len => decide (bits.toNat < 2 ^ len.bits)
  | .amo .. | .lr .. | .sc .. | .fence .. | .fenceE .. | .fenceD .. | .wfi .. | .ebreak .. | .interrupt .. | .mret ..
  | .version .. | .range .. | .ecallTlbFlush .. | .affwait .. | .vbind .. | .vbindT .. | .vunbind .. | .mjtlbinv ..
  | .mtimecmp .. | .timerInterrupt .. | .token .. | .tokenI .. | .mergeRowReadComplete .. | .deal ..
  | .affinityWaitExpiry .. | .tend .. | .dealInterrupt .. | .preempt .. | .preemptSave .. | .restore .. | .dlrclr ..
  | .gopen .. | .gnext .. | .gclose .. | .gcloseW .. | .gstat .. | .gatherReturn .. | .isect .. | .isectComplete ..
  | .vadd .. | .vsub .. | .vmul .. | .vfma .. | .vmacc .. | .vmin .. | .vmax .. | .vdiv .. | .vsgnj .. | .vrem ..
  | .vcmpeq .. | .vcmplt .. | .vcmple .. | .vcmpun .. | .vsra .. | .vand .. | .vor .. | .vxor .. | .vshl .. | .vminu ..
  | .vmaxu .. | .vdivu .. | .vremu .. | .vandn .. | .vcmpltu .. | .vcmpleu .. | .vsrl .. | .mov .. | .neg .. | .abs ..
  | .sqrt .. | .rsqrt .. | .recip .. | .exp .. | .exp2 .. | .log .. | .log2 .. | .tanh .. | .sigmoid .. | .gelu ..
  | .silu .. | .erf .. | .sin .. | .cos .. | .floor .. | .ceil .. | .rint .. | .trunc .. | .transpose .. | .not ..
  | .popcnt .. | .clz .. | .reduceSum .. | .reduceMax .. | .reduceMin .. | .reduceSumsq .. | .shuffle .. | .popc ..
  | .any .. | .all .. | .first .. | .fmax .. | .fmin .. | .sum .. | .vld .. | .vst .. | .vcvt .. | .vmlogic .. | .vclrst ..
  | .mma .. | .mmaD .. | .matrixPassComplete .. | .eprun .. | .vsmx .. | .ebag .. | .egrad .. | .eapply .. | .rowput ..
  | .rowdel .. | .shadow .. | .hand .. | .flip .. | .mapinv .. | .rsync .. | .embreq .. | .embrsp .. | .embcmd ..
  | .signal .. | .signalR .. | .sigread .. | .wait .. | .wcancel .. | .barrive .. | .bwait .. | .chassisLineHigh ..
  | .chassisRearm .. | .barrierTimeout .. | .xferPut .. | .xferGet .. | .xferPuts .. | .writeNotice .. | .xferTimeout ..
  | .scrub .. | .clean .. | .inval .. | .clinv .. | .lockfill .. | .rangeComplete .. | .farTimeout ..
  | .laneErrorThreshold .. | .dataFlit .. | .retryTimeout .. | .linkDown .. | .tsreq .. | .tsrsp .. | .lpienter ..
  | .lpiexit .. | .timesyncPeriod .. | .retransmitTimeout .. | .congestionUpdate .. | .heartbeatTimeout .. | .pfcPause ..
  | .pfcPauseExpiry .. | .eapol .. | .ptpMessage .. | .ident .. | .connOpen .. | .connClose .. | .jobStart .. | .jobStop ..
  | .jobResetEnd .. | .jobResetRestart .. | .tlbFlush .. | .events .. | .snapshot .. | .jobs .. | .journalRead ..
  | .rplRead .. | .attest .. | .attestSigned | .write .. | .check .. | .activate .. | .commit .. | .take .. | .enrol ..
  | .revoke .. | .fndDisable .. | .fndEnable .. | .release .. | .measure .. | .regRead .. | .regWrite .. | .mbTlbFlush
  | .mbRplRead | .fold | .unfold | .sitOut | .sitIn | .exclClear | .contextHalt .. | .chassisFault | .faultPulseEnd
  | .tileReset .. | .patienceSliceStart .. | .patienceSliceEnd .. | .patienceFail .. | .patienceStale .. | .inputPowerGood
  | .mrst | .warmReset | .bootStep .. | .bootWatchdog .. | .rsaKeyRegenerate | .inputWarning .. | .powerFail ..
  | .powerRecovery .. | .undervoltageLockout .. | .overvoltage .. | .overcurrent | .railWarning .. | .railReset ..
  | .throttleRelease .. | .powerCap .. | .chassisThrottle | .throttleForce .. | .thermalThrottle .. | .thermalSevere ..
  | .thermalCrit .. | .thermalRecovery .. | .thermalShutdown .. | .lossOfLock .. | .timeset .. | .secondPulse .. | .tick ..
  | .ppsLoss | .callLineEnable | .callLineStuck .. | .i3cPrivateWrite .. | .i3cPrivateRead | .entdaa ..
  | .memoryAccessPerformed .. | .vectorInstructionComplete .. | .railRecovery .. | .stackRefreshHalved ..
  | .inputPolarityReversed | .mrstRelease | .cp3InvalidPulse .. | .ethernetFrameDrop .. | .hostLinkLoss .. | .ptpMasterLost
  | .i3cCommonCommand .. => true

end Sys2Proof
end

