-- ==== Sys2Proof/Tests/Slice0.lean ====
section
/-! SUPPORT. The model's own tests: well-formedness, one step on small states with results from the spec, and for every statement with
hypotheses a state that meets them. -/

open Sys2Proof Sys2Proof.Machine

namespace Sys2Proof.Tests

set_option Elab.async false

/-! ### Small states -/

namespace T

/-- Tile 0, its context 0, and quad 0. -/
def t0 : TileId := { die := 0, field := 0, row := 0, col := 0 }
def c0 : CtxRef := { tile := t0, ctx := 0 }

/-- A device whose compute dies run, with tile 0 as given. -/
def dev (T : Tile) : State := { State.reset with computeOn := true, tiles := [(t0, T)] }

/-- Tile 0 with context 0 as given, its code's line in the instruction cache, and with other fields set by `f`. -/
def one (k : Ctx) (f : Tile → Tile := id) : State := dev (f { Tile.reset with ctxs := [(0, k)], icache := [(none, 0)] })

/-- A READY context in M-mode at address 0 of DRAM. -/
def kM : Ctx := { Ctx.reset with st := .ready, mie1 := true, x := [(5, 64), (6, 7)] }

/-- A READY context in U-mode, on a device with a page table at 2 MiB that maps the first gibibyte to itself for job slot 0, which
owns tile 0 and runs. -/
def kU : Ctx := { kM with priv := .u }
def own (s : State) : State :=
  { s with
    regs := (.tile t0 .mjob, BitVec.ofNat 64 (2 ^ 2 + 2 ^ 16)) :: (.tile t0 .jptbase, BitVec.ofNat 64 (2 ^ 63 + 0x200000))
      :: (.die 0 (.grant 0 0), 1) :: s.regs
    mem := Mem.setBytes s.mem 0x200000 (leBytes 8 0x7F)
    jobs := [(0, { Job.reset with st := .running, dies := 1 })] }

/-- The next state of a command, its stride trackers forgotten (what a key hashes to is free, so none is compared), and whether it has
one. -/
def after (i : Instr) (s : State) : State := match exec i s with | .next t => { t with trackers := [] } | _ => s
def steps (i : Instr) (s : State) (p : State → Bool) : Bool := match exec i s with | .next t => p t | _ => false

theorem issues_of {s : State} {c : CtxRef} {n : Nat} (h : s.canIssue c = true) (hf : (s.fetch c n).1 = none) :
    Issues s c n (s.fetch c n).2 := ⟨h, by rw [← hf]⟩

end T

open T

/-- A sound state with a command waiting, and its step. -/
theorem witness_sound : Sound { State.reset with pending := [.inputPowerGood] }
    ∧ ∃ t, step { State.reset with pending := [.inputPowerGood] } = .next t ∧ t.boot.powered = true :=
  ⟨⟨rfl, Nat.zero_le _, Nat.zero_le _⟩, _, rfl, by decide⟩

/-! ### The control core -/

/-- An M-mode context issues; so does one in U-mode through its page table. -/
theorem witness_issues_m : Issues (one kM) c0 4 ((one kM).fetch c0 4).2 := issues_of (by decide) (by decide)
theorem witness_issues_u : Issues (own (one kU)) c0 4 ((own (one kU)).fetch c0 4).2 := issues_of (by decide) (by decide)
theorem witness_issues_two : Issues (one kM) c0 (isz .two) ((one kM).fetch c0 2).2 := issues_of (by decide) (by decide)
theorem witness_branch_taken : brTaken .beq (((one kM).fetch c0 4).2.getX c0 5) (((one kM).fetch c0 4).2.getX c0 5) = true
    ∧ brTaken .beq (((one kM).fetch c0 4).2.getX c0 5) (((one kM).fetch c0 4).2.getX c0 6) = false := by decide

/-- RISC-V: 64 + 7 in x7, the pc past the instruction (R27). -/
theorem test_add : steps (.integerInstruction c0 (.alu .add 7 5 6) .four) (one kM) (fun t => t.getX c0 7 == 71 && (t.ctx c0).pc == 4) = true := by
  decide
/-- A store of seven bytes' worth at 64, then performed: memory holds it, little-endian (R10, R46). -/
theorem test_store : steps (.memoryAccessPerformed t0 0 false .good) (after (.store c0 5 6 0 .d .four) (one kM))
    (fun t => t.byte 64 == 7 && (t.tile t0).memq == []) = true := by decide +kernel

theorem witness_access : (64 : Word).toNat % widthBytes .d = 0 ∧ ((one kM).accessAddr t0 .m .store 64).1 = .ok 64 0 none
    ∧ (one kM).accessPlace 64 none = .dram := by decide
theorem witness_access_u : ((own (one kU)).accessAddr t0 .u .store 64).1 = .ok 64 0 none := by decide
/-- R41 with R30: a store through a clean leaf sets D, an SC that fails sets none. -/
def sClean : State := { own (one kU) with mem := Mem.setBytes [] 0x200000 (leBytes 8 0x3F) }
theorem test_dirty : steps (.store c0 5 6 0 .d .four) sClean (fun u => u.byte 0x200000 == 0x7F) = true
    ∧ steps (.memoryAccessPerformed t0 0 false .good) (after (.sc c0 7 5 6 true false false) sClean)
      (fun u => u.byte 0x200000 == 0x3F && u.getX c0 7 == 1) = true := by decide +kernel
theorem witness_misaligned : ((one kM).getX c0 6 + (0 : BitVec 12).signExtend 64).toNat % widthBytes .d ≠ 0 := by decide
theorem witness_exception : ((one kU).ctx c0).priv = .u ∧ ((one kM).ctx c0).mie1 = true := by decide
theorem witness_ecall_m : (((one kM).fetch c0 4).2.ctx c0).priv = .m := by decide

/-- Cause 17 pending and enabled: the context takes it (R67). -/
def kIrq : Ctx := { kM with mip := BitVec.ofNat 64 (2 ^ 17), mie := BitVec.ofNat 64 (2 ^ 17) }
theorem witness_interrupt : (one kIrq).betweenInstrs c0 = true ∧ ((one kIrq).ctx c0).nextCause = some 17 := by decide
theorem test_interrupt : steps (.interrupt c0) (one kIrq) (fun t => (t.ctx c0).mcause == BitVec.ofNat 64 (2 ^ 63 + 17) && (t.ctx c0).mip == 0) = true := by
  decide
theorem witness_mret : (((one kM).fetch c0 4).2.ctx c0).priv = .m ∧ (((one kM).fetch c0 4).2.ctx c0).inIrq = false := by decide
theorem witness_wfi : (((one kM).fetch c0 4).2.ctx c0).wait = none
    ∧ (((one kM).fetch c0 4).2.ctx c0).mip.toNat &&& (((one kM).fetch c0 4).2.ctx c0).mie.toNat = 0
    ∧ (((one kIrq).fetch c0 4).2.ctx c0).mip.toNat &&& (((one kIrq).fetch c0 4).2.ctx c0).mie.toNat ≠ 0 := by decide
theorem witness_timer : (one { kM with mtimecmp := 0 }).computeOn = true
    ∧ ((one { kM with mtimecmp := 0 }).ctx c0).mtimecmp.toNat ≤ (one { kM with mtimecmp := 0 }).now := by decide

theorem witness_fences : ((one kM).fetch c0 4).2.enginesDrained c0 = true ∧ ((one kM).fetch c0 4).2.classPending c0 1 = false := by decide

/-- A context that calls the monitor. -/
def kCall (n : Word) (a0 a1 a2 : Word) : Ctx := { kU with x := [(17, n), (10, a0), (11, a1), (12, a2)] }
def sCall (n a0 a1 a2 : Word) : State := own (one (kCall n a0 a1 a2))
theorem witness_calls : (sCall 0 0 0 0).canIssue c0 = true ∧ ((sCall 0 0 0 0).fetch c0 4).1 = none ∧ ((sCall 0 0 0 0).ctx c0).priv = .u
    ∧ (((sCall 0 0 0 0).fetch c0 4).2.ctx c0).priv = .u := by decide
theorem witness_calls_n : ((sCall 0 0 0 0).getX c0 17).toNat = 0 ∧ ((sCall 1 0 0 0).getX c0 17).toNat = 1
    ∧ ((sCall 2 0 0 0).getX c0 17).toNat = 2 ∧ ((sCall 3 4095 0 0).getX c0 17).toNat = 3
    ∧ (((sCall 3 4095 0 0).fetch c0 4).2.getX c0 10).toNat ≤ 4095 := by decide
theorem witness_calls_flush : let s := ((sCall 2 0 0 0).fetch c0 4).2
    (s.job (s.jslot t0)).dies.testBit 0 = true ∧ s.tileExcl t0 = false := by decide
theorem witness_calls_range : let s := ((sCall 1 0 128 256).fetch c0 4).2
    s.stacks.any (fun k => (Tab.find? s.ranges k).isSome) = false ∧ (s.getX c0 10).toNat < 2 ^ 19 ∧ (s.getX c0 11).toNat % 128 = 0
    ∧ (s.getX c0 12).toNat % 128 = 0
    ∧ s.stacks.any (fun k => bitsOf (s.getX c0 10).toNat 3 16 &&& s.waysOf k (s.jslot t0) != bitsOf (s.getX c0 10).toNat 3 16) = false
    ∧ s.rangeRuns t0 false 128 256 = some [(128, 256)] := by decide
theorem test_version : steps (.version c0) (sCall 0 0 0 0) (fun t => t.getX c0 10 == 0 && t.getX c0 11 == 1) = true := by decide
theorem test_affwait : steps (.affwait c0) (sCall 3 4095 0 0)
    (fun t => t.getX c0 11 == 64 && Word.bits (t.quadReg (quadOfTile t0) .dlrcfg) 0 12 == 4095) = true := by decide

def sLastVctx : State := one kM (fun T => { T with vctxs := ([1, 2, 3] : List VctxId).map (fun v => (v, { VCtx.reset with owner := some (Fin.ofNat 32 v.val) })) })
theorem witness_vbind : let s := (sLastVctx.fetch c0 4).2
    (s.ctx c0).vctx = none ∧ s.freeVctx t0 = some 0 ∧ (s.tile t0).bindq = [] := by decide
def sBound : State := one { kM with vctx := some 0 } (fun T => { T with vctxs := [(0, { VCtx.reset with owner := some 0 })] })
theorem witness_vunbind : let s := (sBound.fetch c0 4).2
    (s.ctx c0).vctx = some 0 ∧ s.bindingDrained c0 = true ∧ (s.tile t0).bindq = [] := by decide

/-! The other forms of these statements: a fetch that faults, contexts that cannot issue, stalls, traps and refused calls. -/

theorem witness_fetch_fault : (one kU).canIssue c0 = true ∧ ((one kU).fetch c0 4).1.isSome = true
    ∧ (one { kM with st := .parked }).canIssue c0 = false := by decide +kernel
def tokSend (k : SendKind) (T : Tile) : Tile := { T with tokq := [{ seq := 0, ctx := some 0, kind := k }] }
def sStall : State := { after (.store c0 5 6 0 .d .four) (one kM (tokSend (.signal 1 1))) with trackers := [] }
theorem witness_stalls : (sStall.canIssue c0 = true ∧ (sStall.fetch c0 4).1 = none)
    ∧ ((sStall.fetch c0 4).2.tile t0).memq.any (fun o => o.ctx == 0) = true
    ∧ ((sStall.fetch c0 4).2.tile t0).memq.any (fun o => o.ctx == 0 && o.inSet 1) = true
    ∧ (sStall.fetch c0 4).2.classPending c0 0 = true ∧ (sStall.fetch c0 4).2.enginesDrained c0 = false := by decide +kernel
theorem witness_ecall_status : (((sCall 4 0 0 0).fetch c0 4).2.getX c0 17).toNat = 4 ∧ (((sCall 4 0 0 0).fetch c0 4).2.ctx c0).priv = .u := by decide
theorem witness_lr_misaligned : ((one kM).getX c0 6).toNat % widthBytes (amoWidth true) ≠ 0 := by decide
theorem witness_no_interrupt : ((one kM).ctx c0).nextCause = none ∧ (one kM).now < ((one kM).ctx c0).mtimecmp.toNat := by decide
def kHandler (m : Word) : Ctx := { kM with mdirq := m }
theorem witness_mret_irq : ((one (kHandler 1)).ctx c0).inIrq = true ∧ Word.bit ((one (kHandler 1)).ctx c0).mdirq 1 = false
    ∧ ((one (kHandler 3)).ctx c0).inIrq = true ∧ Word.bit ((one (kHandler 3)).ctx c0).mdirq 1 = true := by decide
theorem witness_calls_refused :
    ((let s := (({ sCall 1 0 128 256 with ranges := [(0, { op := 0, base := 0, len := 128, force := false, ways := 0, slot := 0 })] } : State).fetch c0 4).2
      s.stacks.any (fun k => (Tab.find? s.ranges k).isSome)) = true)
    ∧ 4095 < (((sCall 3 4096 0 0).fetch c0 4).2.getX c0 10).toNat
    ∧ ¬((((sCall 1 0 64 256).fetch c0 4).2.getX c0 11).toNat % 128 = 0)
    ∧ (let s := ((sCall 1 0 (2 ^ 47) 256).fetch c0 4).2; s.rangeRuns t0 false (2 ^ 47) 256 = none)
    ∧ (let s := ((sCall 1 (2 ^ 3) 128 256).fetch c0 4).2; s.rangeRuns t0 false 128 256 = some [(128, 256)]
        ∧ s.stacks.any (fun k => bitsOf (2 ^ 3) 3 16 &&& s.waysOf k (s.jslot t0) != bitsOf (2 ^ 3) 3 16) = true) := by decide +kernel
def sFull : State := one kM (fun T => { T with vctxs := ([0, 1, 2, 3] : List VctxId).map (fun v => (v, { VCtx.reset with owner := some (Fin.ofNat 32 (v.val + 1)) })) })
def sRows : State := { one { kM with vctx := some 0 } (fun T => tokSend (.token (tokOf [] []) (.rows 0 3 0)) { T with vctxs := [(0, { VCtx.reset with owner := some 0 })] }) with trackers := [] }
theorem witness_vbind_other : (((sFull.fetch c0 4).2.ctx c0).vctx = none ∧ (sFull.fetch c0 4).2.freeVctx t0 = none)
    ∧ (((sBound.fetch c0 4).2.ctx c0).vctx.isSome = true) ∧ (sRows.fetch c0 4).2.bindingDrained c0 = false := by decide +kernel

/-- A queued load and a queued store of context 0, at address 64. -/
def sLoad : State := after (.load c0 7 5 0 .d false .four) { one kM with mem := Mem.setBytes [] 64 (leBytes 8 0x0102030405060708) }
def sStore : State := after (.store c0 5 6 0 .d .four) (one kM)
def opOf (s : State) : MemOp := ((s.tile t0).memq.head?).getD { seq := 0, ctx := 0, kind := .store, place := .dram, pa := 0, width := .b, data := 0, aq := false, rl := false, priv := .m, sent := false }
theorem witness_store : (sStore.tile t0).memq.find? (fun q => q.seq == 0) = some (opOf sStore) ∧ sStore.computeOn = true ∧ (opOf sStore).sent = false
    ∧ sStore.accessReady t0 (opOf sStore) = true ∧ (opOf sStore).kind = .store ∧ (opOf sStore).place = .dram
    ∧ (opOf sStore).pa + widthBytes (opOf sStore).width ≤ sStore.dramTop := by decide
theorem witness_load : (sLoad.tile t0).memq.find? (fun q => q.seq == 0) = some (opOf sLoad) ∧ sLoad.computeOn = true ∧ (opOf sLoad).sent = false
    ∧ sLoad.accessReady t0 (opOf sLoad) = true ∧ (opOf sLoad).kind = .load 7 false ∧ (opOf sLoad).place = .dram
    ∧ (sLoad.ctx { tile := t0, ctx := (opOf sLoad).ctx }).stall ≠ .retry
    ∧ sLoad.poisoned (opOf sLoad).pa (widthBytes (opOf sLoad).width) = false := by decide
/-- A load takes its bytes with the least significant first (R10). -/
theorem test_load : steps (.memoryAccessPerformed t0 0 false .good) sLoad
    (fun t => t.getX c0 7 == 0x0102030405060708 && (t.ctx c0).st == .ready) = true := by decide +kernel
/-- A load served by the data cache does not see memory (R47). -/
def sCached : State := after (.load c0 7 5 0 .b true .four) (one kM (fun T => { T with dcache := [(1, [9])] }))
theorem witness_cached : (sCached.tile t0).memq.find? (fun q => q.seq == 0) = some (opOf sCached) ∧ sCached.accessReady t0 (opOf sCached) = true
    ∧ (opOf sCached).kind = .load 7 true ∧ Tab.find? (sCached.tile t0).dcache ((opOf sCached).pa / 64) = some [9] := by decide
theorem test_cached : steps (.memoryAccessPerformed t0 0 true .good) sCached (fun t => t.getX c0 7 == 9) = true := by decide

/-! ### Sends -/

/-- A token image at 64: an ARRIVE of suit 1 for slot 5 of tile 0. -/
def image : List Byte := leBytes 8 (5 * 2 ^ 24 + 3 * 2 ^ 44 + 2 ^ 50) ++ leBytes 8 16
def sTok : State := { one kM with mem := Mem.setBytes [] 64 image }
def sTok1 : State := (sTok.fetch c0 4).2
def hTok : List Byte := match (sTok1.readDesc c0 64 16 16 []).1 with | .ok l => l | _ => []
def sTok2 : State := (sTok1.readDesc c0 64 16 16 []).2
theorem witness_token : sTok.canIssue c0 = true ∧ (sTok.fetch c0 4).1 = none ∧ sTok1.tokRoom t0 = true
    ∧ sTok1.released c0 (sTok1.tile t0).seq = true ∧ (sTok1.getX c0 5).toNat = 64
    ∧ (match (sTok1.readDesc c0 64 16 16 []).1 with | .ok l => l == image | _ => false) = true
    ∧ sTok2.sendOk c0 (tokOf image []).op (tokOf image []).suit = true
    ∧ (match (sTok2.rowPieces t0 .m 64 16 .read).1 with | .ok _ => true | _ => false) = true := by decide
/-- TOKEN.I without payload (suit 1, ARRIVE), and with tile rows. -/
def immA : BitVec 32 := BitVec.ofNat 32 (3 + 2 ^ 6 + 16 * 2 ^ 20)
def immR : BitVec 32 := BitVec.ofNat 32 (8 + 2 ^ 6 + 4 * 2 ^ 8 + 2 ^ 13 + 31 * 2 ^ 14 + 2 ^ 19)
theorem witness_token_i : (one kM).canIssue c0 = true ∧ ((one kM).fetch c0 8).1 = none ∧ (((one kM).fetch c0 8).2).tokRoom t0 = true
    ∧ (((one kM).fetch c0 8).2).sendOk c0 (BitVec.ofNat 6 (bitsOf immA.toNat 0 6)) (Fin.ofNat 4 (bitsOf immA.toNat 6 2)) = true
    ∧ immA.toNat.testBit 13 = false ∧ bitsOf immA.toNat 8 5 = 0 ∧ immA.toNat.testBit 19 = false := by decide
theorem witness_token_i_rows : sBound.canIssue c0 = true ∧ (sBound.fetch c0 8).1 = none ∧ ((sBound.fetch c0 8).2.ctx c0).vctx = some 0
    ∧ ((sBound.fetch c0 8).2).sendOk c0 (BitVec.ofNat 6 (bitsOf immR.toNat 0 6)) (Fin.ofNat 4 (bitsOf immR.toNat 6 2)) = true
    ∧ immR.toNat.testBit 13 = true ∧ bitsOf immR.toNat 14 5 + ceilDiv (bitsOf immR.toNat 8 5) 4 ≤ 32 ∧ isT 3 = true
    ∧ immR.toNat.testBit 19 = true := by decide
theorem witness_room : (((one kM).fetch c0 4).2).tokRoom t0 = true := by decide

/-- A transfer descriptor of operation `op`: suit 1, 256 bytes from 4 KiB to 8 KiB of device 3. -/
def xferDesc (op : Nat) : List Byte :=
  leBytes 8 (op + 4) ++ leBytes 8 3 ++ leBytes 8 0x1000 ++ leBytes 8 0x2000 ++ leBytes 8 256 ++ leBytes 8 0 ++ leBytes 8 1 ++ leBytes 8 0
/-- Slot 0 is the only free one, so the free choice of an XFER takes it. -/
def sXfer (op : Nat) : State :=
  { one kM (fun T => { T with xfers := (List.range 63).map (fun i => xferOf [] (i + 1) 0 0 .m) }) with mem := Mem.setBytes [] 64 (xferDesc op) }
def xferWit (op : Nat) : Bool :=
  let s1 := ((sXfer op).fetch c0 4).2
  let r := s1.readDesc c0 (s1.getX c0 5).toNat 64 64 []
  (sXfer op).canIssue c0 && ((sXfer op).fetch c0 4).1 == none && s1.tokRoom t0 && decide ((s1.tile t0).xfers.length < 64) && s1.allPerformed c0
    && (match r.1 with | .ok b => xferOk b (r.2.spadesOk c0) && bitsOf (leAt b 0 8) 0 2 == op | _ => false)
    && r.2.freeXfer t0 == some 0
theorem witness_xfer : xferWit 0 = true ∧ xferWit 1 = true ∧ xferWit 2 = true := by decide +kernel

/-- A queued signal, a queued token and a queued barrier arrival. -/
def sQueued (k : SendKind) : State :=
  one kM (fun T => { T with tokq := [{ seq := 0, ctx := some 0, kind := k }] })
def tokA : Token := tokOf image []
theorem witness_unit_send : ((sQueued (.signal 1 1)).tile t0).tokq[0]? = some { seq := 0, ctx := some 0, kind := .signal 1 1 }
    ∧ (sQueued (.signal 1 1)).computeOn = true ∧ (sQueued (.signal 1 1)).stopping t0 = false
    ∧ (sQueued (.signal 1 1)).sendReady t0 { seq := 0, ctx := some 0, kind := .signal 1 1 } = true
    ∧ (sQueued (.token tokA (.bytes []))).sendReady t0 { seq := 0, ctx := some 0, kind := .token tokA (.bytes []) } = true
    ∧ (sQueued (.barrive 1 true 3)).sendReady t0 { seq := 0, ctx := some 0, kind := .barrive 1 true 3 } = true := by decide
/-- A token for this device enters its mesh (R70). -/
theorem test_launch : steps (.tokenUnitSend t0 0 []) (sQueued (.token tokA (.bytes []))) (fun t => t.mesh.length == 1 && (t.tile t0).tokq == []) = true := by
  decide

/-! The other forms: a spades send without the permission, a full queue, a payload off alignment, rows out of range, a bad transfer
descriptor, and sends that are not ready. -/

def sNoRoom : State := one kM (fun T => { T with tokq := List.replicate 64 { seq := 0, ctx := some 0, kind := .signal 1 1 } })
theorem witness_send_stalls : ((sNoRoom.fetch c0 4).2.tokRoom t0 = false ∧ sNoRoom.canIssue c0 = true) ∧ (sNoRoom.fetch c0 8).2.tokRoom t0 = false
    ∧ (sStall.fetch c0 4).2.allPerformed c0 = false ∧ (sStall.fetch c0 4).2.released c0 ((sStall.fetch c0 4).2.tile t0).seq = false := by decide +kernel
theorem witness_send_refused : ((own (one kU)).fetch c0 8).2.sendOk c0 0x3 0 = false
    ∧ ((one kM).fetch c0 8).2.tokRoom t0 = true ∧ (((one kM).fetch c0 8).2.getX c0 6).toNat % 16 ≠ 0 ∧ (((one kM).fetch c0 8).2.getX c0 5).toNat % 16 = 0
    ∧ (match (((one kM).fetch c0 8).2.rowPieces t0 .m 64 64 .read).1 with | .ok _ => true | _ => false) = true
    ∧ ¬(30 + ceilDiv 16 4 ≤ 32 ∧ isT 3 = true) := by decide +kernel
theorem witness_xfer_bad : xferOk (List.replicate 64 255) true = false := by decide +kernel
def kArmed : Ctx := { kM with wait := some { kind := .signal, vid := 0, die := 0, cell := 0, consume := false, intr := true, hold := false, threshold := 1, armed := true, met := false, rd := 0 } }
theorem witness_armed : ((one kArmed).ctx c0).armed = true ∧ (one kArmed).canIssue c0 = true := by decide +kernel
theorem witness_unit_waits : (one kM).computeOn = true ∧ ((one kM).tile t0).tokq[0]? = none
    ∧ (let s := { sStall with regs := [] }; ∃ q, (s.tile t0).tokq[0]? = some q) := by
  refine ⟨by decide, by decide, ⟨_, rfl⟩⟩

/-! ### The meld store -/

/-- Tile 0 owned by job slot 0, with 1,024 slot entries and a pot range; a token for slot 5 of it. -/
def sMeld (l : List (Nat × Slot)) (f : Tile → Tile := id) : State :=
  let s := one kM (fun T => f { T with slots := l })
  { s with regs := (.tile t0 .mjob, 4) :: (.tile t0 .meldcfg, BitVec.ofNat 64 (1 + 0x100 * 2 ^ 8 + 0x200 * 2 ^ 20 + 0x100 * 2 ^ 32)) :: s.regs }
def tk (op : BitVec 6) (arg : Nat) (p : List Byte) : Token :=
  { ddev := 0, dtile := 0, slot := 5, op := op, suit := 1, jslot := 0, epoch := 0, plen := BitVec.ofNat 5 (p.length / 16), rsv := false,
    arg := BitVec.ofNat 32 arg, xid := 0, xseq := 0, payload := p, shard := none }
def eArm : Slot := { Slot.fresh (.prog 5) t0 with st := .armed, expected := 4, suit := 1 }
/-- A SUM pot of two FP32 elements at scale 0, its row at 2 MiB of the tile. -/
def dSum : Nat := 1 + 1 * 2 ^ 12
def ePot : Slot := { eArm with desc := dSum, ptr := some 0x200000 }
def eStat : Slot := { eArm with desc := 5 + 2 ^ 12 }
def lands (s : State) (k : Token) : Bool :=
  s.computeOn && decide (tileOf? k.dtile.toNat = some t0) && k.shard.isNone && !s.tileExcl t0 && !(s.tile t0).folded
def passes (s : State) (k : Token) : Bool :=
  decide (Word.bits (s.tileReg t0 .mjob) 8 8 = k.epoch.toNat ∧ (s.job k.jslot).st ≠ .stopped ∧ Word.bits (s.tileReg t0 .mjob) 0 2 = k.jslot.val)
    && Word.bit (s.tileReg t0 .mjob) 2 && tokWellFormed k && s.statFits t0 k
theorem lands_of {s : State} {k : Token} (h : lands s k = true) : Lands s t0 k := by
  simp [lands] at h; exact ⟨h.1.1.1.1, h.1.1.1.2, h.1.1.2, h.1.2, h.2⟩
theorem passes_of {s : State} {k : Token} (h : passes s k = true) : Passes s t0 k := by
  simp [passes] at h; exact ⟨h.1.1.1.1, h.1.1.1.2.1, h.1.1.2, h.1.1.1.2.2, h.1.2, h.2⟩
def sArm : State := sMeld [(3, eArm)]
def kSet : Token := tk opSet 1 (leBytes 16 77)
def kVal : Token := tk opPotAdd dSum (leBytes 16 (0x40000000 + 0x40400000 * 2 ^ 32))
def kStat : Token := tk opStat 1 (leBytes 16 0)
theorem witness_takes : Lands sArm t0 (tk opArrive 2 []) ∧ Passes sArm t0 (tk opArrive 2 []) ∧ TakesNow sArm t0 (tk opArrive 2 []) 3 eArm :=
  ⟨lands_of (by decide), passes_of (by decide), by decide, by decide, by decide, by decide⟩
theorem witness_arrive : eArm.received + (tk opArrive 2 []).arg.toNat < eArm.expected ∧ eArm.received + (tk opArrive 4 []).arg.toNat = eArm.expected := by
  decide
theorem witness_set : lands sArm kSet && passes sArm kSet && !eArm.setmask.testBit kSet.arg.toNat && decide (eArm.received + 1 < eArm.expected) = true := by decide +kernel
theorem witness_stat : (lands (sMeld [(3, eStat)]) kStat && passes (sMeld [(3, eStat)]) kStat) = true ∧ potKind eStat.desc = 5
    ∧ kStat.plen.toNat = statUnits eStat.desc ∧ kStat.arg.toNat % 2 ^ 16 < eStat.expected := by decide +kernel
theorem witness_value : (lands (sMeld [(3, ePot)]) kVal && passes (sMeld [(3, ePot)]) kVal) = true ∧ kVal.arg.toNat = ePot.desc
    ∧ potKind ePot.desc = opKind kVal.op.toNat := by decide +kernel
theorem test_arrive : steps (.arrive t0 (tk opArrive 2 []) false) sArm
    (fun u => Tab.find? (u.tile t0).slots 3 == some { eArm with received := 2 } && u.tileReg t0 .tokin == 1) = true := by decide
/-- An early token, one past the expected count, a word set twice, a STAT at a slot without moments, a moment given twice, one out of
range, and a value token of another descriptor. -/
theorem witness_faults : ((sMeld [(3, { eArm with st := .fired })]).tile t0).findSlot (.prog 5) = some (3, { eArm with st := .fired })
    ∧ eArm.expected < eArm.received + tokCount (tk opArrive 5 []) ∧ ({ eArm with setmask := 2 } : Slot).setmask.testBit (kSet.arg.toNat % 4) = true
    ∧ potKind eArm.desc ≠ 5 ∧ ({ eStat with stats := [(1, [])] } : Slot).stats.any (fun p => p.1 == kStat.arg.toNat) = true
    ∧ eStat.expected ≤ (tk opStat 4 (leBytes 16 0)).arg.toNat ∧ eArm.desc ≠ kVal.arg.toNat := by decide +kernel
theorem test_arrive_fires : steps (.arrive t0 (tk opArrive 4 []) true) sArm
    (fun u => (u.tile t0).hand == [{ idx := 3, suit := 1 }] && u.tileReg t0 .fires == 1) = true := by decide
theorem test_set : steps (.set t0 kSet false) sArm
    (fun u => Tab.find? (u.tile t0).slots 3 == some { eArm with received := 1, setmask := 2, opw := [(1, 77)] }) = true := by decide
/-- 2.0 and 3.0 at scale 0 are 2 and 3 in the sums (R86, R87). -/
theorem test_pot_add : steps (.potAdd t0 kVal false) (sMeld [(3, ePot)])
    (fun u => u.potS1 t0 ePot == [2, 3] && (Tab.find? (u.tile t0).slots 3).any (fun e => e.n == 1 && e.m == 3)) = true := by decide +kernel
theorem witness_pot : ePot.ptr = some 0x200000 ∧ 1 ≤ potKind ePot.desc ∧ potKind ePot.desc ≤ 4 ∧ 0x200000 + potArea ePot.desc ePot.expected ≤ 0xC00000
    ∧ (∀ j, j < potArea ePot.desc ePot.expected → (sMeld [(3, ePot)]).slotAt t0 (0x200000 + j) = none)
    ∧ (sMeld [(3, ePot)]).potAlloc t0 64 = some 0x200040 ∧ (∀ q ∈ ((sMeld [(3, ePot)]).tile t0).potRows, (sMeld [(3, ePot)]).potBase t0 ≤ q.1) := by decide +kernel
/-- A SPAWN of task entry 9 that expects `n` and carries operand word 2. -/
def kSpawn (n : Nat) : Token := tk opSpawn n (leBytes 8 9 ++ leBytes 8 4 ++ leBytes 16 1234)
theorem witness_spawn : Lands (sMeld []) t0 (kSpawn 3) ∧ Passes (sMeld []) t0 (kSpawn 3) ∧ spDesc (kSpawn 3) = 0
    ∧ (sMeld []).entryFor t0 (.prog 5) = some (0, Slot.fresh (.prog 5) t0) ∧ spExpect (kSpawn 3) < (sMeld []).cutDeg t0 :=
  ⟨lands_of (by decide +kernel), passes_of (by decide +kernel), by decide +kernel, by decide +kernel, by decide +kernel⟩
def sCut : State := { sMeld [] with regs := (.tile t0 .cutcfg, 4) :: (sMeld []).regs }
theorem witness_spawn_cut : sCut.cutDeg t0 ≤ spExpect (kSpawn 10) ∧ 0 < sCut.cutDeg t0 ∧ lands sCut (kSpawn 10) && passes sCut (kSpawn 10) = true := by decide +kernel
theorem test_spawn : steps (.spawn t0 (kSpawn 3)) (sMeld []) (fun u => Tab.find? (u.tile t0).slots 0
    == some { Slot.fresh (.prog 5) t0 with st := .armed, expected := 3, entry := 9, suit := 1, setmask := 4, opw := [(2, 1234)] }) = true := by decide +kernel
/-- A slot already ARMED, one RETIRED, one PRE-ARMED with three arrivals and a word; a pot; an expectation below what has come. -/
def eRet : Slot := { eArm with st := .retired }
def ePre : Slot := { Slot.fresh (.prog 5) t0 with st := .preArmed, received := 3, setmask := 4, opw := [(2, 1)] }
theorem witness_spawn_other : ((sMeld [(3, eRet)]).entryFor t0 (.prog 5)).isSome = true ∧ ((sMeld [(3, ePre)]).tile t0).findSlot (.prog 5) = some (3, ePre)
    ∧ spExpect (kSpawn 2) < ePre.received ∧ spExpect (kSpawn 3) = ePre.received ∧ ePre.setmask &&& spMask (kSpawn 3) ≠ 0
    ∧ 0 < (sMeld []).cutDeg t0 := by decide +kernel
def kPot : Token := tk opSpawn 3 (leBytes 4 9 ++ leBytes 4 dSum ++ leBytes 8 0)
theorem witness_spawn_pot : Passes (sMeld []) t0 kPot ∧ spDesc kPot = dSum ∧ ((taking (sMeld []) t0 kPot).startPot t0 { Slot.fresh (.prog 5) t0 with
      st := .armed, expected := spExpect kPot, entry := spEntry kPot, suit := 1 } dSum).isSome = true :=
  ⟨passes_of (by decide +kernel), by decide +kernel, by decide +kernel⟩
/-- Three shards of 4, 3 and 3 (R95). -/
theorem test_cut : steps (.spawn t0 (kSpawn 10)) sCut
    (fun u => (Tab.find? (u.tile t0).slots 0).any (fun e => e.cut && e.remain == [4, 3, 3] && e.expected == 3) && u.mesh.length == 3) = true := by decide +kernel

/-- A cut home with a merge of shard 0 in flight, then being read. -/
def rS : ShardRef := { tile := t0, slot := 5, j := 0 }
def kMerge : Token := { tk opPotMerge dSum (leBytes 16 0 ++ leBytes 16 0 ++ leBytes 16 0) with shard := some rS }
def eHome : Slot := { ePot with cut := true, km1 := 2, expected := 3 }
def sMergeTok : State := { sMeld [(3, eHome)] with mesh := [kMerge] }
theorem witness_merge : Lands sMergeTok t0 { kMerge with shard := none } ∧ Passes sMergeTok t0 kMerge ∧ sMergeTok.mesh.contains kMerge = true
    ∧ (sMergeTok.tile t0).findSlot (.prog kMerge.slot) = some (3, eHome) :=
  ⟨lands_of (by decide), passes_of (by decide), by decide, by decide⟩
def eShard : Slot := { ePot with name := .shard rS, st := .fired, n := 5, m := 7, ptr := some 0x200080 }
def tS : TileId := sMergeTok.shardTile t0 5 0
def sMergeRead : State :=
  let s := sMeld [(3, { eHome with merging := [rS] })]
  { s with tiles := (tS, { Tile.reset with slots := [(8, eShard)] }) :: s.tiles }
theorem witness_merge_read : sMergeRead.shardTile rS.tile rS.slot.toNat rS.j.val = tS ∧ tS ≠ t0
    ∧ (sMergeRead.tile t0).findSlot (.prog rS.slot) = some (3, { eHome with merging := [rS] })
    ∧ (sMergeRead.tile tS).findSlot (.shard rS) = some (8, eShard) ∧ eHome.received + 1 < eHome.expected := by decide +kernel
theorem test_merge_read : steps (.mergeRowReadComplete rS) sMergeRead
    (fun u => (u.tile tS).slots == [] && (Tab.find? (u.tile t0).slots 3).any (fun e => e.n == 5 && e.m == 7 && e.received == 1)) = true := by decide +kernel
def sKitty : State := sMeld [(3, eArm)] (fun T => { T with kitty := [.token (.prog 5) (tk opArrive 2 []) false] })
theorem witness_kitty : sKitty.computeOn = true ∧ sKitty.tileExcl t0 = false ∧ (sKitty.tile t0).folded = false
    ∧ (sKitty.tile t0).findSlot (.prog 5) = some (3, eArm) ∧ (sKitty.tile t0).kitty = [.token (.prog 5) (tk opArrive 2 []) false] := by decide
theorem test_kitty : steps (.kittyDrain t0 (.prog 5) []) sKitty
    (fun u => Tab.find? (u.tile t0).slots 3 == some { eArm with received := 2 } && (u.tile t0).kitty == []) = true := by decide
/-- A merge whose home is evicted or has fired, a last merge, and an evicted slot that comes back (R98, R100, R101). -/
def sHomeAway (l : List (Nat × Slot)) : State := { sMeld l (fun T => { T with kitty := [.slot eHome []] }) with mesh := [kMerge] }
theorem witness_merge_away : ((sHomeAway []).tile t0).findSlot (.prog 5) = none
    ∧ ((sMeld [(3, { eHome with st := .fired })]).tile t0).findSlot (.prog 5) = some (3, { eHome with st := .fired })
    ∧ ({ eHome with received := 2 } : Slot).received + 1 = eHome.expected := by decide +kernel
def sAway : State := sMeld [] (fun T => { T with kitty := [.slot eArm []] })
theorem witness_reload : (sAway.tile t0).findSlot (.prog 5) = none ∧ (sAway.entryFor t0 (.prog 5)).isSome = true ∧ eArm.ptr = none := by decide +kernel
theorem test_reload : steps (.kittyDrain t0 (.prog 5) []) sAway
    (fun u => (Tab.find? (u.tile t0).slots 0).any (fun e => e.reloaded && e.expected == 4) && (u.tile t0).kitty == []) = true := by decide +kernel

/-! ### The dealer -/

/-- Tile 0 with a fired slot of suit `u` at entry 3, its item in the hand, and the task table at 4 KiB, whose entry 0 holds `w`. -/
def eFired (u : Suit) : Slot := { Slot.fresh (.prog 5) t0 with st := .fired, suit := u, opw := [(1, 77)], n := 4 }
def sDeal (u : Suit) (w : Nat) (k : Ctx) (f : Tile → Tile := id) : State :=
  let s := own (one k (fun T => f { T with slots := [(3, eFired u)], hand := [{ idx := 3, suit := u }] }))
  { s with regs := (.tile t0 .tasktab, 4096) :: s.regs, mem := Mem.setBytes s.mem 4096 (leBytes 8 w) }
def sDeal1 (s : State) : State :=
  (((((s.dispatched (quadOfTile t0) 1).histAdd (quadOfTile t0) 1 (s.waited t0 (eFired 1))).bump t0 .ddeals).countAff t0 (eFired 1) t0).takeItem t0 { idx := 3, suit := 1 })
theorem witness_deal : ((sDeal 1 0x8001 kU).tile t0).fired? 3 = some (eFired 1)
    ∧ ((sDeal 1 0x8001 kU).tile t0).hand.find? (fun h => h.idx == 3) = some { idx := 3, suit := 1 }
    ∧ (sDeal 1 0x8001 kU).placeOf t0 (eFired 1) = some t0 ∧ (sDeal 1 0x8001 kU).isIrq t0 (eFired 1) = false
    ∧ (sDeal 1 0x8001 kU).takesSuit (quadOfTile t0) 1 = true ∧ (sDeal 1 0x8001 kU).restoreFirst t0 1 = false
    ∧ ((sDeal 1 0x8001 kU).parked t0).contains 7 = true
    ∧ (match ((sDeal1 (sDeal 1 0x8001 kU)).taskEntry t0 (eFired 1) []).1 with | .ok w => w == 0x8001 | _ => false) = true := by decide +kernel
theorem test_deal : steps (.deal t0 3 7 []) (sDeal 1 0x8001 kU) (fun u =>
    let k := u.ctx { tile := t0, ctx := 7 }
    k.pc == 0x8000 && k.getX 11 == 77 && k.getX 15 == Word.ones && k.getX 16 == 0 && k.taskn == 4 && k.st == .ready) = true := by decide +kernel
theorem witness_aff : ((sDeal 1 0x8001 kU).tile t0).hand.any (fun h => h.idx == 3) = true := by decide +kernel

/-- Context 0 runs the task of slot 5, RUNNING at entry 3. -/
def kTask : Ctx := { kU with tasksrc := BitVec.ofNat 64 (5 * 2 ^ 10 + 1 * 2 ^ 30 + 2 ^ 32), suit := 1, vctx := some 0 }
def sTask : State :=
  own (one kTask (fun T => { T with slots := [(3, { eFired 1 with st := .running })], vctxs := [(0, { VCtx.reset with owner := some 0 })] }))
theorem witness_tend : sTask.canIssue c0 = true ∧ (sTask.fetch c0 4).1 = none ∧ ((sTask.fetch c0 4).2.ctx c0).inTask = true
    ∧ ((sTask.fetch c0 4).2.ctx c0).inIrq = false ∧ (sTask.fetch c0 4).2.bindingDrained c0 = true
    ∧ tileOf? (Word.bits ((sTask.fetch c0 4).2.ctx c0).tasksrc 0 10) = some t0
    ∧ ((sTask.fetch c0 4).2.tile t0).findSlot (.prog (BitVec.ofNat 20 (Word.bits kTask.tasksrc 10 20))) = some (3, { eFired 1 with st := .running })
    ∧ ((sTask.fetch c0 4).2.tile t0).kitty = [] ∧ ((sTask.fetch c0 4).2.tile t0).bindq = [] := by decide +kernel
theorem test_tend : steps (.tend c0 { rs2 := 0, rs1 := 0, rd := 0 }) sTask (fun u =>
    (u.ctx c0).st == .parked && (Tab.find? (u.tile t0).slots 3).any (fun e => e.st == .retired) && (u.vctx t0 0).owner.isNone) = true := by decide +kernel

/-- A deal-interrupt item, with a running context that takes cause 16, and with PARKED contexts only. -/
def kTarget : Ctx := { kU with mie := BitVec.ofNat 64 (2 ^ 16) }
def sIrq (k : Ctx) : State :=
  let s := sDeal 0 0x8001 k
  { s with regs := (.quad (quadOfTile t0) .dlrcfg, BitVec.ofNat 64 (2 ^ 13)) :: s.regs }
theorem witness_deal_irq : (sIrq kTarget).isIrq t0 (eFired 0) = true ∧ (sIrq kTarget).takesSuit (quadOfTile t0) 0 = true
    ∧ (sIrq kTarget).irqTarget t0 (eFired 0) = some c0
    ∧ (match ((sIrq kTarget).taskEntry t0 (eFired 0) []).1 with | .ok w => w == 0x8001 | _ => false) = true
    ∧ (sIrq kU).irqTarget t0 (eFired 0) = none ∧ (sIrq kU).takesSuit (quadOfTile t0) 0 = true
    ∧ ((sIrq kU).irqParked t0 (eFired 0)).contains { tile := t0, ctx := 9 } = true := by decide +kernel
theorem test_deal_irq : steps (.dealInterrupt t0 3 c0 []) (sIrq kTarget) (fun u => Word.bit (u.ctx c0).mip 16 && (u.ctx c0).mdirqpc == 0x8000) = true
    ∧ steps (.dealInterrupt t0 3 { tile := t0, ctx := 9 } []) (sIrq kU)
      (fun u => let k := u.ctx { tile := t0, ctx := 9 }; k.priv == .m && Word.bits k.mdirq 0 2 == 3) = true := by decide +kernel

/-- Every context of tile 0 runs a task of suit 1; a class 0 item waits. -/
def sBusy (f : Tile → Tile) : State :=
  let s := sDeal 0 0x8000 kU (fun T => f { T with ctxs := (List.finRange 32).map (fun c => (c, { kTask with vctx := none })) })
  { s with regs := (.quad (quadOfTile t0) .dlrcfg, BitVec.ofNat 64 (2 ^ 12)) :: (.tile t0 .dlrsave, BitVec.ofNat 64 (0x300 + 2 ^ 12)) :: s.regs }
theorem witness_preempt : (sBusy id).victim (quadOfTile t0) = some c0 ∧ (sBusy id).isIrq t0 (eFired 0) = false
    ∧ Word.bit ((sBusy id).quadReg (quadOfTile t0) .dlrcfg) 12 = true ∧ (sBusy id).noneParked (quadOfTile t0) = true
    ∧ (sBusy id).takesSuit (quadOfTile t0) 0 = true := by decide +kernel
def sPre : State := sBusy (fun T => { T with pre := some { victim := 0, home := t0, item := { idx := 3, suit := 0 } } })
theorem witness_save : sPre.live t0 = true ∧ (sPre.ctx c0).st ≠ .parked ∧ sPre.victimDrained c0 = true
    ∧ sPre.freeIrec t0 = some 0 ∧ (sPre.ctx c0).vctx = none := by decide +kernel
/-- Tile 0 with a saved context in record 0. -/
def sSaved : State :=
  let s := own (one kU (fun T => { T with saved := [{ irec := 0, vrec := none, suit := 1, dealTime := 5, st := .ready, priv := .u, wait := none, bindRd := 0, oldCtx := 4 }] }))
  let s : State := { s with regs := (.tile t0 .dlrsave, BitVec.ofNat 64 (0x300 + 2 ^ 12)) :: s.regs }
  { s with mem := Mem.setBytes s.mem (sramPa t0 0x300000) ((kTask.record .ready none []).take 400) }
theorem witness_restore : (sSaved.tile t0).saved.length = 1 ∧ (sSaved.tile t0).saved.all (fun x => sSaved.restoreEligible t0 x && x.vrec.isNone && x.st == .ready) = true
    ∧ sSaved.takesSuit (quadOfTile t0) 1 = true ∧ (sSaved.parked t0).contains 9 = true := by decide +kernel
theorem test_restore : steps (.restore t0 0 9) sSaved (fun u =>
    let k := u.ctx { tile := t0, ctx := 9 }
    k.getX 5 == 64 && k.tasksrc == kTask.tasksrc && k.suit == 1 && (u.tile t0).saved == []) = true := by decide +kernel
theorem witness_dlrclr : (one kU).computeOn = true ∧ Word.bit 1 0 = true := by decide
theorem witness_record : kTask.dealTime < 2 ^ 64 := by decide

/-! The other forms of the dealer's statements. -/

/-- The entry of a local task table needs no data of a peer. -/
def s0Deal : State := (sDeal 1 0x8001 kU).fillEntry t0 3 []
theorem witness_fill : (s0Deal.tile t0).fired? 3 = some (eFired 1) ∧ (s0Deal.tile t0).hand.find? (fun h => h.idx == 3) = some { idx := 3, suit := 1 }
    ∧ s0Deal.placeOf t0 (eFired 1) = some t0 ∧ s0Deal.entryAwaited t0 (eFired 1) = false ∧ s0Deal.isIrq t0 (eFired 1) = false
    ∧ s0Deal.takesSuit (quadOfTile t0) 1 = true ∧ s0Deal.restoreFirst t0 1 = false ∧ (s0Deal.parked t0).contains 7 = true
    ∧ (s0Deal.parked t0).contains 0 = false := by decide +kernel
/-- An affinity wait of 64 cycles that has run out (R124), and one that has not. -/
theorem witness_aff_due : (let s := (sDeal 1 0x8001 kU).setReg (.tile t0 .cycle) 64
    (s.tile t0).hand.any (fun h => h.idx == 3) = true ∧ Word.bits (s.quadReg (quadOfTile t0) .dlrcfg) 0 12 ≤ s.waited t0 (eFired 1))
    ∧ ¬(Word.bits ((sDeal 1 0x8001 kU).quadReg (quadOfTile t0) .dlrcfg) 0 12 ≤ (sDeal 1 0x8001 kU).waited t0 (eFired 1)) := by decide +kernel
/-- TEND outside a task, in a handler, and with an engine of the context at work. -/
theorem witness_tend_other : (((own (one kU)).fetch c0 4).2.ctx c0).inTask = false ∧ (sRows.fetch c0 4).2.bindingDrained c0 = false
    ∧ ({ kTask with mdirq := 1 } : Ctx).inIrq = true := by decide +kernel
theorem witness_no_target : (sDeal 1 0x8001 kU).isIrq t0 (eFired 1) = false ∧ ((sIrq kU).irqParked t0 (eFired 0)).contains c0 = false := by decide +kernel
theorem witness_preempt_other : (eFired 1).suit ≠ 0 ∧ (sBusy id).live t0 = true
    ∧ (({ sPre with tiles := [(t0, tokSend (.signal 1 1) { Tile.reset with ctxs := [(0, kTask)] })] } : State).victimDrained c0 = false) := by decide +kernel
theorem witness_restore_other : (sSaved.parked t0).contains 0 = false ∧ sSaved.latent = [] ∧ sSaved.poison = [] ∧ (sSaved.tile t0).bindq = []
    ∧ (let b := sSaved.bytes (sramPa t0 (sSaved.irecAt t0 0)) 1024; (leAt b 0x280 8).testBit 34 = false ∧ recState b = .ready) := by decide +kernel
theorem witness_record_wait : ({ kArmed with dealTime := 9 } : Ctx).dealTime < 2 ^ 64 ∧ ∀ w, kArmed.wait = some w → w.armed = w.intr := by
  refine ⟨by decide, fun w h => ?_⟩
  simp [kArmed] at h; rw [← h]

/-! ### The gather engine -/

/-- A place in the SRAM of tile 0, where no access trains a stride tracker. -/
def sr (off : Nat) : Nat := sramPa t0 (0x500000 + off)
/-- A stream descriptor at 4 KiB there: CSR, vertices 0 and up to `v1`, offsets at 8 KiB, neighbours at 12 KiB, a ring of three records
at 4 MiB. -/
def gDesc (v1 : Nat) : List Byte :=
  leBytes 8 0 ++ leBytes 8 0 ++ leBytes 8 v1 ++ leBytes 8 (sr 0x2000) ++ leBytes 8 (sr 0x3000) ++ leBytes 8 0 ++ leBytes 8 0 ++ leBytes 8 0
  ++ leBytes 8 0 ++ leBytes 8 0 ++ leBytes 8 0 ++ leBytes 8 0 ++ leBytes 8 0 ++ leBytes 8 0 ++ leBytes 8 0
  ++ leBytes 3 0x400000 ++ leBytes 3 192 ++ leBytes 2 0 ++ List.replicate 32 0
/-- An offset list of one vertex with two neighbours, 7 and 9. -/
def gMem (v1 : Nat) : List Host.Cell :=
  Mem.setBytes (Mem.setBytes (Mem.setBytes [] (sr 0x1000) (gDesc v1)) (sr 0x2000) (leBytes 8 0 ++ leBytes 8 2)) (sr 0x3000) (leBytes 4 7 ++ leBytes 4 9)
def xIdle : Stream := { desc := [], xf := [], owner := none, handler := false, seq := 0, priv := .m, vertex := 0, inList := false, cur := 0, stop := 0, idx := 0, first := false, fin := true, drain := false, delivered := 0, returned := 0, released := 0, reqs := [] }
/-- Stream 0 is the only free one, so the free choice of GOPEN takes it. -/
def sG (v1 : Nat) : State :=
  { one { kM with x := [(5, BitVec.ofNat 64 (sr 0x1000))] } (fun T => { T with streams := (List.range 63).map (fun i => (i + 1, xIdle)) }) with mem := gMem v1 }
def sG1 (v1 : Nat) : State := ((sG v1).fetch c0 4).2
theorem witness_gopen : (sG 1).canIssue c0 = true ∧ ((sG 1).fetch c0 4).1 = none ∧ (sG1 1).allPerformed c0 = true
    ∧ (sG1 1).freeStream t0 = some 0
    ∧ (let r := (sG1 1).readDesc c0 ((sG1 1).getX c0 5).toNat 160 32 []
      (match r.1 with | .ok b => b == gDesc 1 | _ => false) && r.2.gdOk t0 (gDesc 1) (r.2.spadesOk c0) && !gdEpath (gDesc 1)) = true := by decide +kernel
def sOpen (v1 : Nat) : State := after (.gopen c0 { rs2 := 0, rs1 := 5, rd := 6 } []) (sG v1)
/-- Once the list is open and its two edges are fetched, the first record is at the ring's start and names neighbour 7 (R158). -/
def sTwo : State := after (.gatherReturn t0 0 []) (after (.gatherReturn t0 0 []) (sOpen 1))
theorem test_gather : (match Tab.find? (sTwo.tile t0).streams 0 with | some x => x.delivered == 1 | none => false) = true
    ∧ leVal ((List.range 6).map (fun i => Mem.get sTwo.mem (sramPa t0 0x400000 + i))) = 7 := by decide +kernel
def xOpen : Stream := ((Tab.find? ((sOpen 1).tile t0).streams 0)).getD xIdle
/-- Context 0 with handle 0 in x6 of a stream with records, of one at its end, and of one without a record and NOWAIT set. -/
def sH (x : Stream) (k : Ctx) : State := one { k with x := [] } (fun T => { T with streams := [(0, x)] })
def xHas : Stream := { xOpen with delivered := 2, returned := 1, reqs := [1] }
def xEnd : Stream := { xOpen with fin := true }
theorem witness_handles : (((sH xHas kM).fetch c0 4).2).handle c0 6 = some (0, xHas) ∧ gdEpath xHas.desc = false ∧ xHas.returned < xHas.delivered
    ∧ (((sH xEnd kM).fetch c0 4).2).handle c0 6 = some (0, xEnd) ∧ xEnd.fin = true ∧ xEnd.delivered ≤ xEnd.returned
    ∧ xOpen.fin = false ∧ xOpen.delivered ≤ xOpen.returned
    ∧ Word.bit (((sH xOpen { kM with gctl := 1 }).fetch c0 4).2.ctx c0).gctl 0 = true := by decide +kernel
theorem test_gnext : steps (.gnext c0 { rs2 := 0, rs1 := 6, rd := 7 }) (sH xHas kM) (fun u => u.getX c0 7 == 0x400040) = true := by decide +kernel
theorem witness_gfull : (one kM (fun T => { T with streams := (List.range 64).map (fun i => (i, xOpen)) })).freeStream t0 = none := by decide +kernel
theorem witness_return : Tab.find? ((sOpen 0).tile t0).streams 0 ≠ none ∧ (sOpen 1).computeOn = true ∧ (sOpen 1).stopping t0 = false
    ∧ Tab.find? ((sOpen 1).tile t0).streams 0 = some xOpen ∧ xOpen.owner = some 0 ∧ xOpen.fin = false ∧ (sOpen 1).gRoom t0 xOpen = true
    ∧ (let x := { xOpen with vertex := 1 }; x.inList = false ∧ gdV1 x.desc ≤ x.vertex)
    ∧ (match ((gStep t0 xOpen { ctx := some 0, seq := xOpen.seq, suit := ((sOpen 1).ctx c0).suit, stream := 0 }).run { s := sOpen 1, far := [] }).1 with
      | .ok y => y.inList | _ => false) = true := by decide +kernel

theorem witness_sorted : [51, 53, 60, 75, 90].Pairwise (· ≤ ·) ∧ [50, 53, 75].Pairwise (· ≤ ·) := by decide
/-- The candidates of the example of R175: 53 and 75 (R175). -/
theorem witness_isect_lists : [1, 1, 2, 5].Pairwise (· ≤ ·) ∧ [1, 1, 1, 2].Pairwise (· ≤ ·) ∧ iMerge 8 [1, 1, 2, 5] [1, 1, 1, 2] = [1, 1, 2] := by
  decide
theorem test_isect : iMerge 8 [51, 53, 60, 75, 90] [50, 53, 75] = [53, 75] := by decide
/-- Two lists of 32-bit elements at 12 KiB and 16 KiB of that place; the matches go to 20 KiB. -/
def iDesc : List Byte :=
  leBytes 8 2 ++ leBytes 8 3 ++ leBytes 8 (sr 0x3000) ++ leBytes 8 0 ++ leBytes 8 2 ++ leBytes 8 2 ++ leBytes 8 (sr 0x4000) ++ leBytes 8 0
  ++ leBytes 8 0 ++ leBytes 8 100 ++ leBytes 8 (sr 0x5000) ++ leBytes 8 10
def sI : State :=
  { one { kM with x := [(5, BitVec.ofNat 64 (sr 0x1000))] } with
    mem := Mem.setBytes (Mem.setBytes (Mem.setBytes [] (sr 0x1000) iDesc) (sr 0x3000) (leBytes 4 7 ++ leBytes 4 9 ++ leBytes 4 11)) (sr 0x4000) (leBytes 4 9 ++ leBytes 4 11) }
theorem witness_isect : sI.canIssue c0 = true ∧ (sI.fetch c0 4).1 = none ∧ ((sI.fetch c0 4).2.tile t0).isects.length < 9
    ∧ (sI.fetch c0 4).2.allPerformed c0 = true
    ∧ (match ((sI.fetch c0 4).2.readDesc c0 ((sI.fetch c0 4).2.getX c0 5).toNat 96 32 []).1 with | .ok b => idOk b && b == iDesc | _ => false) = true := by
  decide +kernel
def sI2 : State := after (.isect c0 { rs2 := 0, rs1 := 5, rd := 7 } []) sI
theorem witness_isect_complete : (match (sI2.tile t0).isects with
    | [q] => (match ((iMatches t0 q { ctx := some q.ctx, seq := q.seq, suit := (sI2.ctx c0).suit }).run { s := sI2, far := [] }).1 with
        | .ok l => l == [9, 11] | _ => false)
    | _ => false) = true ∧ sI2.computeOn = true ∧ sI2.stopping t0 = false := by decide +kernel
theorem test_isect_complete : steps (.isectComplete t0 []) sI2 (fun u => u.getX c0 7 == 2 && u.byte (sr 0x5008) == 11 && (u.ctx c0).st == .ready) = true := by
  decide +kernel

/-! The other forms: no handle, a descriptor that will not do, a stream of its owner held back, a token edge path. -/

theorem witness_no_handle : (((sH xHas kM).fetch c0 4).2).handle c0 5 = some (0, xHas) ∧ (((sH { xHas with owner := some 1 } kM).fetch c0 4).2).handle c0 6 = none
    ∧ (((sH xHas kM).fetch c0 4).2).streamOut t0 0 = 0 := by decide +kernel
theorem witness_gdesc_bad : (one kM).gdOk t0 (List.replicate 160 255) true = false ∧ idOk (List.replicate 96 255) = false
    ∧ gdEpath (leBytes 8 64) = true ∧ (sStall.fetch c0 4).2.allPerformed c0 = false := by decide +kernel
theorem witness_return_other : ({ xOpen with owner := none } : Stream).owner = none ∧ xEnd.fin = true
    ∧ (sOpen 1).gRoom t0 { xOpen with inList := true, delivered := 300 } = false := by decide +kernel

/-! ### The vector and matrix engines -/

theorem witness_vec : sBound.canIssue c0 = true ∧ (sBound.fetch c0 4).1 = none ∧ (sBound.fetch c0 8).1 = none
    ∧ ((sBound.fetch c0 4).2.ctx c0).vctx = some 0 ∧ ((sBound.fetch c0 4).2.vctx t0 0).queue.length < 16
    ∧ ((sBound.fetch c0 8).2.ctx c0).vctx = some 0 ∧ ((sBound.fetch c0 8).2.vctx t0 0).queue.length < 16 := by decide +kernel
/-- One word of each kind is accepted: FP8 VADD, INT8 VAND and VCMPLTU, MOV, REDUCE SUM, SHUFFLE, POPC and SUM. -/
def vf : VFields := { m := false, sm := 0, rs2 := 2, rs1 := 1, rd := 3 }
def uf : UFields := { m := false, sm := 0, rs1 := 1, rd := 3 }
theorem witness_words : vWordOk (binWord 0 3 vf) 1 = true ∧ vWordOk (binWord 3 5 vf) 1 = true ∧ vWordOk (binWord 0 6 vf) 1 = true
    ∧ vWordOk (binWord 9 6 { vf with rd := 21 }) 1 = true ∧ vWordOk (binWord 8 0 { vf with rs1 := 2, rs2 := 4, rd := 21 }) 1 = true
    ∧ vWordOk (codeWord 15 0 3 uf) 1 = true ∧ vWordOk (codeWord 15 24 6 uf) 1 = true ∧ vWordOk (codeWord 12 0 3 { uf with sm := 1 }) 1 = true
    ∧ vWordOk (binWord 13 3 { vf with sm := 1 }) 1 = true ∧ vWordOk (codeWord 14 0 6 { uf with rs1 := 20 }) 1 = true
    ∧ vWordOk (codeWord 14 6 3 uf) 1 = true := by decide
/-- A VLD of T3 from 64, a VCVT from FP32 to BF16, a VMLOGIC of Q registers. -/
def fVld : LFields := { rd := 3, rs1 := 5, rs2 := 0, imm := BitVec.ofNat 32 (2 ^ 18) }
theorem witness_vld : bitsOf fVld.imm.toNat 19 13 = 0 ∧ bitsOf fVld.imm.toNat 16 2 = 0 ∧ transferOk fVld.rd.val 0 = true
    ∧ ((sBound.fetch c0 8).2.getX c0 5 + sext 16 (bitsOf fVld.imm.toNat 0 16) * 16).toNat % 16 = 0 ∧ rowSize 0 % 16 = 0
    ∧ (match ((sBound.fetch c0 8).2.rowsOf t0 .m 64 64 64 .read 32).1 with | .ok l => l.length == 32 | _ => false) = true
    ∧ (match ((sBound.fetch c0 8).2.rowsOf t0 .m 64 64 64 .write 32).1 with | .ok l => l.length == 32 | _ => false) = true := by decide +kernel
theorem witness_cvt : bitsOf (BitVec.ofNat 32 1).toNat 13 19 = 0
    ∧ cvtOk 4 2 (bitsOf (BitVec.ofNat 32 1).toNat 0 5) (bitsOf (BitVec.ofNat 32 1).toNat 5 5) = true ∧ isQ 20 = true ∧ isQ 27 = true := by decide
theorem witness_mma : isA 16 = true ∧ isT 2 = true ∧ isT 4 = true ∧ mxFormatsOk (mxA VCtx.reset.mxcfg) (mxB VCtx.reset.mxcfg) = true
    ∧ (mxTwoB VCtx.reset.mxcfg = false ∨ 4 % 2 = 0) := by decide
/-- An MMA.D descriptor in SRAM: KB and NB 1, A0, images at 8 KiB and 12 KiB. -/
def mdDesc : List Byte := leBytes 8 0x2000 ++ leBytes 8 0x3000 ++ leBytes 8 0 ++ leBytes 8 0xFFFFFFFF ++ List.replicate 64 0
def sMmaD : State :=
  { one { kM with vctx := some 0, x := [(5, BitVec.ofNat 64 (sr 0))] } (fun T => { T with vctxs := [(0, { VCtx.reset with owner := some 0 })] }) with
    mem := Mem.setBytes [] (sr 0) mdDesc }
/-- An epilogue descriptor that does nothing: OUTFMT 7. -/
def epDesc : List Byte := leBytes 8 (7 * 2 ^ 7) ++ List.replicate 440 0
theorem witness_mma_d : (let s := (sMmaD.fetch c0 8).2
    let r := s.readDesc c0 (sMmaD.getX c0 5).toNat 96 32 []
    sMmaD.canIssue c0 && (sMmaD.fetch c0 8).1.isNone
      && (match r.1 with | .ok b => b == mdDesc && r.2.mdOk t0 b (mxScratch VCtx.reset.mxcfg) && !mdPro b && !mdEpi b | _ => false)) = true := by
  decide +kernel
theorem witness_eprun : pgOk epDesc 0 1 true = true := by decide
theorem witness_vsmx : gridOk 2 32 = true ∧ isT 4 = true ∧ gridOk 6 (fmtOf 0).width = true := by decide
def vq (op : VOp) : VQ := { seq := 0, priv := .m, op := op, vcfg := 1, vlr := 2, vlc := 2, epicfg := 0 }
def sV (op : VOp) : State := one { kM with st := .stalled, stall := .result, vctx := some 0 } (fun T =>
  { T with vctxs := [(0, { VCtx.reset with owner := some 0, queue := [vq op], file := { VFile.reset with image := Mem.setBytes [] 2048 (leBytes 2 0x0305) } })] })
theorem witness_complete : (sV .clrst).computeOn = true ∧ (sV .clrst).stopping t0 = false ∧ ((sV .clrst).vctx t0 0).queue = [vq .clrst]
    ∧ ((sV .clrst).vctx t0 0).owner = some 0 ∧ ((sV .clrst).ctx c0).stall ≠ .retry := by decide
/-- INT16 elements: 0x305 doubled in T3, and their sum in x3. -/
theorem test_vadd : steps (.vectorInstructionComplete t0 0 []) (sV (.word (binWord 0 5 { vf with rs2 := 1 }) 0))
    (fun u => (u.vctx t0 0).file.elem 3 16 0 0 == 0x60A && (u.vctx t0 0).queue == []) = true := by decide +kernel
theorem test_sum : steps (.vectorInstructionComplete t0 0 []) (sV (.word (codeWord 14 6 5 uf) 0)) (fun u => u.getX c0 3 == 0x305 && (u.ctx c0).st == .ready) = true := by
  decide +kernel
theorem witness_element : (binWord 0 5 vf).op ≤ 11 ∧ isCompare 0 5 = false ∧ vWordOk (binWord 0 5 vf) 1 = true ∧ isT (binWord 0 5 vf).rd = true
    ∧ (vq .clrst).cap.rows ≤ 32 ∧ (vq .clrst).cap.cols ≤ 32 ∧ Word.bits (32 : Word) 0 6 ≤ 32 := by decide
theorem witness_int_pass : mxA (BitVec.ofNat 64 (5 + 5 * 32)) = 5 ∧ mxB (BitVec.ofNat 64 (5 + 5 * 32)) = 5 ∧ mxSparse (BitVec.ofNat 64 (5 + 5 * 32)) = false
    ∧ mxSplit (BitVec.ofNat 64 (5 + 5 * 32)) = false := by decide
/-- 64 products 2 × −3, added to 1 (R233). -/
theorem test_int_pass : (intPass (BitVec.ofNat 64 (5 + 5 * 32)) (fun _ => 2) (fun _ => 253) 0 0 { hi := 1, lo := 0, flags := 0 }).hi = 2 ^ 32 - 383 := by
  decide +kernel
theorem witness_pass : ((sV (.mma 16 2 4 false (BitVec.ofNat 64 (5 + 5 * 32)) 0)).vctx t0 0).queue = [vq (.mma 16 2 4 false (BitVec.ofNat 64 (5 + 5 * 32)) 0)] := by
  decide

/-! The other forms: no binding, words and operands that are not accepted, a full queue, transfers off alignment and of an address past
the space, a descriptor out of form, a queue of the other engine, and none. -/

theorem witness_vec_none : (((one kM).fetch c0 4).2.ctx c0).vctx = none ∧ (((one kM).fetch c0 8).2.ctx c0).vctx = none ∧ (one kM).canIssue c0 = true := by decide +kernel
def sVFull : State := one { kM with vctx := some 0 } (fun T => { T with vctxs := [(0, { VCtx.reset with owner := some 0, queue := List.replicate 16 (vq .clrst) })] })
theorem witness_vec_full : ((sVFull.fetch c0 4).2.vctx t0 0).queue.length = 16 ∧ ((sVFull.fetch c0 8).2.vctx t0 0).queue.length = 16
    ∧ sVFull.canIssue c0 = true := by decide +kernel
theorem witness_reserved : vWordOk (codeWord 15 26 0 uf) 1 = false ∧ transferOk 3 1 = false ∧ cvtOk 4 2 9 9 = false ∧ isQ 3 = false ∧ isA 3 = false
    ∧ isT 21 = false ∧ mxFormatsOk 15 15 = false ∧ gridOk 31 32 = false := by decide +kernel
theorem witness_transfer_faults : ((sBound.fetch c0 8).2.getX c0 6 + sext 16 0 * 16).toNat % 16 ≠ 0
    ∧ (match ((sBound.fetch c0 8).2.rowsOf t0 .m (2 ^ 60) 64 64 .read 32).1 with | .error _ => true | _ => false) = true
    ∧ (sBound.fetch c0 8).2.mdOk t0 (List.replicate 96 255) false = false ∧ pgOk (List.replicate 448 255) 0 1 true = false := by decide +kernel
theorem witness_still : ((one kM).vctx t0 0).queue = [] ∧ (sV .clrst).stopping t0 = false ∧ ({ sV .clrst with computeOn := false } : State).computeOn = false := by
  decide +kernel

/-- The exponential passes FP32 between 88.722832 and 88.722839: ln 2^128 is 88.7228391 (R196). -/
theorem test_exp_over : approxOver .exp false 0xB17217 (-17) = false ∧ approxOver .exp false 0xB17218 (-17) = true := by decide +kernel
/-- RSQRT of 4 is one half within 1 ulp: two values below, itself, one above. -/
theorem test_approx_range : approxRange .rsqrt false 1 2 = (0x3EFFFFFE, 4) := by decide +kernel
theorem test_approx_special : fp32.approx .log 0x3F800000 = Res.ok 0 ∧ (fp32.approx .exp 0x7F800000).bits = 0x7F800000
    ∧ (fp32.approx .sin 0x7F800000).flags = fNV := by decide +kernel

/-! ### Embedding tables -/

/-- A table descriptor at 16 KiB: rows of 64 bytes in FP32, 10 rows in one shard, its map at 20 KiB. -/
def tDesc (hash : Nat) : List Byte :=
  leBytes 8 (4 + hash * 2 ^ 12 + 2 ^ 24) ++ leBytes 8 10 ++ leBytes 8 0 ++ leBytes 8 10 ++ leBytes 8 0x5000 ++ List.replicate 24 0
/-- An ECMD descriptor of command `k` for table 0. -/
def ecDesc (k : Nat) : List Byte := leBytes 8 (k * 2 ^ 8 + 2 ^ 12) ++ List.replicate 56 0
def sTbl (b : List Byte) : State :=
  let s := own (one kU)
  { s with regs := (.emb .etabdir0, BitVec.ofNat 64 (0x4000 + 2 ^ 63)) :: s.regs, mem := Mem.setBytes (Mem.setBytes s.mem 0x4000 (tDesc 1)) 64 b }
def tblWit (b : List Byte) (u : Suit) (k : TC → GS → Bool) : Bool :=
  let s := sTbl b
  let s' := (s.fetch c0 8).2
  let r := s'.readDesc c0 (s'.getX c0 5).toNat 64 64 []
  s.canIssue c0 && (s.fetch c0 8).1.isNone && Word.bit (s'.reg (.emb (etabdir (s'.jslot t0)))) 63 && s'.allPerformed c0
    && (match r.1 with | .ok l => l == b | _ => false) && !r.2.stopping t0
    && (match (tTable { t := t0, j := s'.jslot t0, table := ebTable b, td := [], suit := u }).run.run { s := r.2, far := [] } with
      | (.ok x, g) => ebDoneOk b (s'.spadesOk c0) x.suit && k x g
      | _ => false)
theorem witness_table : tblWit (ecDesc 5) (ecSuit (ecDesc 5)) (fun x _ => ecOk (ecDesc 5) x.td) = true
    ∧ tblWit (ecDesc 4) (ecSuit (ecDesc 4)) (fun x _ => ecOk (ecDesc 4) x.td) = true := by decide +kernel
theorem test_flip : steps (.flip c0 { rd := 0, rs1 := 5, rs2 := 0, imm := 0 } []) (sTbl (ecDesc 4))
    (fun u => u.reg (.emb (.epoch 0 0)) == 1 && (u.ctx c0).pc == 8) = true := by decide +kernel
theorem witness_place : tdOk (tDesc 0) = true ∧ tdOk (tDesc 1) = true ∧ 9 < tdRows (tDesc 1) := by decide +kernel
/-- An acknowledgement of an operation of this device that waits for one answer. -/
def ackMsg : TblMsg :=
  { src := 0, dst := 0, jslot := 0, epoch := 0, table := 0, tepoch := 0, rid := 7, tile := 0, suit := 1, fwd := false, body := .ack 1 0 }
def opAck : TblOp :=
  { id := 7, tile := t0, ctx := 0, slot := 0, seq := 0, form := .cmd, suit := 1, table := 0, desc := ecDesc 0, tab := tDesc 1, left := 1 }
def sAck : State :=
  let s := own (one kU)
  { s with tbl := { s.tbl with queue := [ackMsg], ops := [opAck] } }
theorem witness_answer : sAck.computeOn = true ∧ sAck.tbl.queue.contains ackMsg = true ∧ (sAck.job 0).epoch = ackMsg.epoch ∧ (sAck.job 0).st ≠ .stopped
    ∧ (sAck.job 0).stop = none ∧ sAck.tbl.ops.find? (fun o => o.id == ackMsg.rid.toNat && o.slot == ackMsg.jslot) = some opAck
    ∧ (tblCode ackMsg.body).1 = ptEmbrsp := by decide +kernel
/-- The answer ends the operation, and its row command's done token is not asked for. -/
theorem test_answer : steps (.embrsp 0 ackMsg []) sAck (fun u => u.tbl.ops == [] && u.tbl.queue == []) = true := by decide +kernel
def delMsg : TblMsg := { ackMsg with body := .del 3 }
def sDel : State :=
  let s := sTbl (ecDesc 0)
  { s with tbl := { s.tbl with queue := [delMsg, { ackMsg with body := .read [] }] } }
theorem witness_serve : sDel.jobTile 0 = some t0 ∧ sDel.tblEpoch 0 0 = 0 ∧ (tblCode delMsg.body).1 = ptEmbcmd ∧ sDel.tbl.queue.contains delMsg = true
    ∧ (tblCode (.read [])).1 = ptEmbreq ∧ sDel.tbl.queue.contains { ackMsg with body := .read [] } = true := by decide +kernel

/-! The other forms: no directory entry, another row's command, a stopping job, a stale message, one for a retired epoch, one nobody waits for. -/

theorem witness_table_other : Word.bit (((own (one kU)).fetch c0 8).2.reg (.emb (etabdir 0))) 63 = false ∧ (ecCmd (ecDesc 5) == 4) = false
    ∧ ecOk (List.replicate 64 255) (tDesc 1) = false := by decide +kernel
def sAckOf (st : JobSt) (stop : Option Nat) (ops : List TblOp) : State :=
  { sAck with jobs := [(0, { Job.reset with st := st, stop := stop, dies := 1 })], tbl := { sAck.tbl with ops := ops } }
theorem witness_message_other : ((sAckOf .stopped none []).job ackMsg.jslot).st = .stopped ∧ ((sAckOf .running (some 1) []).job 0).stop.isSome = true
    ∧ (sAckOf .running none []).tbl.ops.find? (fun o => o.id == ackMsg.rid.toNat && o.slot == ackMsg.jslot) = none
    ∧ ({ sDel with tiles := [] , regs := [] } : State).jobTile 0 = none ∧ sDel.tblEpoch 0 0 ≠ ({ delMsg with tepoch := 1 } : TblMsg).tepoch := by
  decide +kernel

/-! ### Signals and barriers -/

/-- Virtual IDs 5 and 6 of job slot 0 on die 0: a counter at cell 9 that holds 3, and a barrier of three at cell 10 with one arrival. -/
def vidW (n : Nat) : Word := BitVec.ofNat 64 (n * 4 + 2 ^ 18)
def cCell : Cell := { value := 3, cfg := BitVec.ofNat 64 (1 + 2 ^ 4), parent := 0, child := 0 }
def bCell : Cell := { value := 1, cfg := BitVec.ofNat 64 (2 + 2 ^ 4 + 3 * 2 ^ 5), parent := 0, child := 0 }
def withCells (s : State) (b : Cell) : State :=
  { s with cells := [((0, 9), cCell), ((0, 10), b)], regs := (.die 0 (.vid 0 5), vidW 9) :: (.die 0 (.vid 0 6), vidW 10) :: s.regs }
def kSig (x5 x6 : Word) : Ctx := { kM with x := [(5, x5), (6, x6)] }
def sSig (x5 x6 : Word) (b : Cell := bCell) : State := withCells (one (kSig x5 x6)) b
def okCell (s : State) (r : XReg) (kind : Nat) (n : Fin 65536) : Bool :=
  let s := (s.fetch c0 4).2
  match s.sigXlate t0.die (s.jslot t0) (s.vidOf c0 r) kind false with
  | .ok (d, m) => d == 0 && m == n
  | .error _ => false
theorem witness_signal_cell : (sSig 5 0).waiters 0 9 .signal = [] := by decide +kernel
theorem witness_perm : [(1 : Word), 2, 3].Perm [3, 1, 2] := by decide
theorem witness_sigread : (sSig 5 0).canIssue c0 = true ∧ ((sSig 5 0).fetch c0 4).1 = none ∧ okCell (sSig 5 0) 5 0 9 = true := by decide +kernel
theorem test_sigread : steps (.sigread c0 { rs2 := 0, rs1 := 5, rd := 7 }) (sSig 5 0) (fun u => u.getX c0 7 == 3) = true := by decide +kernel
/-- Thresholds 2 and 4 against the count 3; rounds 0 (open) and 2^32 - 1 (closed) against TRICKS 0. -/
theorem witness_wait : okCell (sSig 5 2) 5 1 9 = true ∧ okCell (sSig 6 0) 5 2 10 = true ∧ (((sSig 5 2).fetch c0 4).2.ctx c0).wait = none
    ∧ roundClosed 0 (2 ^ 32 - 1) = true ∧ roundClosed 0 0 = false := by decide +kernel
theorem test_wait : steps (.wait c0 { rs2 := 6, rs1 := 5, rd := 1 }) (sSig 5 2) (fun u => (u.cell 0 9).value == 1 && (u.ctx c0).pc == 4) = true
    ∧ steps (.wait c0 { rs2 := 6, rs1 := 5, rd := 0 }) (sSig 5 4) (fun u => (u.cell 0 9).value == 3 && (u.ctx c0).st == .waiting) = true := by
  decide +kernel
def wArmed : WaitRec :=
  { kind := .signal, vid := 5, die := 0, cell := 9, consume := false, intr := true, hold := false, threshold := 4, armed := true, met := false, rd := 0 }
theorem witness_wcancel : (((one { kM with wait := some wArmed }).fetch c0 4).2.ctx c0).wait = some wArmed
    ∧ (one { kM with wait := some wArmed }).canIssue c0 = true := by decide +kernel

def pkB (pt : BitVec 6) (h : OpHdr) : Packet :=
  { ptype := pt, vc := 0, pool := 0, pin := true, lgrp := 0, ttl := 16, fwd := false, ddev := 0, sdev := 1, jslot := 0, epoch := 0, rsv := false,
    body := ohBytes h }
/-- A device of its own with one packet for it. -/
def sPk (s : State) (k : Packet) : State := { s with localPkts := [k] }
def takenB (s : State) (k : Packet) : Bool :=
  s.computeOn && !s.behind 0 k && (s.takePacket 0 k).any (fun u => !u.stalePacket k) && pkOk k && s.localPkts.contains k
def bUp : Cell := { bCell with value := BitVec.ofNat 64 (3 + 2 * 2 ^ 20 + 2 ^ 40), cfg := BitVec.ofNat 64 (bCell.cfg.toNat + 2 ^ 25) }
theorem witness_barrv : takenB (sPk (own (sSig 5 0)) (pkB ptBarrv { vid := 6 })) (pkB ptBarrv { vid := 6 }) = true ∧ bCell.sense = false
    ∧ bCell.arrived + 1 < bCell.pcount := by decide +kernel
theorem test_barrv : steps (.barrv 0 (pkB ptBarrv { vid := 6 })) (sPk (own (sSig 5 0)) (pkB ptBarrv { vid := 6 })) (fun u => (u.cell 0 10).arrived == 2) = true := by
  decide +kernel
theorem witness_brel : takenB (sPk (own (sSig 5 0 bUp)) (pkB ptBrel { vid := 6 })) (pkB ptBrel { vid := 6 }) = true ∧ bUp.tricks = 0 ∧ bUp.up = true
    ∧ bUp.par = true ∧ bUp.early < bUp.pcount := by decide +kernel
theorem test_brel : steps (.brel 0 (pkB ptBrel { vid := 6 })) (sPk (own (sSig 5 0 bUp)) (pkB ptBrel { vid := 6 }))
    (fun u => (u.cell 0 10).arrived == 2 && (u.cell 0 10).tricks == 1 && !(u.cell 0 10).up) = true := by decide +kernel
/-- A chassis barrier whose even line is released. -/
def bChas : Cell := { bUp with cfg := BitVec.ofNat 64 (bCell.cfg.toNat + 2 ^ 26) }
def sChas (l : ChasLine) : State := { own (sSig 5 0 bChas) with chasLines := [(0, l)] }
theorem witness_chassis : (sChas .released).chasCell = some (0, 10) ∧ Tab.get ChasLine.held (sChas .released).chasLines 0 = .released
    ∧ chasLine bChas.tricks = 0 ∧ bChas.up = true ∧ bChas.early < bChas.pcount
    ∧ Tab.get ChasLine.held ({ own (one kM) with chasLines := [(0, .high)] } : State).chasLines 0 = .high ∧ (own (one kM)).chasCell = none := by decide +kernel
theorem witness_timeout : ((own (sSig 5 0)).cell 0 10).kind = 2 ∧ ((own (sSig 5 0)).cell 0 10).arrived ≠ 0
    ∧ ((own (sSig 5 0)).job (Fin.ofNat 4 ((own (sSig 5 0)).cell 0 10).slot)).st = .running
    ∧ ((own (sSig 5 0)).job (Fin.ofNat 4 ((own (sSig 5 0)).cell 0 10).slot)).stop = none := by decide +kernel
theorem test_timeout : steps (.barrierTimeout 0 10) (own (sSig 5 0)) (fun u => (u.job 0).stop == some 0x3C && u.journal.length == 1) = true := by decide +kernel
def psE : PsEntry := { src := 1, xid := 7, die := 0, cell := 9, inc := 1, n := 4, tally := 1, slot := 0, suit := 1 }
def note : Notice := { home := 0, src := 1, xid := 7, slot := 0 }
theorem witness_notice : (Tab.get [] ({ own (one kM) with psTab := [(0, [psE])], notices := [note] } : State).psTab note.home).find?
    (fun e => e.src == note.src && e.xid == note.xid && e.slot == note.slot) = some psE := by decide
theorem test_notice : steps (.writeNotice 0) { own (one kM) with psTab := [(0, [psE])], notices := [note] }
    (fun u => u.psTab == [(0, [{ psE with tally := 2 }])] && u.notices == []) = true := by decide +kernel
def sXferring : State := after (.xferPut c0 { rs2 := 0, rs1 := 5, rd := 0 } []) (own (sXfer 0))
theorem witness_xfer_timeout : ((sXferring.tile t0).xfer? 0).isSome = true ∧ sXferring.owner t0 = some 0 ∧ (sXferring.job 0).st = .running
    ∧ (sXferring.job 0).stop = none := by decide +kernel

/-! The other forms: a queued signal ahead of SIGREAD, IDs that do not translate or name another kind, armed waits, rounds that do not fit, and
events that nothing awaits. -/

theorem witness_sig_other : (((sQueued (.sigr 1 2 3 0)).fetch c0 4).2.tile t0).tokq.any (fun q => q.ctx == some 0 && (match q.kind with
      | .signal _ _ => true | .sigr _ _ _ _ => true | .barrive _ _ _ => true | _ => false)) = true
    ∧ okCell (sSig 7 0) 5 0 9 = false ∧ okCell (sSig 5 0) 5 2 9 = false ∧ ((one kArmed).fetch c0 4).1 = none
    ∧ (((one kArmed).fetch c0 4).2.ctx c0).armed = true := by decide +kernel
theorem witness_barrier_other : ¬(((ohOf (pkB ptBarrv { vid := 6, sub := 1 }).body).sub % 2 == 1) = bCell.sense)
    ∧ ({ bCell with value := 3 } : Cell).pcount ≤ ({ bCell with value := 3 } : Cell).arrived
    ∧ ({ bCell with value := 2 } : Cell).arrived + 1 = ({ bCell with value := 2 } : Cell).pcount
    ∧ bCell.up = false ∧ ¬(cCell.kind = 2) ∧ bUp.early = 2 := by decide +kernel
theorem witness_chassis_other : (own (one kM)).chasCell = none ∧ Tab.get ChasLine.held (own (one kM)).chasLines 0 ≠ .high
    ∧ chasLine bChas.tricks ≠ 1 ∧ Tab.get ChasLine.held (sChas .high).chasLines 1 = .held := by decide +kernel
theorem witness_none_left : ((one kM).tile t0).xfer? 0 = none ∧ (Tab.get [] (one kM).psTab 0)[0]? = none ∧ (one kM).notices[0]? = none
    ∧ (Tab.get [] ({ own (one kM) with psTab := [(0, [psE])] } : State).psTab 0)[0]? = some psE
    ∧ (Tab.get [] (own (one kM)).psTab note.home).find? (fun e => e.src == note.src && e.xid == note.xid && e.slot == note.slot) = none := by
  decide +kernel

/-! ### The memory system -/

def scL (d : Bool) (w : Nat) : ScLine := { way := w, dirty := d, pref := false, back := List.replicate 128 3 }
def sLine (d : Bool) : State := { one kM with scLines := [(0, scL d 2)] }
theorem witness_scrub : (one kM).power.selfRefresh = false ∧ (one kM).computeOn = true ∧ (one kM).stackExcl 0 = false
    ∧ ((Tab.find? (one kM).scLines (lineOf ((one kM).unplace 0 0 0))).any (fun l => l.dirty)) = false
    ∧ ((Tab.find? (sLine true).scLines (lineOf ((sLine true).unplace 0 0 0))).any (fun l => l.dirty)) = true := by decide +kernel
/-- Block 63 is the last of a 4 KiB piece. -/
theorem test_scrub : steps (.scrub 0 .uncorrectable) { one kM with scrubBlk := [(0, 63)] } (fun u => Tab.get 0 u.scrubBlk 0 == 0
    && Word.bits (u.stackReg 0 .scrubpos) 0 25 == 1 && u.poison.length == 1) = true := by decide +kernel
def rc (op : Fin 4) (force : Bool) (ways : Nat) : RangeCmd := { op := op, base := 0, len := 128, force := force, ways := ways, slot := 0 }
def sRange (d : Bool) (r : RangeCmd) : State := { sLine d with ranges := [(0, r)] }
/-- Way 2 locked for slot 0. -/
def sLocked (s : State) : State := s.setReg (.stack 0 .lockcfg) 4
theorem witness_range : Tab.find? (one kM).ranges 0 = none ∧ (sLocked (one kM)).waysOf 0 0 = 4 ∧ (4 : Nat) &&& (sLocked (one kM)).waysOf 0 0 = 4
    ∧ (8 : Nat) &&& (sLocked (one kM)).waysOf 0 0 ≠ 8 ∧ Tab.find? (sRange true (rc 1 false 0)).ranges 0 = some (rc 1 false 0)
    ∧ 0 ∈ (sRange true (rc 1 false 0)).rangeLines 0 (rc 1 false 0) := by decide +kernel
theorem test_range_start : steps (.lockfill .all 0x100 0x80 4 0) (sLocked (one kM)) (fun u => Tab.find? u.ranges 0
    == some { op := 3, base := 0x100, len := 0x80, force := false, ways := 4, slot := 0 }) = true := by decide +kernel
/-- INVAL of a dirty line in a locked way: skipped, or with FORCE dropped for what DRAM holds (R360). -/
theorem test_inval : steps (.rangeComplete 0) (sLocked (sRange true (rc 1 false 0))) (fun u => Tab.find? u.scLines 0 == some (scL true 2)
      && Word.bits (u.stackReg 0 .rngstat) 32 32 == 1) = true
    ∧ steps (.rangeComplete 0) (sLocked (sRange true (rc 1 true 0))) (fun u => Tab.find? u.scLines 0 == none && Mem.get u.mem 5 == 3) = true := by
  decide +kernel
theorem test_clean : steps (.rangeComplete 0) (sRange true (rc 0 false 0)) (fun u => (Tab.find? u.scLines 0).any (fun l => !l.dirty) && Mem.get u.mem 5 == 0) = true := by
  decide +kernel

/-- A spill window of die 0 for device 1: base 2 MiB, one data frame, with its counter frame at 4 MiB. -/
def sSpill : State :=
  { own (one kM) with regs := (.die 0 (.spill 0 0), BitVec.ofNat 64 (1 + 2 ^ 63)) :: (.die 0 (.spill 0 1), 0x200000) :: (.die 0 (.spill 0 2), 1) :: (own (one kM)).regs }
def pkFar (pt : BitVec 6) (h : OpHdr) (d : List Byte) : Packet := { pkB pt h with body := ohBytes h ++ d }
def kFrd : Packet := pkFar ptFarrd { addr := 0x200000 } []
def kFwr : Packet := pkFar ptFarwr { addr := 0x200040, vid := 1 } (List.replicate 16 9)
def kFam (code : Nat) : Packet := pkFar ptFaramo { addr := 0x200080, sub := code, aw := true } (leBytes 8 5 ++ leBytes 8 0)
def granted (s : State) (k : Packet) (pa n : Nat) (rd : Bool) : Bool :=
  (s.takePacket 0 k).any (fun u => (u.spillEntry (dieOfPort 0) k.sdev pa n rd) == some 0x400000 && decide (pa + n ≤ u.dramTop) && !u.poisoned pa n)
theorem witness_far : takenB (sPk sSpill kFrd) kFrd = true ∧ granted (sPk sSpill kFrd) kFrd 0x200000 16 true = true
    ∧ takenB (sPk sSpill kFwr) kFwr = true ∧ granted (sPk sSpill kFwr) kFwr 0x200040 16 false = true
    ∧ takenB (sPk sSpill (kFam 1)) (kFam 1) = true ∧ granted (sPk sSpill (kFam 1)) (kFam 1) 0x200080 8 false = true
    ∧ tagOf (leAt (kFam 1).body 24 8) = some (t0, 0) ∧ (sSpill.farReserve 1 t0 0 0x200080).farHeld 1 t0 0 0x200080 = true
    ∧ (sSpill.spillEntry 0 2 0x200000 16 true) = none := by decide +kernel
theorem test_farwr : steps (.farwr 0 kFwr) (sPk sSpill kFwr) (fun u => Mem.get u.mem 0x200040 == 9 && Mem.get u.mem 0x200041 == 0
    && Mem.get u.mem 0x400004 == 1) = true := by decide +kernel
theorem test_faramo : steps (.faramo 0 (kFam 1)) (sPk sSpill (kFam 1)) (fun u => Mem.get u.mem 0x200080 == 5 && Mem.get u.mem 0x400008 == 1) = true := by
  decide +kernel
def kFrs (xseq : Nat) : Packet := pkFar ptFarrsp { xseq := xseq } (List.replicate 16 7)
def oFar : MemOp := { seq := 0, ctx := 0, kind := .load 7 false, place := .far 1, pa := 0, width := .b, data := 0, aq := false, rl := false, priv := .m, sent := true }
def sFar : State := { own (one kM (fun T => { T with memq := [oFar] })) with farWaits := [{ tile := t0, ctx := some 0, dev := 1, seq := 0, write := false, suit := 1 }] }
theorem witness_farrsp : takenB (sPk sFar (kFrs 0)) (kFrs 0) = true ∧ takenB (sPk sFar (kFrs 1)) (kFrs 1) = true ∧ tileOfOrd? 0 = some t0
    ∧ (sFar.tile t0).memq.find? (fun o => decide (o.ctx.val = 0) && o.sent && o.place == Place.far 1) = some oFar
    ∧ (sFar.tile t0).memq.any (fun o => some o.ctx == some 0 && o.sent) = true ∧ sFar.owner t0 = some 0 ∧ (sFar.job 0).st = .running
    ∧ (sFar.job 0).stop = none := by decide +kernel
theorem test_farrsp : steps (.farrsp 0 (kFrs 0)) (sPk sFar (kFrs 0)) (fun u => u.getX c0 7 == 7) = true
    ∧ steps (.farrsp 0 (kFrs 1)) (sPk sFar (kFrs 1)) (fun u => u.farWaits == []) = true
    ∧ steps (.farTimeout t0 (some 0)) sFar (fun u => (u.job 0).stop == some 0x43) = true := by decide +kernel
/-- Every tile of the grid has its SRAM window (R95, R106), and nothing stands beside them. -/
theorem test_target_windows : targetIn [] 0x020400000000 = .unmapped
    ∧ ((List.range 1024).all fun n => match tileOf? n with
      | some t => targetIn [] (0x020000000000 + n * 0x1000000) == .sram t 0
      | none => targetIn [] (0x020000000000 + n * 0x1000000) == .unmapped) = true := by decide +kernel

/-! The other forms: stacks that refresh themselves or are left out, a busy range engine, poison in the way, a grant refused, tags and answers
that fit nothing. -/

theorem witness_scrub_other : ({ one kM with power := { (one kM).power with selfRefresh := true } } : State).power.selfRefresh = true
    ∧ ({ one kM with excl := [.stack 0] } : State).stackExcl 0 = true ∧ ({ one kM with poison := [3] } : State).poisoned 192 8 = true
    ∧ Tab.find? (sRange true (rc 1 false 0)).ranges 0 ≠ none ∧ (one kM).latent = [] := by decide +kernel
theorem witness_far_other : (sSpill.spillEntry 0 1 0x200000 (0x200000 + 16) true) = none ∧ tagOf 1023 = none ∧ (sSpill.farHeld 1 t0 0 0x200080) = false
    ∧ tileOfOrd? (0xFFFF / 64) = none ∧ (own (one kM)).farWaits.find? (fun w => w.tile == t0 && w.ctx == some 0) = none
    ∧ ((own (one kM)).tile t0).memq.find? (fun o => some o.ctx == some 0 && o.sent) = none := by decide +kernel

/-! ### Espex links -/

def trG : Training := { faults := [], inverted := 0, order := .same, peerOk := 15, poor := 0, nbrDev := 9, nbrPort := 4, antes := [] }
/-- A trained link that kept lane 0 only: its saved training is good on all four. -/
def lnk : LinkSt := { LinkSt.reset with eqSaved := true, saved := trG, rxLanes := 1, txLanes := 1 }
def sPort (st : Nat) (l : LinkSt := lnk) : State :=
  { (own (one kM)).modReg (.port 3 .portstat) (fun w => Word.setBits w 0 3 st) with links := [(3, l)] }
theorem witness_training : (sPort 0).computeOn = true ∧ (sPort 0).portExcl 3 = false ∧ Word.bit ((sPort 0).portReg 3 .portcfg) 0 = true
    ∧ (sPort 0).portState 3 < 2
    ∧ max (laneWidth (goodLanes trG 0) 0) (laneWidth 15 0) = 0 ∧ laneWidth (goodLanes trG 1) 0 = 1 ∧ laneWidth (goodLanes { trG with poor := 15 } 0) 0 = 3
    ∧ (sPort 3).portState 3 = 3 ∧ ((sPort 3).link 3).eqSaved = true ∧ (sPort 2).portUp 3 = true ∧ (sPort 4).portState 3 = 4
    ∧ ((sPort 4).link 3).lost = false ∧ (sPort 5).portState 3 = 5 ∧ (sPort 5).portUp 3 = false := by decide +kernel
theorem test_training : steps (.linkTraining 3 trG) (sPort 0) (fun u => u.portUp 3 && Word.bits (u.portReg 3 .portstat) 10 14 == 9
      && (u.link 3).rxLanes == 15) = true
    ∧ steps (.linkTraining 3 { trG with order := .other }) (sPort 0) (fun u => !u.portUp 3 && Word.bits (u.portReg 3 .portstat) 3 2 == 3) = true
    ∧ steps (.linkTraining 3 trG) (sPort 2) (fun u => u == sPort 2) = true := by decide +kernel
/-- Lane 0 past its threshold, then a retrain at half width with flit 7 still to be acknowledged; a port lost for good stays down. -/
theorem test_retrain : steps (.laneErrorThreshold 3 0) (sPort 2) (fun u => u.portState 3 == 3 && (u.link 3).badLanes == 1 && (u.link 3).rtreq) = true
    ∧ steps (.fastRetrain 3 trG) (sPort 3 { lnk with badLanes := 1, replay := [(7, [])] })
        (fun u => u.portUp 3 && Word.bits (u.portReg 3 .portstat) 3 2 == 1 && (u.link 3).replay == [(7, [])]) = true
    ∧ steps (.fastRetrain 3 trG) (sPort 4 { lnk with lost := true }) (fun u => !u.portUp 3) = true
    ∧ steps (.fastRetrain 3 { trG with poor := 15 }) (sPort 3) (fun u => u.portState 3 == 4 && (u.link 3).lost) = true := by decide +kernel
theorem witness_retry : ((sPort 2 { lnk with replay := [(7, [])], retrying := true, fails := 6 }).link 3).replay ≠ []
    ∧ ((sPort 2 { lnk with replay := [(7, [])] }).link 3).retrying = false ∧ ((sPort 2).link 3).replay = [] := by decide +kernel
theorem test_retry : steps (.retryTimeout 3) (sPort 2 { lnk with replay := [(7, [])], retrying := true, fails := 6 })
      (fun u => u.portUp 3 && (u.link 3).fails == 7) = true
    ∧ steps (.retryTimeout 3) (sPort 2 { lnk with replay := [(7, [])], retrying := true, fails := 7 }) (fun u => u.portState 3 == 4) = true := by
  decide +kernel
theorem test_link_down : steps (.linkDown 3) (sPort 4) (fun u => (u.job 0).stop == some 0x48) = true := by decide +kernel
theorem test_idle : steps (.lpienter 3) (sPort 2) (fun u => u.portState 3 == 5) = true ∧ steps (.lpiexit 3) (sPort 5) (fun u => u.portUp 3) = true := by
  decide +kernel

/-- CRC-32C of the nine digits, as RFC 3720 gives it. -/
theorem test_crc : crc32c [0x31, 0x32, 0x33, 0x34, 0x35, 0x36, 0x37, 0x38, 0x39] = 0xE3069283 := by decide +kernel
/-- Flits of header word `w` and no packets. -/
def flit (w : Nat) : List Byte :=
  let b := leBytes 12 w
  let z := List.replicate 240 0
  b ++ leBytes 4 (crc32c (b ++ z)) ++ z
/-- A block whose first flit is the one given, all on one lane. -/
def blk (hdr : Nat) (f : List Byte) : FecIn := { lanes := fecLanes 1 (fecSymbols hdr [f]), flit := 0 }
theorem witness_flit : (flit 1).length = 256 ∧ flitCrcOk (flit 1) = true ∧ leAt (flit 1) 0 12 % 4 = 1 ∧ flitCrcOk (flit 0) = true ∧ leAt (flit 0) 0 12 % 4 = 0
    ∧ bitsOf (leAt (flit 0) 0 12) 2 12 = 0 ∧ flitCrcOk (flit 4) = true ∧ bitsOf (leAt (flit 4) 0 12) 2 12 = 1
    ∧ flitCrcOk ((flit 0).take 255 ++ [1]) = false ∧ leAt (flit 2) 0 12 % 4 = 2 ∧ (sPort 2).rxWidth 3 = 1 := by decide +kernel
set_option maxRecDepth 1000000 in
theorem test_fec : ((fecDecode 1 (blk 0x1F (flit 0)).lanes).any fun b => b.hdr == 0x1F && b.flits.head? == some (flit 0) && b.corrected == 0) = true := by
  decide +kernel
/-- A block that a lane did not bring, and the lowest coefficients of the code's generator (IEEE 802.3, log 91). -/
theorem test_fec_lost : fecDecode 1 [] = none ∧ (rsCheck [1]).reverse.take 8 = [523, 834, 128, 158, 185, 127, 392, 193] := by decide +kernel
set_option maxRecDepth 1000000 in
theorem test_flit : steps (.dataFlit 3 (blk 0 (flit 0))) (sPort 2) (fun u => (u.link 3).rxSeq == 1 && u.portReg 3 .lkrx == 1) = true := by decide +kernel
set_option maxRecDepth 1000000 in
theorem test_flit_gap : steps (.dataFlit 3 (blk 0x10 (flit 4))) (sPort 2) (fun u => (u.link 3).rxSeq == 0 && (u.link 3).gap && u.portState 3 == 3) = true := by
  decide +kernel
theorem witness_tsrsp : ((sPort 2 { lnk with tsOpen := some (5 * 2 ^ 16) }).link 3).tsOpen = some (5 * 2 ^ 16)
    ∧ Word.bit (((sPort 2).setReg (.port 0 .timecfg) 0x13).portReg 0 .timecfg) 4 = true
    ∧ Word.bits (((sPort 2).setReg (.port 0 .timecfg) 0x13).portReg 0 .timecfg) 0 4 = 3 := by decide +kernel

/-- Packets for this device: each is taken, and what it needs is there. -/
def sRx (k : Packet) : State := sPk (own (sSig 5 0)) k
def sRxX (op : Nat) (k : Packet) : State :=
  sPk (own (one kM (fun T => { T with xfers := [{ xferOf (xferDesc 0) 0 0 0 .m with op := op, peer := 1, lva := sr 0, len := 16 }] }))) k
def kTok : Packet := pkFar ptToken {} []
def kTok' : Packet := { kTok with body := image }
def d16 : List Byte := List.replicate 16 9
def kPut : Packet := pkFar ptPut { addr := 0x3000 } d16
def kPutsN : Packet := pkFar ptPuts { addr := 0x3000, vid := 5, nm1 := 1 } d16
def kPuts : Packet := pkFar ptPuts { addr := 0x3000, vid := 5 } (leBytes 8 4 ++ leBytes 8 0 ++ d16)
def kXack : Packet := pkFar ptXack {} []
def kGetreq : Packet := pkFar ptGetreq { addr := 0x3000 } []
def kGetdata : Packet := pkFar ptGetdata {} (List.replicate 16 7)
def kSigr : Packet := pkFar ptSigr { vid := 5 } (leBytes 16 4)
def kFault : Packet := pkFar ptFault {} (leBytes 16 0x3E)
theorem witness_rx : takenB (sRx kTok') kTok' = true ∧ (tokOf (slice kTok'.body 0 16) []).ddev = 0 ∧ takenB (sRx kPut) kPut = true
    ∧ takenB (sRx kPutsN) kPutsN = true ∧ pkSignalBearing kPutsN = false ∧ takenB (sRx kPuts) kPuts = true ∧ pkSignalBearing kPuts = true
    ∧ takenB (sRxX 0 kXack) kXack = true ∧ takenB (sRx kGetreq) kGetreq = true ∧ takenB (sRx kSigr) kSigr = true
    ∧ takenB (sRx kFault) kFault = true ∧ ((sRx kFault).job 0).epoch = kFault.epoch := by decide +kernel
theorem witness_rx_getdata : takenB (sRxX 1 kGetdata) kGetdata = true ∧ xidTile (ohOf kGetdata.body).xid = some (t0, 0)
    ∧ (((sRxX 1 kGetdata).tile t0).xfer? 0).any (fun x => x.peer == 1 && x.op == 1 && xferN x == 1) = true := by decide +kernel
theorem witness_rx_write : ((sRx kPut).peerWrite 0 kPut 0x3000 d16).1 = true ∧ (sRx kPut).jobTile 0 = some t0
    ∧ (match (sRx kPuts).sigXlate 0 0 5 1 true with | .ok (d, n) => d == 0 && n == 9 | _ => false) = true := by decide +kernel
theorem test_rx : steps (.tokenPacket 0 kTok') (sRx kTok') (fun u => u.mesh.length == 1) = true
    ∧ steps (.put 0 kPut) (sRx kPut) (fun u => Mem.get u.mem 0x3005 == 9) = true
    ∧ steps (.put 0 kPutsN) (sRx kPutsN) (fun u => u.notices.length == 1) = true
    ∧ steps (.xack 0 kXack) (sRxX 0 kXack) (fun u => (u.tile t0).xfers == []) = true := by decide +kernel
/-- A PUTS of one packet: written, then signalled, its entry freed (R327, R328). -/
theorem test_rx_puts : steps (.puts 0 kPuts) (sRx kPuts) (fun u => Mem.get u.mem 0x3005 == 9 && (u.cell 0 9).value == 7 && Tab.get [] u.psTab 0 == []) = true := by
  decide +kernel
theorem test_rx_more : steps (.sigr 0 kSigr) (sRx kSigr) (fun u => (u.cell 0 9).value == 7) = true
    ∧ steps (.fault 0 kFault) (sRx kFault) (fun u => (u.job 0).stop == some 0x3E && u.journal.length == 1) = true
    ∧ steps (.getdata 0 kGetdata) (sRxX 1 kGetdata) (fun u => (u.tile t0).xfers == [] && Mem.get u.mem (sr 15) == 7) = true := by decide +kernel

/-! The other cases: packets behind another, for another device, of bad form, of an earlier rubber, for a full table, or that fit nothing. -/

def sUp (s : State) : State := s.modReg (.port 0 .portstat) (fun w => Word.setBits w 0 3 2)
def kBad : Packet := { kPut with rsv := true }
def kOld : Packet := { kPut with epoch := 1 }
/-- Every row of the table of transfers taken. -/
def sRows256 : State := { sRx kPuts with psTab := [(0, List.replicate 256 psE)] }
theorem witness_rx_other : ({ own (one kM) with inbox := [(0, kSigr), (0, kPut)] } : State).behind 0 kPut = true ∧ kSigr.vc = kPut.vc
    ∧ (sUp (own (one kM))).portUp 0 = true ∧ (sUp (own (one kM))).behind 0 kPut = false ∧ (own (one kM)).portUp 0 = false
    ∧ Word.bit ((sUp (own (one kM))).routeEntry 0 5) 20 = false ∧ pkOk kBad = false ∧ ((sRx kBad).takePacket 0 kBad).isSome = true
    ∧ ((sRx kOld).takePacket 0 kOld).any (fun u => u.stalePacket kOld) = true ∧ pkOk kOld = true
    ∧ (match (own (one kM)).sigXlate 0 0 5 1 true with | .error _ => true | _ => false) = true
    ∧ (match sRows256.sigXlate 0 0 5 1 true with | .ok (d, _) => decide (256 ≤ (Tab.get [] sRows256.psTab d).length) | _ => false) = true
    ∧ sRows256.localPkts.contains kPuts = true ∧ xidTile 0xFFFF = none ∧ ((own (one kM)).tile t0).xfer? 0 = none
    ∧ (one kM).jobTile 0 = none ∧ ((sRx { kFault with epoch := 1 }).job 0).epoch ≠ 1 := by decide +kernel
theorem test_rx_other : steps (.put 0 kPut) { own (one kM) with inbox := [(0, kSigr), (0, kPut)] } (fun u => u.inbox.length == 2 && u.mem == (own (one kM)).mem) = true
    ∧ steps (.put 0 kBad) (sRx kBad) (fun u => u.localPkts == [] && u.journal.length == 1) = true
    ∧ steps (.put 0 kOld) (sRx kOld) (fun u => u.dieReg 0 .psstale == 1 && Mem.get u.mem 0x3005 == 0) = true
    ∧ steps (.puts 0 kPuts) sRows256 (fun u => u.psWaiting == [kPuts] && u.dieReg 0 .psbp == 1) = true
    ∧ steps (.fault 0 { kFault with epoch := 1 }) (sRx { kFault with epoch := 1 }) (fun u => (u.job 0).stop == none) = true := by decide +kernel
theorem test_getreq : (match ((sRx kGetreq).jobTile 0).map (fun t => ((sRx kGetreq).engineRead t .u (peerBy kGetreq) 0x3000 16 []).1) with
    | some (.ok d) => d.data == List.replicate 16 0 | _ => false) = true := by decide +kernel

/-! ### The host port -/

def hpUp (s : State) : State := s.modReg (.host .hpstat) (fun w => Word.setBits w 0 2 2)
/-- Connection 3 of job slot 0, open with every right, on a device whose port is up. -/
def kConn : Conn := { Conn.reset with st := .opened, jb := true, jslot := 0, mg := true, sp := true, hb := true, rto := 100, rate := 5000 }
def sHost (k : Conn := kConn) : State :=
  let s := hpUp (own (one kM))
  { s with host := { s.host with conns := [(3, k)] } }
def htP (typ : BitVec 4) (arg : Word) (d : List Byte) : HtPkt :=
  { ver := 1, typ := typ, suit := 1, last := true, rsv := false, conn := 3, psn := 0, msn := 0, plen := BitVec.ofNat 14 d.length, ts := 0, arg := arg, payload := d }
def htI (p : HtPkt) : HtIn :=
  { data := htBytes p, peer := kConn.peer, dst := 0, port := 0xB7C0, sum := 0, tagged := true, ce := false, sec := none }
def iTok : HtIn := htI (htP htToken 1 image)
def iPut : HtIn := htI (htP htPut 0x3000 d16)
def iGet : HtIn := htI (htP htGetreq 0x3000 (leBytes 16 64))
def iMgmt : HtIn := htI (htP htMgmt 1 (List.replicate 16 0))
def iRsp : HtIn := htI (htP htGetrsp 0 d16)
/-- The packet lies in the window for the first time and is accepted, or refused with status 1 (an address outside the grant). -/
def arrivesB (s : State) (i : HtIn) (st : Nat) : Bool :=
  s.hostUp && s.frameOk i.sec && s.datagramOk i && i.pkt.ver == 1 && i.pkt.conn.toNat == 3 && (s.conn 3).st == .opened
    && ((s.conn 3).seenAt i.pkt.psn.toNat).isNone && psnDist (s.conn 3).rxNext i.pkt.psn.toNat == 0 && (marking s i 3).htStatus ((marking s i 3).conn 3) i.pkt == st
theorem witness_gxht : arrivesB sHost iTok 0 = true ∧ arrivesB sHost iPut 0 = true ∧ arrivesB sHost iGet 0 = true ∧ arrivesB sHost iMgmt 0 = true
    ∧ arrivesB sHost iRsp 4 = true ∧ arrivesB sHost (htI (htP htPut 0x40000000000 d16)) 1 = true := by decide +kernel
/-- The STATUS of every ACK that leaves. -/
def acks (s : State) : List Nat := s.host.out.filterMap (fun f => match f with | .gxht g => some (leAt g.data 47 1) | _ => none)
theorem test_gxht_put : steps (.gxhtPut iPut) sHost (fun u => Mem.get u.mem 0x3005 == 9 && (u.conn 3).rxNext == 1 && u.host.out.length == 1) = true := by
  decide +kernel
theorem test_gxht_get : steps (.gxhtGetreq iGet true) sHost (fun u => (u.conn 3).unacked.map (fun x => (x.pkt.typ, x.pkt.plen.toNat)) == [(htGetrsp, 64)]) = true := by
  decide +kernel
theorem test_gxht_refused : steps (.gxhtPut (htI (htP htPut 0x40000000000 d16))) sHost (fun u => u.mem == (sHost).mem
    && acks u == [1]) = true := by decide +kernel
theorem test_gxht_closed : steps (.gxhtMgmt iMgmt) (sHost { kConn with st := .held }) (fun u => acks u == [5]) = true := by
  decide +kernel
/-- Two packets sent; the ACK covers the first. -/
def sSent (k : Conn := kConn) : State :=
  sHost { k with unacked := [{ pkt := htP htMgmt 0 [], sent := true, resent := none }, { pkt := { htP htMgmt 0 [] with psn := 1 }, sent := true, resent := none }],
                 txPsn := 2, timeouts := 2 }
def iAck : HtIn := htI { htP htAck 0 (List.replicate 48 0) with psn := 1 }
theorem witness_ack : iAck.pkt.plen = 48 ∧ iAck.pkt.payload.length = 48 ∧ iAck.pkt.conn.toNat = 3 ∧ (sSent.conn 3).st = .opened := by decide +kernel
theorem test_ack : steps (.gxhtAck iAck) sSent (fun u => (u.conn 3).unacked.map (fun x => x.pkt.psn.toNat) == [1] && (u.conn 3).timeouts == 0) = true := by
  decide +kernel
theorem witness_resend : ((sSent.conn 3).unacked.find? (fun x => x.sent)).isSome = true ∧ (sSent.conn 3).timeouts + 1 < Word.bits (sSent.hostReg .htcfg) 56 4
    ∧ Word.bits (sSent.hostReg .htcfg) 56 4 = 12 := by decide +kernel
theorem test_resend : steps (.retransmitTimeout 3) sSent (fun u => (u.conn 3).timeouts == 3 && (u.conn 3).rto == 200 && u.host.out.length == 1) = true := by
  decide +kernel
def sRtt (ce : Nat) : State := sHost { kConn with rtt := some 100, ceRtt := ce }
theorem test_rate : steps (.congestionUpdate 3) (sRtt 0) (fun u => (u.conn 3).rate == 5000 + 10 * 1024) = true
    ∧ steps (.congestionUpdate 3) (sRtt 1) (fun u => (u.conn 3).rate == 3750) = true := by decide +kernel
theorem witness_heartbeat : (sHost.job (sHost.conn 3).jslot).st = .running ∧ (sHost.job (sHost.conn 3).jslot).stop = none := by decide +kernel
theorem test_heartbeat : steps (.heartbeatTimeout 3) sHost (fun u => (u.job 0).stop == some 0x50 && (u.conn 3).st == .held) = true := by decide +kernel
theorem test_pause : steps (.pfcPause 4 9) sHost (fun u => u.host.paused == [4]) = true ∧ steps (.eapol (.install true 7 1 5)) sHost (fun u => u.host.macRx == [{ sci := 7, an := 1, key := 5 }]) = true := by
  decide +kernel
/-- IEEE 1588: the master is 100 ns ahead over a path of 50 ns (R415). -/
def sPtp : State := { sHost with timebase := 0, host := { sHost.host with ptp1 := some 150, ptp2 := some 100, ptp3 := some 200 } }
theorem test_ptp : steps (.ptpMessage ⟨(.delayResp 350), none⟩) sPtp (fun u => Word.bits (u.stewReg .timestat) 32 32 == 100 && u.host.ptp1 == none) = true := by decide +kernel
theorem witness_link : Word.bits (State.reset.hostReg .hpstat) 0 2 = 0 ∧ Word.bit (State.reset.hostReg .hpcfg) 0 = true := by decide +kernel
/-- Requests over I3C for an endpoint. -/
def ask (s : State) (e : Nat) (b : List Byte) : State :=
  { s with host := { s.host with reqs := [{ via := none, suit := 0, endpoint := e, tag := 7, body := b }] } }
def openBody (n fl : Nat) : List Byte := leBytes 2 n ++ leBytes 2 fl ++ List.replicate 28 0
theorem witness_conn : ({ via := none, suit := 0, endpoint := 2, tag := 7, body := openBody 5 1 } : MgmtReq).lenOk 32 = true ∧ leAt (openBody 5 1) 3 1 = 0
    ∧ leAt (openBody 5 1) 14 2 = 0 ∧ leAt (openBody 5 1) 0 2 = 5 ∧ leAt (openBody 0xFFFF 1) 0 2 = 0xFFFF ∧ ((ask sHost 2 []).conn 5).st = .free
    ∧ (ask sHost 2 []).slotOpen 0 = true := by decide +kernel
theorem test_conn : steps (.connOpen 0) (ask sHost 2 (openBody 5 1)) (fun u => (u.conn 5).st == .opened && u.host.i3cOut.map (·.body) == [[0, 0, 0, 0, 5, 0, 0, 0]]) = true
    ∧ steps (.connClose 0) (ask sHost 3 (leBytes 8 3)) (fun u => (u.conn 3).st == .free && u.host.i3cOut.map (·.body) == [[0, 0, 0, 0]]) = true := by decide +kernel
theorem test_ident : steps (.ident 0) (ask sHost 1 []) (fun u => u.host.i3cOut.map (fun a => (a.tag, a.body.length)) == [(7, 72)]) = true := by decide +kernel

/-! The other cases: frames that do not enter, duplicates, packets out of the window, ACKs of bad form, connections that fail, and
requests with something against them. -/

def far3 (n : Nat) : HtIn := htI { htP htPut 0x3000 d16 with psn := BitVec.ofNat 32 n }
theorem witness_gxht_other : (own (one kM)).hostUp = false ∧ sHost.frameOk (some (1, 0)) = false ∧ sHost.frameOk none = true
    ∧ sHost.datagramOk { iPut with port := 1 } = false ∧ sHost.datagramOk { iPut with sum := 1 } = false ∧ 1024 ≤ (0xFFFF : BitVec 16).toNat
    ∧ (sHost.conn 4).st = .free ∧ ((sHost { kConn with rxNext := 5 }).conn 3).seenAt 1 = none ∧ 2 ^ 31 ≤ psnDist 5 1 ∧ psnDist 5 1 < 2 ^ 32
    ∧ psnDist 0 100000 < 2 ^ 31 ∧ htWindow ≤ psnDist 0 100000
    ∧ ((sHost { kConn with seen := [{ pkt := htP htPut 0x3000 d16, wait := .done, status := 0 }] }).conn 3).seenAt 0 ≠ none
    ∧ (htI (htP htAck 0 d16)).pkt.plen ≠ 48 ∧ (sHost.conn 3).unacked.find? (fun x => x.left) = none ∧ (sHost.conn 3).rtt = none
    ∧ Word.bits (sSent.hostReg .htcfg) 56 4 ≤ ((sSent { kConn with timeouts := 11 }).conn 3).timeouts + 10
    ∧ psnDist 0 1 < htWindow ∧ sSent.suitPaused 1 = false ∧ sSent.hostUp = true ∧ (sHost.conn 3).hb = true ∧ (sHost.conn 4).st ≠ .opened := by
  decide +kernel
theorem test_gxht_duplicate : steps (.gxhtPut iPut) (sHost { kConn with rxNext := 5 }) (fun u => acks u == [0] && Mem.get u.mem 0x3005 == 0) = true
    ∧ steps (.gxhtPut (far3 100000)) sHost (fun u => acks u == [] && Word.bits (u.hostReg .htdrop) 0 16 == 1) = true
    ∧ steps (.gxhtGetreq iGet false) sHost (fun u => Word.bits (u.hostReg .htdrop) 48 16 == 1) = true
    ∧ steps (.gxhtPut { iPut with sum := 1 }) sHost (fun u => Word.bits (u.hostReg .htdrop) 32 16 == 1 && (u.conn 3).rxNext == 0) = true
    ∧ steps (.gxhtAck (htI (htP htAck 0 d16))) sSent (fun u => acks u == [4] && (u.conn 3).unacked.length == 2) = true := by decide +kernel
/-- The twelfth timeout fails a connection without heartbeat; with one, its job stops. -/
theorem test_give_up : steps (.retransmitTimeout 3) (sHost { kConn with hb := false, timeouts := 11, unacked := ((sSent).conn 3).unacked }) (fun u => (u.conn 3).st == .failed) = true
    ∧ steps (.retransmitTimeout 3) (sHost { kConn with timeouts := 11, unacked := ((sSent).conn 3).unacked }) (fun u => (u.job 0).stop == some 0x50) = true := by
  decide +kernel
theorem witness_port : (sHost.modHost (fun h => { h with ptp1 := some 1, ptp2 := some 2, ptp3 := some 3 })).host.ptp3 = some 3
    ∧ sHost.suitPaused 0 = false
    ∧ (({ sHost with host := { sHost.host with paused := [0] } } : State).setReg (.host .priomap) (BitVec.ofNat 64 (2 ^ 12))).suitPaused 0 = true
    ∧ Word.bits ((own (one kM)).hostReg .hpstat) 0 2 = 0 ∧ ({ own (one kM) with boot := { (own (one kM)).boot with powered := true } } : State).boot.powered = true
    ∧ (own (one kM)).excl.contains .host = false
    ∧ Word.bits (((own (one kM)).modReg (.host .hpstat) (fun w => Word.setBits w 0 2 1)).hostReg .hpstat) 0 2 = 1 := by decide +kernel
theorem test_port : steps (.hostLinkLoss (.training none)) { own (one kM) with boot := { (own (one kM)).boot with powered := true } }
      (fun u => Word.bits (u.hostReg .hpstat) 0 2 == 1) = true
    ∧ steps (.hostLinkLoss (.trained 0xFF 2)) ((own (one kM)).modReg (.host .hpstat) (fun w => Word.setBits w 0 2 1)) (fun u => u.hostUp) = true
    ∧ steps (.hostLinkLoss (.trained 0x7F 0)) ((own (one kM)).modReg (.host .hpstat) (fun w => Word.setBits w 0 2 1)) (fun u => !u.hostUp) = true
    ∧ steps (.ptpMessage ⟨(.sync (some 9)), none⟩) sHost (fun u => u.host.ptp1 == some 9 && u.host.out == [.delayReq 0 6 none]) = true
    ∧ steps (.ethernetFrameDrop .fcs) sHost (fun u => u.hostReg .htfcs == 1) = true := by decide +kernel
theorem witness_conn_other : (sHost.modConn 3 (fun k => { k with st := .held })).conn 3 ≠ sHost.conn 3 ∧ sHost.slotOpen 1 = false
    ∧ (openBody 5 0x80).length = 32 ∧ bitsOf (leAt (openBody 3 0x81) 2 1) 1 2 = 0 ∧ (leAt (openBody 3 0x81) 2 1).testBit 7 = true := by decide +kernel
theorem test_conn_other : steps (.connOpen 0) (ask sHost 2 (openBody 3 1)) (fun u => u.host.i3cOut.map (·.body) == [leBytes 4 32]) = true
    ∧ steps (.connOpen 0) (ask sHost 2 (openBody 5 3)) (fun u => u.host.i3cOut.map (·.body) == [leBytes 4 8]) = true
    ∧ steps (.connOpen 0) (ask (sHost { kConn with st := .held }) 2 (openBody 3 0x81)) (fun u => (u.conn 3).st == .opened) = true
    ∧ steps (.connOpen 0) (ask sHost 2 [1]) (fun u => u.host.i3cOut.map (·.body) == [leBytes 4 34]) = true
    ∧ steps (.connClose 0) (ask sHost 3 (leBytes 8 0)) (fun u => u.host.i3cOut.map (·.body) == [leBytes 4 8]) = true
    ∧ steps (.ident 1) (ask sHost 1 []) (fun u => u.host.i3cOut.length == 0) = true := by decide +kernel

/-! ### Jobs and records -/

/-- A device in service with the first quad only. -/
def sServe : State :=
  { State.reset with computeOn := true, boot := { Boot.reset with powered := true, ready := true, step := 15 }, excl := (allQuads.filter (fun q => q != quadOfTile t0)).map .quad }
/-- A manifest for die 0: 1 GiB of DRAM, KSSIZE 16, REQCAP 64. -/
def manB : List Byte :=
  leBytes 8 (1 + 2 ^ 32) ++ leBytes 8 (16 * 2 ^ 29) ++ leBytes 8 (64 * 2 ^ 32) ++ leBytes 8 0 ++ leBytes 8 (1000 + 10 * 2 ^ 32) ++ List.replicate 24 0
def man : Manifest := (manifestOf manB).getD default_man
  where default_man : Manifest := { dies := 0, spades := false, preen := false, irqen := false, dramGib := 0, slotk := 0, potsize := 0, savei := 0, savev := 0, kssize := 0, kittysize := 0, reqcap := 0, cutcfg := 0, sigtimeo := 0, lockways := 0, sigs := [], kids := [], spill := [], lend := [], tables := [] }
def plan0 : AdmitPlan := { granules := [0], cells := [], children := 0, kitty := [0, 0, 0, 0], ledgers := [0, 0x1000, 0x2000, 0x3000], windows := [] }
def sAdm : State := ask sServe 0x10 (0 :: manB)
def served (s : State) : State := s.modHost (fun h => { h with reqs := [] })
theorem witness_admit : manifestLenOk false manB = true ∧ manifestOf (manifestTrim manB) = some man ∧ partSlot man.dies = some 0 ∧ sAdm.inService = true
    ∧ (served sAdm).admitStatus man = 0 ∧ (served sAdm).planOk 0 man plan0 = true := by decide +kernel
/-- A tile suspected of failing refuses the placement, check 3 (R440). -/
theorem witness_admit_refused : ((served sAdm).setReg (.tile t0 .patstat) 1).admitStatus man = 3 := by decide +kernel
def jobIn (st : JobSt) (stop : Option Nat := none) : Job := { Job.reset with st := st, dies := 1, epoch := 4, stop := stop, manifest := manB, plan := plan0 }
def sJob (b : Job) (e : Nat) (body : List Byte) : State := ask { sServe with jobs := [(0, b)] } e body
def startBody : List Byte := leBytes 8 1 ++ leBytes 8 0x200000 ++ leBytes 8 0
theorem witness_job_forms : ({ via := none, suit := 0, endpoint := 0x10, tag := 7, body := startBody } : MgmtReq).lenOk 24 = true
    ∧ leAt startBody 0 1 = 1 ∧ leAt startBody 1 1 = 0 ∧ bytesZero startBody 2 8 = true ∧ (sJob (jobIn .admitted) 0x10 startBody).inService = true
    ∧ ({ via := none, suit := 0, endpoint := 0x12, tag := 7, body := [0, 1] } : MgmtReq).lenOk 2 = true := by decide +kernel
theorem test_start : steps (.jobStart 0) (sJob (jobIn .admitted) 0x10 startBody) (fun u => (u.job 0).st == .running
    && u.tileReg t0 .mjob == BitVec.ofNat 64 (4 + 4 * 2 ^ 8 + 2 ^ 16) && Word.bits (u.tileReg t0 .jptbase) 21 27 == 1) = true := by decide +kernel
theorem test_stop : steps (.jobStop 0) (sJob (jobIn .running) 0x11 [0]) (fun u => (u.job 0).stop == some 0x60 && u.host.i3cOut.length == 1) = true := by decide +kernel
theorem test_reset : steps (.jobResetEnd 0) (sJob (jobIn .stopped) 0x12 [0, 0]) (fun u => (u.job 0).st == .free && (u.job 0).epoch == 4) = true
    ∧ steps (.jobResetRestart 0) (sJob (jobIn .stopped) 0x12 [0, 1]) (fun u => (u.job 0).st == .admitted && (u.job 0).epoch == 5) = true := by decide +kernel
theorem test_halt : steps (.contextHalt 0) (sJob (jobIn .running (some 0x60)) 0 []) (fun u => (u.job 0).st == .stopped && (u.ctx c0).halted) = true := by
  decide +kernel
/-- The chassis FAULT bus in play, with a CHAS barrier of slot 0. -/
def sBus : State :=
  { (sChas .released) with regs := (.stew .cpstat, 2) :: (sChas .released).regs }
theorem witness_bus : sBus.phase = 2 ∧ sBus.cpPulse = false ∧ Word.bit (sBus.stewReg .cpcfg) 2 = true ∧ Word.bit (sBus.stewReg .cpfault) 26 = false
    ∧ sBus.chasCell = some (0, 10) ∧ (sBus.cell 0 10).slot = 0 ∧ (sBus.job 0).st = .running ∧ (sBus.job 0).stop = none := by decide +kernel
theorem test_bus : steps .chassisFault sBus (fun u => (u.job 0).stop == some 0x61) = true := by decide +kernel

def evt (q : Nat) : Event := { time := 0, seq := q, typ := 1, code := 0, sev := 0, unit := 0, detail := [], extra := 0 }
def sEvents : State := ask { sServe with events := [evt 8, evt 7], enext := 9 } 0x20 (leBytes 8 0 ++ leBytes 8 5)
theorem witness_events : ({ via := none, suit := 0, endpoint := 0x20, tag := 7, body := leBytes 8 0 ++ leBytes 8 5 } : MgmtReq).lenOk 16 = true
    ∧ groupAddrs 3 0 ≠ none ∧ groupAddrs 3 12 = none := by decide +kernel
/-- Two events lost before the cursor's first (R556). -/
theorem test_events : steps (.events 0) sEvents (fun u => u.host.i3cOut.map (fun a => (leAt a.body 8 8, leAt a.body 16 4, a.body.length)) == [(9, 2, 84)]
    && Word.bits (u.stewReg .telcur) 0 32 == 9) = true := by decide +kernel
theorem test_jobs : steps (.jobs 0) (sJob (jobIn .running) 0x20 [2]) (fun u => u.host.i3cOut.map (·.body) == [leBytes 4 0 ++ [2, 4, 0] ++ List.replicate 29 0]) = true := by
  decide +kernel
theorem test_journal_read : steps (.journalRead 0) (ask (sServe.journalAdd 6 1 0 0 0 []) 0x21 (leBytes 4 0 ++ leBytes 4 127))
    (fun u => u.host.i3cOut.map (·.body.length) == [48]) = true := by decide +kernel

/-! Requests that are refused, or that no command serves. -/

theorem witness_unasked : Unasked sServe 0 0x10 ∧ Unasked sServe 0 0x20 (fun r => leAt r.body 0 1 == 0) :=
  ⟨fun _ h => by simp [sServe, State.reset, HostSt.reset] at h, fun _ h => by simp [sServe, State.reset, HostSt.reset] at h⟩
theorem witness_refusals : manifestLenOk false [] = false ∧ State.reset.inService = false ∧ manifestOf (manifestTrim (manB.take 63 ++ [1])) = none
    ∧ manifestLenOk false (manB.take 63 ++ [1]) = true
    ∧ ({ via := none, suit := 0, endpoint := 0x10, tag := 7, body := [1, 9] } : MgmtReq).lenOk 24 = false ∧ (sServe.job 0).st = .free
    ∧ ((sJob (jobIn .running) 0x13 [0]).job 0).st = .running ∧ (sServe.job 0).stop.isSome = false ∧ (State.reset).phase ≠ 2
    ∧ ({ sBus with cells := [] } : State).chasCell = none ∧ (served sAdm).planOk 0 man { plan0 with granules := [] } = false := by decide +kernel
theorem test_refusals : steps (.jobStart 0) (sJob (jobIn .running) 0x10 startBody) (fun u => u.host.i3cOut.map (·.body) == [leBytes 4 8]) = true
    ∧ steps (.jobStop 0) (sJob (jobIn .running) 0x11 [9]) (fun u => u.host.i3cOut.map (·.body) == [leBytes 4 34]) = true
    ∧ steps (.jobResetEnd 0) (sJob (jobIn .running) 0x12 [0, 0]) (fun u => u.host.i3cOut.map (·.body) == [leBytes 4 8] && (u.job 0).st == .running) = true
    ∧ steps (.tlbFlush 0) (sJob (jobIn .running) 0x13 [0]) (fun u => u.host.i3cOut.map (·.body) == [leBytes 4 0]) = true
    ∧ steps (.jobAdmit 0 plan0) (sJob (jobIn .free) 0x10 [0]) (fun u => u.host.i3cOut.map (·.body) == [leBytes 4 34]) = true
    ∧ steps .chassisFault { sBus with cells := [] } (fun u => (u.job 0).stop == none) = true
    ∧ steps .faultPulseEnd { sBus with cpPulse := true } (fun u => !u.cpPulse) = true := by decide +kernel
theorem test_records_refused : steps (.events 0) (ask sServe 0x20 [0]) (fun u => u.host.i3cOut.map (·.body) == [leBytes 4 34]) = true
    ∧ steps (.snapshot 0) (ask sServe 0x20 ([1, 0] ++ leBytes 2 3 ++ leBytes 4 12)) (fun u => u.host.i3cOut.map (·.body) == [leBytes 4 1]) = true
    ∧ steps (.journalRead 0) (ask sServe 0x21 (leBytes 4 0 ++ leBytes 4 0)) (fun u => u.host.i3cOut.map (·.body) == [leBytes 4 34]) = true
    ∧ steps (.rplRead 0) (ask sServe 0x22 (leBytes 8 0)) (fun u => u.host.i3cOut.map (·.body.length) == [16]) = true := by decide +kernel

/-! ### Security -/

/-- A request over I3C to a device as delivered, and one with a trailer to an owned device. -/
def sOwned : State := { sServe with sec := { sServe.sec with owned := true, slotEn := 1 } }
def reqOf (e : Nat) (b : List Byte) : MgmtReq := { via := none, suit := 0, endpoint := e, tag := 7, body := b }
def withReq (s : State) (r : MgmtReq) : State := { s with host := { s.host with reqs := [r] } }
theorem witness_formed_unowned (e : Nat) (b : List Byte) : Formed (withReq sServe (reqOf e b)) 0 e (some b.length) (reqOf e b) b (served (withReq sServe (reqOf e b)))
    ∧ Formed (withReq sServe (reqOf e b)) 0 e none (reqOf e b) b (served (withReq sServe (reqOf e b))) := by
  have ha : Asked (withReq sServe (reqOf e b)) 0 e (reqOf e b) (served (withReq sServe (reqOf e b))) := ⟨rfl, rfl, rfl⟩
  exact ⟨⟨ha, .inr rfl, b, rfl, by simp [MgmtReq.lenOk, reqOf], by simp⟩, ⟨ha, .inr rfl, b, rfl, rfl⟩⟩
theorem witness_formed_owned (e : Nat) (b : List Byte) :
    Formed (withReq sOwned (reqOf e (b ++ List.replicate trailerLen 0))) 0 e (some b.length) (reqOf e (b ++ List.replicate trailerLen 0)) b
      (served (withReq sOwned (reqOf e (b ++ List.replicate trailerLen 0)))) := by
  refine ⟨⟨rfl, rfl, rfl⟩, .inl rfl, b, ?_, ?_, ?_⟩
  · simp [State.ownerBody, withReq, sOwned, reqOf]
  · simp [MgmtReq.lenOk, reqOf]
  · simp
/-- The sub-commands of those requests: REVOKE of slot 1 and TAKE. -/
theorem witness_codes : leAt (reqOf 0x32 ([3, 1] ++ List.replicate trailerLen 0)).body 0 1 = 3 ∧ leAt ([3, 1] : List Byte) 1 1 = 1
    ∧ leAt (reqOf 0x32 (1 :: List.replicate 17044 0)).body 0 1 = 1 ∧ sOwned.sec.owned = true ∧ sOwned.slotEnabled 1 = true := by decide +kernel
def writeB : List Byte := [1, 1] ++ List.replicate 6 0 ++ leBytes 4 0x100 ++ [9, 8]
theorem witness_write : bytesZero writeB 2 8 = true ∧ 12 ≤ writeB.length ∧ leAt writeB 8 4 + (writeB.length - 12) ≤ areaSize
    ∧ sServe.sec.running ≠ some 1 := by decide +kernel
theorem test_write : steps (.write 0) (withReq sServe (reqOf 0x31 writeB)) (fun u => u.flashByte 1 0x101 == 8 && u.host.i3cOut.length == 1) = true := by
  decide +kernel
theorem witness_attest : (reqOf 0x30 (List.replicate 48 1)).lenOk 48 = true
    ∧ Word.bit ((sServe.setReg (.stew .secstat) (BitVec.ofNat 64 (2 ^ 13))).stewReg .secstat) 13 = true ∧ sServe.sec.queue.length < 4
    ∧ sServe.boot.ready = true := by decide +kernel
theorem test_rsa : steps .rsaKeyRegenerate sServe (fun u => Word.bit (u.stewReg .secstat) 13) = true := by decide +kernel
/-- MR7 of an unowned device extended over I3C; the record of it. -/
theorem test_measure : steps (.measure 0) (withReq sServe (reqOf 0x32 (7 :: List.replicate 48 5))) (fun u => u.journal.map (fun x => (x.typ, x.code)) == [(10, 7)]) = true := by
  decide +kernel

/-! Requests refused before their authentication, and the states of the other cases. -/

def viaGxht (r : MgmtReq) : MgmtReq := { r with via := some 3 }
theorem witness_refused_requests : sServe.sec.owned = false ∧ (viaGxht (reqOf 0x31 writeB)).via.isSome = true
    ∧ sOwned.ownerBody (reqOf 0x31 [1]) = none ∧ sServe.ownerBody (reqOf 0x32 [4, 0, 0]) = some [4, 0, 0]
    ∧ ({ reqOf 0x32 [4, 0, 0] with body := [4, 0, 0] } : MgmtReq).lenOk 1 = false ∧ (reqOf 0x30 [1]).lenOk 48 = false
    ∧ Word.bit (sServe.stewReg .secstat) 13 = false ∧ sServe.sec.signing = none ∧ State.reset.boot.ready = false
    ∧ ({ sServe.sec with running := some 1 } : SecSt).running = some 1 ∧ sOwned.slotEnabled 2 = false ∧ sOwned.sec.fnddis = false
    ∧ ({ sServe.sec with signing := some (reqOf 0x30 [], []) } : SecSt).signing ≠ none := by decide +kernel
theorem test_refused_requests : steps (.attest 0) (withReq sServe (reqOf 0x30 (List.replicate 48 1))) (fun u => u.host.i3cOut.map (·.body) == [leBytes 4 20]) = true
    ∧ steps (.fndDisable 0) (withReq sServe (reqOf 0x32 [4])) (fun u => u.host.i3cOut.map (·.body) == [leBytes 4 8]) = true
    ∧ steps (.take 0) (withReq sServe (reqOf 0x32 [1, 2])) (fun u => u.host.i3cOut.map (·.body) == [leBytes 4 34] && !u.sec.owned) = true
    ∧ steps (.write 0) (withReq { sServe with sec := { sServe.sec with running := some 1 } } (reqOf 0x31 writeB))
        (fun u => u.host.i3cOut.map (·.body) == [leBytes 4 8]) = true
    ∧ steps .rsaKeyRegenerate State.reset (fun u => !Word.bit (u.stewReg .secstat) 13) = true := by decide +kernel

/-! ### The steward, and patience -/

def mailS (m : Fin 5) (cmd : Nat) (arg : Word) (s : State := sServe) : State := { s with mailbox := [(m, cmd, [arg])] }
def sFolded : State := { sServe with tiles := [(t0, { Tile.reset with folded := true })] }
theorem witness_mail : tileOfOrd? (Word.bits (0x10000 : Word) 0 10) = some t0 ∧ sServe.foldOk t0 = true ∧ sServe.inService = true
    ∧ (sFolded.tile t0).folded = true ∧ unitOf? (Word.bits (0x1002 : Word) 0 16) = some (.stack 2) := by decide +kernel
/-- A monitor flushes the entries of its own slot, and no other's (R43). -/
def sTlb : State := own (one kM (fun T => { T with tlb := [{ slot := 0, giant := false, vpn := 1, pte := 1 }, { slot := 1, giant := false, vpn := 1, pte := 1 }] }))
theorem test_mail_flush : steps .mbTlbFlush (mailS 0 1 0 sTlb) (fun u => u.mailbox == [] && (u.tile t0).tlb.length == 1) = true := by decide +kernel
theorem test_fold : steps .fold (mailS 4 3 0 { sServe with mem := [(sramPa t0 9, 5)] }) (fun u => (u.tile t0).folded && u.mem == []) = true
    ∧ steps .unfold (mailS 4 4 0 sFolded) (fun u => !(u.tile t0).folded) = true := by decide +kernel
def sSitting : State := { sServe with computeOn := false, power := { sServe.power with sitting := true, selfRefresh := true } }
theorem test_sit : steps .sitOut (mailS 4 5 0 sServe) (fun u => u.power.sitting && !u.computeOn) = true
    ∧ steps .sitIn (mailS 4 6 0 sSitting) (fun u => u.computeOn && !u.power.selfRefresh) = true := by decide +kernel
theorem test_excl_clear : steps .exclClear (mailS 4 7 0x1002 { sServe with boot := { sServe.boot with exclFlash := [.stack 2] } })
    (fun u => u.boot.exclFlash == [] && u.journal.map (·.unit) == [0x1002]) = true := by decide +kernel
/-- STEW.IDENT over REG_READ (R569), and PWRCAP written over REG_WRITE. -/
def readB (pa n : Nat) : List Byte := leBytes 8 pa ++ leBytes 2 n ++ List.replicate 6 0
theorem witness_reg : (reqOf 0x40 (readB 0x0300F0000000 1)).lenOk 16 = true ∧ bytesZero (readB 0x0300F0000000 1) 10 16 = true
    ∧ sServe.regStatus 0x0300F0000000 1 false = 0 ∧ sServe.regStatus 0x0300F0000004 1 false = 24 ∧ sServe.locAt 0x0300F0000310 = some (.reg (.stew .pwrcap)) := by
  decide +kernel
theorem test_reg_read : steps (.regRead 0) (ask sServe 0x40 (readB 0x0300F0000000 1)) (fun u => u.host.i3cOut.map (·.body) == [leBytes 8 0 ++ leBytes 8 0x000101B10004CE15]) = true := by
  decide +kernel
theorem test_reg_write : steps (.regWrite 0) (ask sServe 0x41 (readB 0x0300F0000310 1 ++ leBytes 8 3000)) (fun u => u.stewReg .pwrcap == 3000) = true
    ∧ steps (.registerWrite 0x0300F0000310 3000 0xFF) sServe (fun u => u.stewReg .pwrcap == 3000) = true
    ∧ steps (.registerWrite 0x0300F0000310 3000 3) sServe (fun u => u == sServe) = true
    ∧ steps (.registerWrite 0x0300F0000310 5000 0xFF) sServe (fun u => u.stewReg .pwrcap == 4400) = true := by decide +kernel
def sSuspect : State := sServe.setReg (.tile t0 .patstat) 1
theorem witness_suspect : Word.bit (sSuspect.tileReg t0 .patstat) 0 = true ∧ sSuspect.tileExcl t0 = false
    ∧ (∀ j, (sSuspect.job j).st ≠ .running ∨ (sSuspect.job j).dies.testBit t0.die.val = false) := by decide +kernel
theorem witness_patience : (sServe.tile t0).idle = true ∧ (sServe.tile t0).slice = none ∧ Word.bit (sServe.tileReg t0 .patcfg) 0 = true
    ∧ Word.bit (sServe.tileReg t0 .patcfg) 10 = true ∧ passLength 15 = 4096 ∧ Word.bit (sServe.tileReg t0 .patstat) 5 = false := by decide +kernel
def sSlice (k pos : Nat) : State :=
  ({ sServe with tiles := [(t0, { Tile.reset with slice := some k })] } : State).setReg (.tile t0 .patstat) (BitVec.ofNat 64 (pos * 2 ^ 48))
theorem test_slice : steps (.patienceSliceStart t0 2) sServe (fun u => (u.tile t0).slice == some 3) = true
    ∧ steps (.patienceSliceEnd t0 true 0 0 .good) (sSlice 1 4095) (fun u => u.tileReg t0 .patstat == 0x10000 && u.tileReg t0 .patcnt == 1) = true
    ∧ steps (.patienceSliceEnd t0 false 0xABC 0 .good) (sSlice 2 7) (fun u => Word.bit (u.tileReg t0 .patstat) 0 && u.journal.map (·.typ) == [8]) = true := by
  decide +kernel
theorem test_patience_fail : steps (.patienceFail t0) ((own (one kM)).setReg (.tile t0 .patstat) 1) (fun u => (u.job 0).stop == some 0x58) = true := by
  decide +kernel

/-! The other cases: a command behind another, one that names what is not there, and a tile that is due nothing. -/

theorem witness_mail_other : (mailS 4 3 0).mailbox.head? = some (4, 3, [0]) ∧ tileOfOrd? (Word.bits (0x3FF : Word) 0 10) = none
    ∧ State.reset.foldOk t0 = false ∧ State.reset.inService = false ∧ sServe.power.sitting = false ∧ sSitting.power.sitting = true
    ∧ unitOf? (Word.bits (0xFFFF : Word) 0 16) = none ∧ (sServe.job 1).st ≠ .running := by decide +kernel
theorem test_mail_other : steps .unfold (mailS 4 3 0) (fun u => u == mailS 4 3 0) = true
    ∧ steps .fold (mailS 4 3 0x3FF) (fun u => Word.bits (u.stewReg (.mbstat 4)) 8 8 == 34) = true
    ∧ steps .fold (mailS 4 3 0 { sServe with boot := { sServe.boot with ready := false } }) (fun u => Word.bits (u.stewReg (.mbstat 4)) 8 8 == 8) = true
    ∧ steps .mbTlbFlush (mailS 0 1 1 sTlb) (fun u => Word.bits (u.stewReg (.mbstat 0)) 8 8 == 1 && (u.tile t0).tlb.length == 2) = true
    ∧ steps .sitOut (mailS 4 5 0 { sServe with jobs := [(0, jobIn .running)] }) (fun u => Word.bits (u.stewReg (.mbstat 4)) 8 8 == 8 && u.computeOn) = true
    ∧ steps .exclClear (mailS 4 7 0xFFFF) (fun u => Word.bits (u.stewReg (.mbstat 4)) 8 8 == 34) = true := by decide +kernel
theorem witness_reg_other : (reqOf 0x40 [1]).lenOk 16 = false ∧ leAt (readB 0x0300F0000000 0) 8 2 = 0
    ∧ bytesZero (leBytes 8 0 ++ leBytes 2 1 ++ leBytes 6 9) 10 16 = false ∧ State.reset.boot.powered = false ∧ sServe.boot.powered = true
    ∧ (0x020000000000 : BitVec 48).toNat < 0x0300F0000000 ∧ sSitting.computeOn = false := by decide +kernel
theorem test_reg_other : steps (.regRead 0) (ask sServe 0x40 (readB 0x0300F0000004 1)) (fun u => u.host.i3cOut.map (·.body) == [leBytes 4 24]) = true
    ∧ steps (.regRead 0) (ask sServe 0x40 (readB 0x0300F0000000 0)) (fun u => u.host.i3cOut.map (·.body) == [leBytes 4 34]) = true
    ∧ steps (.registerWrite 0x0300F0000310 3000 0xFF) { sServe with boot := { sServe.boot with powered := false } } (fun u => u.stewReg .pwrcap != 3000) = true := by
  decide +kernel
theorem witness_patience_other : Word.bit (sServe.tileReg t0 .patstat) 0 = false ∧ (sServe.tile t0).slice = none ∧ sServe.owner t0 = none
    ∧ Word.bit ((sServe.setReg (.tile t0 .patstat) 32).tileReg t0 .patstat) 5 = true ∧ sServe.tileExcl t0 = false
    ∧ ((sSlice 2 7).tile t0).slice = some 2 ∧ (own (one kM)).owner t0 = some 0 := by decide +kernel
theorem test_patience_other : steps (.patienceSliceStart t0 2) sSuspect (fun u => (u.tile t0).slice == none) = true
    ∧ steps (.patienceFail t0) (own (one kM)) (fun u => (u.job 0).stop == none) = true
    ∧ steps (.patienceStale t0) sServe (fun u => Word.bit (u.tileReg t0 .patstat) 5) = true
    ∧ steps (.tileReset t0) sServe (fun u => u.tiles == sServe.tiles) = true := by decide +kernel

/-! ### Power and temperature -/

theorem witness_power : sServe.boot.powered = true ∧ sServe.boot.mrst = false ∧ Word.bits (sServe.stewReg .pwrcap) 0 13 < (4500 : BitVec 16).toNat
    ∧ (6900 : Nat) / 10 = (railLevels 0).2 ∧ (railLevels 11).2 = 1656 ∧ 3 ≤ sServe.boot.step := by decide +kernel
theorem test_input_warning : steps (.inputWarning 4399) sServe (fun u => u.level == 1 && u.power.causes == 1 && u.journal.map (·.code) == [1]) = true := by decide +kernel
def sStart2 (n : Nat) : State := { State.reset with boot := { Boot.reset with powered := true, active := true, step := n, pgood := true } }
def sCause (c : Nat) : State := sServe.setCauses c
theorem test_severe : steps (.thermalSevere 1030 35) (sCause 4) (fun u => u.level == 2 && Word.bits (u.stewReg .tempstat) 12 6 == 35) = true
    ∧ steps (.throttleRelease 2 969 0) (sCause 12) (fun u => u.level == 0 && u.power.causes == 0) = true
    ∧ steps (.throttleRelease 3 999 0) (sCause 12) (fun u => u.level == 1 && u.power.causes == 4) = true := by decide +kernel
theorem test_force : steps (.throttleForce 2) sServe (fun u => u.level == 2) = true ∧ steps (.throttleForce 3) sServe (fun u => u.level == 0) = true := by decide +kernel
/-- The chassis line read low in play with its function acting, CHIN set. -/
def sPlay : State := { sServe with cpOn := true, regs := [(.stew .cpstat, 2)] }
theorem witness_play : sPlay.phase = 2 ∧ sPlay.cpFunction 6 = true ∧ Word.bit (sPlay.stewReg .thrcfg) 2 = true ∧ sPlay.drivesThrottle = false := by decide +kernel
def sRun : State := { sServe with jobs := [(0, jobIn .running)], mem := [(5, 1)] }
theorem test_power_fail : steps (.powerFail 4099) sRun (fun u => u.power.hold && u.power.selfRefresh && (u.job 0).st == .stopped && u.mem == [(5, 1)]) = true := by
  decide +kernel
def sHold : State := { sServe with power := { sServe.power with hold := true, inputLow := true, holdCause := 2 }, computeOn := false }
theorem witness_hold : sHold.power.hold = true ∧ sHold.power.railDown = [] ∧ sHold.power.critical = false ∧ sHold.boot.active = false := by decide
theorem test_lockout : steps (.undervoltageLockout 3799 false) sRun (fun u => !u.boot.powered && u.power.underVolt && u.mem == []) = true
    ∧ steps (.thermalShutdown 1150 0) sRun (fun u => u.power.thermalOff && u.boot.owed.map (·.1) == [0x33] && u.led == .blinks 4) = true := by decide +kernel
theorem test_rail : steps (.railReset 8 965 false) sRun (fun u => u.power.railDown == [8] && u.power.hold) = true
    ∧ steps (.railReset 11 1655 false) sRun (fun u => !u.boot.powered) = true := by decide +kernel
theorem test_refresh : steps (.stackRefreshHalved 3 851) sServe (fun u => u.power.halved == [3]) = true
    ∧ steps (.stackRefreshHalved 3 850) sServe (fun u => u.power.halved == []) = true := by decide +kernel
theorem test_lock : steps (.lossOfLock true) sRun (fun u => u.boot.step == 2 && u.boot.active && u.mem == [] && !u.computeOn) = true := by decide +kernel

/-! Readings that meet no level, a module that is off, and holds that last. -/

theorem witness_power_other : State.reset.boot.powered = false ∧ (4400 : Nat) ≤ (4400 : BitVec 16).toNat ∧ (railLevels 3).1 ≤ (60000 : BitVec 16).toNat
    ∧ (sCause 4).power.causes.testBit 2 = true ∧ sServe.power.causes.testBit 2 = false ∧ sHold.power.hold = true ∧ sServe.power.hold = false
    ∧ sServe.power.railDown.contains 3 = false ∧ ({ sHold with power := { sHold.power with railDown := [3] } } : State).power.railDown.contains 3 = true
    ∧ State.reset.phase ≠ 2 ∧ (State.reset).boot.step < 3 ∧ (sCause 16).power.causes.testBit 4 = true := by decide +kernel
theorem test_power_noop : steps (.inputWarning 4400) sServe (fun u => u.level == 0 && u.power.causes == 0) = true
    ∧ steps (.powerFail 4099) State.reset (fun u => u == State.reset) = true ∧ steps (.thermalCrit 1049 0) sServe (fun u => u == sServe) = true
    ∧ steps (.powerRecovery 4600) sHold (fun u => u.power.hold) = true ∧ steps (.lossOfLock true) (sStart2 2) (fun u => u.boot.step == 2) = true
    ∧ steps (.throttleRelease 2 970 0) (sCause 4) (fun u => u.power.causes == 4) = true
    ∧ steps .chassisThrottle sPlay (fun u => u.power.causes == 32 && u.power.chassisLow) = true := by decide +kernel
/-- The hold ends with a warm reset once neither the input nor a rail nor the temperature stands against it (R481). -/
theorem test_hold_ends : steps (.powerRecovery 4601) { sHold with power := { sHold.power with selfRefresh := true } } (fun u => !u.power.hold && u.boot.kind == 2 && u.boot.active) = true
    ∧ steps (.railRecovery 3) { sHold with power := { sHold.power with railDown := [3] } } (fun u => u.power.hold && u.power.railDown == []) = true
    ∧ steps (.thermalRecovery 949 0) { sHold with power := { sHold.power with inputLow := false, critical := true } } (fun u => !u.power.hold && !u.power.critical) = true
    ∧ steps .overcurrent sRun (fun u => !u.boot.powered && u.power.overCurrent) = true ∧ steps (.overvoltage 6001 ) sRun (fun u => u.power.overVolt) = true := by
  decide +kernel

/-! ### Starts and resets -/

def sStart (n : Nat) : State := { State.reset with boot := { Boot.reset with powered := true, active := true, step := n, left := [.none], pgood := true } }
theorem test_power_good : steps .inputPowerGood State.reset (fun u => u.boot.active && u.boot.step == 0 && u.boot.kind == 0) = true := by decide +kernel
theorem test_mrst : steps .mrst sServe (fun u => u.boot.mrst && !u.boot.ready) = true
    ∧ steps .mrstRelease (after .mrst sServe) (fun u => u.boot.step == 2 && u.boot.kind == 1) = true := by decide +kernel
theorem witness_warm : sServe.canWarm = true ∧ (List.finRange 4).filterMap (fun j => if (({ sServe with jobs := [(0, { jobIn .stopped with warm := some 1 })] } : State).job j).st
      = .stopped then (({ sServe with jobs := [(0, { jobIn .stopped with warm := some 1 })] } : State).job j).warm else none) = [1]
    ∧ sSuspect.suspects ≠ [] := by decide +kernel
theorem witness_start : (sStart 2).boot.active = true ∧ (sStart 2).boot.mrst = false ∧ (sStart 2).power.hold = false ∧ State.reset.tooHot = false := by decide +kernel
theorem test_early : steps (.bootStep none true 9 0) (sStart 0) (fun u => u.boot.step == 1 && u.boot.early == [(0, 9)]) = true
    ∧ steps (.bootStep none true 9 0) (sStart 2) (fun u => u.boot.step == 3 && u.stewReg .clkstat == 3) = true
    ∧ steps (.bootStep none true 9 0) (sStart 3) (fun u => u.boot.step == 4 && u.journal.map (·.typ) == [2, 1]) = true
    ∧ steps (.bootWatchdog none 9 0) (sStart 0) (fun u => !u.boot.powered && u.boot.latch == 0) = true
    ∧ steps (.bootStep none false 9 0) (sStart 1) (fun u => u.halted && u.boot.latch == 1) = true := by decide +kernel
/-- Two stacks of B06 to go. -/
def sStacks : State := { sStart 6 with boot := { (sStart 6).boot with left := [.stack 0, .stack 1] } }
theorem witness_unit : sStacks.boot.left.contains (.stack 0) = true ∧ sStacks.boot.left.filter (· != .stack 0) ≠ [] ∧ sStacks.unitGood 9 (.stack 0) = true
    ∧ sStacks.unitGood 6 (.stack 0) = false := by decide +kernel
theorem test_unit : steps (.bootWatchdog (some (.stack 0)) 9 0) sStacks (fun u => u.boot.left == [.stack 1] && u.journal.map (fun q => (q.typ, q.code, q.outcome)) == [(2, 6, 4)]) = true := by
  decide +kernel
theorem test_b15 : steps (.bootStep none true 9 0) (sStart 15) (fun u => u.boot.ready && u.phase == 2) = true := by decide +kernel
/-- Seating 2, 10 and 60 kOhm, open, a short, a driven pin, and a value between levels (R514). -/
def pinsS : List PinSense := [2000, 10000, 60000, 300000, 100, 5000, 2000, 2000].map (fun r => { ohms := r, driven := false })
theorem witness_pins : pinsS.length = 8 ∧ (pinsS.map (fun p => match pinClass p with | .ok c => c | .error f => 10 + f)) = [0, 1, 2, 3, 11, 13, 0, 0]
    ∧ (sStart 1).phase = 0 := by decide +kernel
theorem test_seating : steps (.seating pinsS) (sStart 1) (fun u => Word.bits (u.stewReg .seat) 0 8 == 0xE4 && !Word.bit (u.stewReg .seat) 16
    && Word.bits (u.stewReg .cpfault) 12 6 == 1 + 3 * 8) = true := by decide +kernel
theorem test_timeset : (sStart 14).timesetOk = true ∧ steps (.timeset 77) (sStart 14) (fun u => u.now == 77) = true := by decide +kernel

/-! Commands that come where they do not apply, failures of a start, and the last unit of a step. -/

theorem witness_boot_other : sServe.boot.powered = true ∧ ({ State.reset with power := { State.reset.power with thermalOff := true }} : State).boot.powered = false
    ∧ (State.reset.power.underVolt || State.reset.power.overVolt || State.reset.power.overCurrent || State.reset.power.thermalOff) = false
    ∧ ({ State.reset with power := { State.reset.power with underVolt := true }} : State).tooHot = false ∧ sServe.boot.mrst = false
    ∧ State.reset.suspects = [] ∧ State.reset.canWarm = false ∧ (sStart 4).boot.step = 4
    ∧ ({ sStart 2 with boot := { (sStart 2).boot with pgood := false } } : State).boot.pgood = false ∧ State.reset.timesetOk = false
    ∧ ({ sStart 6 with boot := { (sStart 6).boot with left := [] } } : State).boot.left = [] ∧ (sStart 6).boot.failed = false ∧ (sStart 6).boot.restarts < 3 := by
  decide +kernel
theorem test_boot_noop : steps .inputPowerGood sServe (fun u => u == sServe) = true ∧ steps .mrst State.reset (fun u => u == State.reset) = true
    ∧ steps .mrstRelease sServe (fun u => u == sServe) = true ∧ steps .warmReset State.reset (fun u => u == State.reset) = true
    ∧ steps (.bootStep none true 9 0) sServe (fun u => u == sServe) = true ∧ steps (.timeset 7) State.reset (fun u => u.timebase == 0) = true
    ∧ steps (.bootStep none true 9 0) { sStart 2 with boot := { (sStart 2).boot with pgood := false } } (fun u => u.boot.step == 2) = true
    ∧ steps .inputPolarityReversed State.reset (fun u => u.power.reversed && u.led == .blinks 1) = true := by decide +kernel
/-- The warm reset that a slot's power-fail owes, and one for suspect tiles. -/
theorem test_warm : steps .warmReset { sServe with jobs := [(0, { jobIn .stopped with warm := some 1 })] } (fun u => u.boot.kind == 2 && (u.job 0).st == .free && (u.job 0).epoch == 4) = true
    ∧ steps .warmReset sSuspect (fun u => u.boot.kind == 2 && !u.boot.ready) = true := by decide +kernel
/-- B13 of a warm start with a suspect tile's quad under test: a failure leaves its unit out (R463). -/
def sTest : State := { sStart 13 with boot := { (sStart 13).boot with base := 2, left := [.stack 0, .stack 1] } }
theorem test_suspect : steps (.bootWatchdog (some (.stack 0)) 9 0) sTest (fun u => u.boot.left == [.stack 1] && u.excl.contains (exclusionOf (.stack 0))) = true := by decide +kernel

/-! ### The module's lines -/

def sLines (ph : Nat) (on : Bool) : State := { sServe with cpOn := on, regs := [(.stew .cpstat, BitVec.ofNat 64 ph)], timebase := 2000000000 * 2 ^ 16 }
theorem test_lines : steps .callLineEnable (sLines 2 false) (fun u => u.cpOn && Word.bit (u.dieReg 3 .sigstat) 0) = true
    ∧ steps (.callLineStuck 6 6 false) (sLines 2 true) (fun u => !u.cpFunction 6 && Word.bits (u.stewReg .cpfault) 18 3 == 4) = true := by decide +kernel
theorem witness_lines : stuckOk 6 6 (sLines 2 true).phase false = true ∧ (sLines 2 true).readsCp3 = true ∧ (sLines 2 false).phase ≠ 0 := by decide +kernel
/-- A second pulse of 100 ms that ends 40 ns after 2.1 s began 40 ns late. -/
theorem test_second : steps (.secondPulse 100000000) { sLines 2 true with timebase := 2100000040 * 2 ^ 16 } (fun u => Word.bits (u.stewReg .timestat) 0 2 == 3
    && signed 32 (Word.bits (u.stewReg .timestat) 32 32) == -40) = true := by decide +kernel
theorem test_cp3 : steps (.cp3InvalidPulse 500) (sLines 2 true) (fun u => Word.bits (u.stewReg .cpcnt) 48 16 == 1) = true := by decide +kernel
def sI3c : State := { sServe with host := { sServe.host with i3cAddr := some 9, i3cOut := [{ endpoint := 1, tag := 7, body := [3] }] } }
theorem witness_i3c : sI3c.i3cUp = true ∧ sI3c.host.i3cAddr.isSome = true ∧ sServe.host.i3cAddr = none ∧ sServe.i3cUp = true := by decide +kernel
def wr (n : Nat) (b : List Byte) : List Byte := leBytes 2 0x22 ++ leBytes 4 7 ++ leBytes 2 n ++ b
theorem test_write_i3c : steps (.i3cPrivateWrite (wr 1 [5])) sI3c (fun u => u.host.reqs.map (·.body) == [[5]]) = true
    ∧ steps (.i3cPrivateWrite (wr 0x8001 [5])) sI3c (fun u => u.host.part.map (·.body) == some [5]) = true
    ∧ steps (.i3cPrivateWrite (wr 2 [5])) sI3c (fun u => u.host.i3cOut.map (·.body) == [[3], [34, 0, 0, 0]]) = true := by decide +kernel
theorem test_read_i3c : steps .i3cPrivateRead sI3c (fun u => u.host.i3cRead == [1, 0, 7, 0, 0, 0, 1, 0, 3] && u.host.i3cOut == []) = true := by decide +kernel
theorem test_entdaa : steps (.entdaa 5) sServe (fun u => u.host.i3cAddr == some 5) = true
    ∧ steps (.i3cCommonCommand .getpid) sI3c (fun u => u.host.i3cRead == [0xCE, 0x15, 0, 4, 0, 0]) = true := by decide +kernel

/-! A target without an address, requests in parts and over-long, and lines that find nothing. -/

theorem witness_module_other : ¬(sServe.i3cUp = true ∧ sServe.host.i3cAddr.isSome = true) ∧ State.reset.i3cUp = false ∧ (wr 1 [5]).length = 9
    ∧ leAt (wr 0x8001 [5]) 6 2 = 0x8000 + ((wr 0x8001 [5]).length - 8) ∧ 4104 < i3cMax
    ∧ (sLines 0 false).readsCp3 = false ∧ (50000000 : Nat) ≤ (100000000 : BitVec 32).toNat ∧ (1000 : Nat) ≤ (1000 : BitVec 32).toNat
    ∧ State.reset.phase = 0 ∧ (sLines 2 true).cpOn = true
    ∧ Word.bit ((after (.callLineStuck 6 6 false) (sLines 2 true)).stewReg .cpfault) 30 = true ∧ (sLines 2 true).power.ppsOk = false := by decide +kernel
theorem test_module_other : steps (.i3cPrivateWrite (wr 1 [5])) sServe (fun u => u.host.reqs == []) = true
    ∧ steps (.i3cPrivateWrite (wr 1 [6])) (after (.i3cPrivateWrite (wr 0x8001 [5])) sI3c) (fun u => u.host.reqs.map (·.body) == [[5, 6]]) = true
    ∧ steps .i3cPrivateRead sServe (fun u => u.host.i3cRead == []) = true ∧ steps (.entdaa 5) sI3c (fun u => u.host.i3cAddr == some 9) = true
    ∧ steps (.i3cCommonCommand .rstdaa) sI3c (fun u => u.host.i3cAddr == none) = true ∧ steps .callLineEnable (sLines 2 true) (fun u => u.cpOn) = true
    ∧ steps (.secondPulse 100000000) (sLines 0 false) (fun u => !u.power.ppsOk) = true ∧ steps .ppsLoss (sLines 2 true) (fun u => !u.power.ppsOk) = true
    ∧ steps (.callLineStuck 6 6 false) (after (.callLineStuck 6 6 false) (sLines 2 true)) (fun u => Word.bits (u.stewReg .cpfault) 18 3 == 4) = true := by
  decide +kernel

/-! ### Reset and time -/

theorem witness_time : (sServe.setReg (.stew .clkstat) 3).pending = [] ∧ Word.bit ((sServe.setReg (.stew .clkstat) 3).stewReg .clkstat) 0 = true := by decide +kernel
theorem test_idle_step : (match step State.reset with | .next t => t == State.reset | _ => false) = true := by decide +kernel
theorem test_tick : (match step ({ (sServe.setReg (.stew .clkstat) 3).setReg (.stew .timesteer) 0xFFFF with timebase := 100 * 2 ^ 16 }) with
    | .next t => t.timebase == 110 * 2 ^ 16 - 1 | _ => false) = true := by decide +kernel

/-! ### Ill-formed commands, one for each check of `Instr.wf`, and well-formed ones beside them -/

namespace T

/-- A datagram of `n` bytes. -/
def wfHt (n : Nat) : HtIn :=
  { data := List.replicate n 0, peer := { v6 := false, mac := 0, port := 0, ip := 0 }, dst := 0, port := 0, sum := 0, tagged := true, ce := false, sec := none }

/-- A training without a fault, and one with two faults on a lane. -/
def trOk : Training := { faults := [], inverted := 0, order := .same, peerOk := 15, poor := 0, nbrDev := 1, nbrPort := 0, antes := [] }
def trTwice : Training := { trOk with faults := [⟨1, 2, 0⟩, ⟨1, 3, 0⟩] }

end T

open T

/-- A compressed load names x8 to x15, or sp as base (C.LW's register fields); C.LDSP reaches 504, not 508. -/
theorem test_wf_load : (Instr.load c0 1 2 504 .d false .two).wf = true ∧ (Instr.load c0 1 2 508 .d false .two).wf = false
    ∧ (Instr.load c0 1 5 0 .w false .two).wf = false ∧ (Instr.load c0 8 9 0 .w true .two).wf = false := by decide
theorem test_wf_store : (Instr.store c0 8 9 124 .w .two).wf = true ∧ (Instr.store c0 8 9 128 .w .two).wf = false := by decide

/-- C.ADDI has a 6-bit immediate; SLLIW shifts by less than 32. -/
theorem test_wf_compressed : (Instr.integerInstruction c0 (.aluI .addi 5 5 31) .two).wf = true
    ∧ (Instr.integerInstruction c0 (.aluI .addi 5 5 32) .two).wf = false := by decide
theorem test_wf_shift : (Instr.integerInstruction c0 (.shift .slliw 5 5 31) .four).wf = true
    ∧ (Instr.integerInstruction c0 (.shift .slliw 5 5 32) .four).wf = false := by decide

/-- An illegal instruction of 32 bits has 32 bits. -/
theorem test_wf_illegal : (Instr.illegalInstruction c0 0xFFFFFFFF .four).wf = true
    ∧ (Instr.illegalInstruction c0 0x100000000 .four).wf = false := by decide

/-- PLEN gives the payload's length, at most 256 bytes (R70). -/
theorem test_wf_token : (Instr.spawn t0 (tk opSpawn 1 (leBytes 16 1))).wf = true
    ∧ (Instr.spawn t0 (tk opSpawn 1 (leBytes 15 1))).wf = false
    ∧ (Instr.spawn t0 { tk opSpawn 1 [] with plen := 17, payload := List.replicate 272 0 }).wf = false := by decide +kernel

/-- A link packet's body is whole units of 16 bytes, at most 19 (R387). -/
theorem test_wf_packet : (Instr.tokenPacket 0 kTok').wf = true ∧ (Instr.tokenPacket 0 { kTok with body := [1] }).wf = false
    ∧ (Instr.tokenPacket 0 { kTok with body := List.replicate 320 0 }).wf = false := by decide +kernel

/-- A frame that holds a datagram is of at most 9,216 bytes (R410). -/
theorem test_wf_gxht : (wfHt 16).wf = true ∧ (wfHt 9217).wf = false := by decide +kernel

/-- A lane has one fault, with a code of LANEDIAG other than 0 (R405). -/
theorem test_wf_training : (Instr.linkTraining 0 trOk).wf = true ∧ (Instr.linkTraining 0 trTwice).wf = false
    ∧ (Instr.fastRetrain 0 { trOk with faults := [⟨1, 0, 0⟩] }).wf = false := by decide

/-- A plan grants a granule once; a drain names a victim once; the token unit queues 64 sends. -/
theorem test_wf_plan : (Instr.jobAdmit 0 ⟨[1, 2], [], 0, [], [], []⟩).wf = true
    ∧ (Instr.jobAdmit 0 ⟨[1, 1], [], 0, [], [], []⟩).wf = false := by decide
theorem test_wf_drain : (Instr.kittyDrain t0 (.prog 1) [1, 2]).wf = true ∧ (Instr.kittyDrain t0 (.prog 1) [2, 2]).wf = false := by decide
theorem test_wf_send : (Instr.tokenUnitSend t0 63 []).wf = true ∧ (Instr.tokenUnitSend t0 64 []).wf = false := by decide

/-- A register write names an aligned word of register space and all of it (R573). -/
theorem test_wf_register : (Instr.registerWrite 0x030000000008 1 0xFF).wf = true ∧ (Instr.registerWrite 0x030000000004 1 0xFF).wf = false
    ∧ (Instr.registerWrite 0x1000 1 0xFF).wf = false ∧ (Instr.registerWrite 0x030000000008 1 3).wf = false := by decide

/-- Seating probes eight pins (R514). -/
theorem test_wf_seating : (Instr.seating (List.replicate 8 ⟨1000, false⟩)).wf = true ∧ (Instr.seating []).wf = false := by decide

end Sys2Proof.Tests
end

section
/-! PROOF. The instructions whose effect is a trap (R12, R65): what each leaves once its fetch has succeeded. -/

namespace Sys2Proof.Machine

/-! ### Context commands that issue -/

/-- EBREAK with its fetch done: cause 3, its mtval picked by the free value it takes (R65, log 70). -/
theorem exec_ebreak_of_issues {s s' : State} {c : CtxRef} {sz : ISize} (h : Issues s c (isz sz) s') :
    exec (.ebreak c sz) s
      = .next (s'.takeFree.2.exception c 3 (if Word.bit s'.takeFree.1 0 then (s'.ctx c).pc else 0)) :=
  congrArg Host.Outcome.next (State.issue_of h _)

/-- ILLEGAL_INSTRUCTION with its fetch done: the illegal-instruction exception of its bits (R12). -/
theorem exec_illegalInstruction_of_issues {s s' : State} {c : CtxRef} {len : ILen} (bits : Word)
    (h : Issues s c (ilen len) s') :
    exec (.illegalInstruction c bits len) s = .next (s'.illegal c bits.toNat) :=
  congrArg Host.Outcome.next (State.issue_of h _)

/-- INTEGER_INSTRUCTION with its fetch done: the instruction's meaning in the state the fetch leaves (R27). -/
theorem exec_integerInstruction_of_issues {s s' : State} {c : CtxRef} {sz : ISize} (op : IntOp)
    (h : Issues s c (isz sz) s') :
    exec (.integerInstruction c op sz) s = .next (s'.integer c (isz sz) op) :=
  congrArg Host.Outcome.next (State.issue_of h _)

/-! ### The exceptions they take -/

/-- The illegal-instruction exception of a word has that word as its mtval (R12). -/
theorem State.illegal_toNat (s : State) (c : CtxRef) (bits : Word) : s.illegal c bits.toNat = s.exception c 2 bits := by
  rw [State.illegal, BitVec.ofNat_toNat, BitVec.setWidth_eq]

/-- An ECALL of the monitor is cause 11, whatever x17 holds (R65). -/
theorem State.integer_ecall_of_m {s : State} {c : CtxRef} (n : Nat) (h : (s.ctx c).priv = .m) :
    s.integer c n .ecall = s.exception c 11 0 := by
  rw [State.integer, State.ecall, if_pos h]

end Sys2Proof.Machine

namespace Sys2Proof

open Sys2Proof.Machine

/-- Settles O9: each instruction's meaning in the state its fetch leaves is one exception; EBREAK first takes the free
value that decides between the two mtvals. -/
theorem trapInstructions : Obligations.TrapInstructions := by
  unfold Obligations.TrapInstructions
  intro c s s'
  refine ⟨fun sz h => ?ebreak, fun bits len h => ?illegal, fun h hm => ?ecall⟩
  case ebreak =>
    refine ⟨_, s'.free + 1, ?_, exec_ebreak_of_issues h⟩
    split
    · exact .inr rfl
    · exact .inl rfl
  case illegal =>
    rw [exec_illegalInstruction_of_issues bits h, State.illegal_toNat]
  case ecall =>
    rw [exec_integerInstruction_of_issues (sz := .four) .ecall h, State.integer_ecall_of_m _ hm]

end Sys2Proof
end

section
/-! PROOF. What the operations that the gather engine and the intersect unit share keep: memory, streams, registers and the pc. -/

namespace Sys2Proof.Machine

/-! ### Memory -/

/-- A change of a tile that keeps its slots leaves memory alone. -/
theorem State.byte_modTile (s : State) (t : TileId) (f : Tile → Tile) (h : (f (s.tile t)).slots = (s.tile t).slots) (pa : Nat) :
    (s.modTile t f).byte pa = s.byte pa := by
  refine State.byte_congr (State.modTile_excl s t f) (State.modTile_mem s t f) (fun _ => rfl) (fun u => ?_) pa
  by_cases hu : u = t
  · subst hu; simp [h]
  · rw [State.tile_modTile_ne _ _ hu]

/-- A change of a register other than MELDCFG leaves memory alone. -/
theorem State.byte_modReg (s : State) {r : Reg} (f : Word → Word) (h : ∀ u, Reg.tile u .meldcfg ≠ r) (pa : Nat) :
    (s.modReg r f).byte pa = s.byte pa :=
  State.byte_congr (State.modReg_excl s r f) (State.modReg_mem s r f) (fun u => State.reg_modReg_ne s f (h u)) (fun _ => rfl) pa

/-! ### A change of a context -/

@[simp] theorem State.tile_modCtx_streams (s : State) (c : CtxRef) (f : Ctx → Ctx) (u : TileId) :
    ((s.modCtx c f).tile u).streams = (s.tile u).streams := by
  by_cases h : u = c.tile
  · subst h; simp [State.modCtx, Tile.modCtx]
  · rw [State.modCtx, State.tile_modTile_ne _ _ h]

@[simp] theorem State.tile_modCtx_isects (s : State) (c : CtxRef) (f : Ctx → Ctx) (u : TileId) :
    ((s.modCtx c f).tile u).isects = (s.tile u).isects := by
  by_cases h : u = c.tile
  · subst h; simp [State.modCtx, Tile.modCtx]
  · rw [State.modCtx, State.tile_modTile_ne _ _ h]

/-! ### Results and retirement (R31) -/

@[simp] theorem Ctx.retire_pc (k : Ctx) (n : Nat) : (k.retire n).pc = k.pc + BitVec.ofNat 64 n := rfl
@[simp] theorem Ctx.getX_retire (k : Ctx) (n : Nat) (r : XReg) : (k.retire n).getX r = k.getX r := rfl

@[simp] theorem Ctx.setX_pc (k : Ctx) (r : XReg) (v : Word) : (k.setX r v).pc = k.pc := by
  obtain ⟨x, hx⟩ := k.setX_eq r v
  rw [hx]

@[simp] theorem Ctx.wake_pc (k : Ctx) : k.wake.pc = k.pc := by unfold Ctx.wake; split <;> rfl
@[simp] theorem Ctx.getX_wake (k : Ctx) (r : XReg) : k.wake.getX r = k.getX r := by unfold Ctx.wake; split <;> rfl

/-- An instruction that retires with a result leaves it in rd. -/
theorem State.getX_retireX_self (s : State) (c : CtxRef) {rd : XReg} (v : Word) (h : rd ≠ 0) : (s.retireX c rd v).getX c rd = v := by
  simp [State.getX, State.retireX, Ctx.getX_setX_self _ _ h]

@[simp] theorem State.tile_retireX_streams (s : State) (c : CtxRef) (rd : XReg) (v : Word) (u : TileId) :
    ((s.retireX c rd v).tile u).streams = (s.tile u).streams := State.tile_modCtx_streams ..

/-! ### Progress on a tile (R32) -/

/-- A context of a tile that makes progress: one that stalled for want of it may issue its instruction again. -/
def Ctx.resume (k : Ctx) : Ctx := if k.st = .stalled ∧ k.stall = .retry then { k with st := .ready, stall := .none } else k

@[simp] theorem Ctx.resume_pc (k : Ctx) : k.resume.pc = k.pc := by unfold Ctx.resume; split <;> rfl
@[simp] theorem Ctx.getX_resume (k : Ctx) (r : XReg) : k.resume.getX r = k.getX r := by unfold Ctx.resume; split <;> rfl

/-- A table whose values change in place, the default among them. -/
theorem Tab.get_map_snd {κ α : Type} [DecidableEq κ] (f : α → α) {d : α} (hd : f d = d) (k : κ) :
    ∀ t : Tab κ α, Tab.get d (t.map fun p => (p.1, f p.2)) k = f (Tab.get d t k)
  | [] => hd.symm
  | (a, v) :: t => by
    have ih := Tab.get_map_snd f hd k t
    by_cases h : a = k
    · simp [Tab.get, Tab.find?, h]
    · simpa [Tab.get, Tab.find?, h] using ih

theorem State.progress_eq (s : State) (t : TileId) :
    s.progress t = s.modTile t (fun T => { T with ctxs := T.ctxs.map fun p => (p.1, p.2.resume) }) := by
  unfold State.progress Ctx.resume
  congr 1; funext T; congr 1
  refine List.map_congr_left fun p _ => ?_
  split <;> rfl

/-- Progress resumes the contexts of its tile and no other. -/
theorem State.ctx_progress (s : State) (t : TileId) (c : CtxRef) :
    (s.progress t).ctx c = if c.tile = t then (s.ctx c).resume else s.ctx c := by
  rw [State.progress_eq]
  split
  · next h => subst h; simpa [State.ctx, Tile.ctx] using Tab.get_map_snd Ctx.resume rfl c.ctx (s.tile c.tile).ctxs
  · next h => simp [State.ctx, State.tile_modTile_ne _ _ h]

@[simp] theorem State.progress_pc (s : State) (t : TileId) (c : CtxRef) : ((s.progress t).ctx c).pc = (s.ctx c).pc := by
  rw [State.ctx_progress]; split <;> simp

@[simp] theorem State.getX_progress (s : State) (t : TileId) (c : CtxRef) (r : XReg) : (s.progress t).getX c r = s.getX c r := by
  rw [State.getX, State.ctx_progress]; split <;> simp [State.getX]

@[simp] theorem State.tile_progress_streams (s : State) (t : TileId) : ((s.progress t).tile t).streams = (s.tile t).streams := by
  simp [State.progress]

@[simp] theorem State.tile_progress_isects (s : State) (t : TileId) : ((s.progress t).tile t).isects = (s.tile t).isects := by
  simp [State.progress]

theorem State.byte_progress (s : State) (t : TileId) (pa : Nat) : (s.progress t).byte pa = s.byte pa :=
  State.byte_modTile s t _ rfl pa

/-! ### Descriptors at issue (R153, R173) -/

/-- A descriptor that was read is used. -/
theorem State.withDesc_of_read {s s1 : State} {r : DescRead × State} {b : List Byte} (h : r = (.ok b, s1)) (c : CtxRef) (n : Nat)
    (e : Engine) (va : Nat) (f : State → List Byte → State) : s.withDesc c n e va r f = f s1 b := by
  rw [h, State.withDesc]

end Sys2Proof.Machine
end

section
/-! PROOF. The intersect unit (R174, R175): its merge, ISECT at issue and its completion. -/

namespace Sys2Proof.Machine

/-! ### The merge (R174, step 4) -/

/-- Nothing below the first element stands in a sorted list. -/
theorem count_eq_zero_of_lt_head {x b : Nat} {t : List Nat} (hs : (b :: t).Pairwise (· ≤ ·)) (h : x < b) : (b :: t).count x = 0 := by
  refine List.count_eq_zero.mpr fun hm => ?_
  rcases List.mem_cons.mp hm with rfl | hm
  · exact Nat.lt_irrefl _ h
  · exact Nat.not_le_of_lt h (List.rel_of_pairwise_cons hs hm)

/-- The matches stand in the first list in their order. -/
theorem iMerge_sublist : ∀ (n : Nat) (a b : List Nat), (iMerge n a b).Sublist a
  | 0, _, _ => List.nil_sublist _
  | _ + 1, [], _ => List.Sublist.refl _
  | _ + 1, _ :: _, [] => List.nil_sublist _
  | n + 1, a :: s, b :: t => by
    rw [iMerge]
    split
    · exact (iMerge_sublist n s t).cons_cons a
    · split
      · exact (iMerge_sublist n s (b :: t)).cons a
      · exact iMerge_sublist n (a :: s) t

/-- A value counts as many matches as the list that holds it less often (R174). -/
theorem count_iMerge (x : Nat) : ∀ (n : Nat) (a b : List Nat), a.length + b.length ≤ n → a.Pairwise (· ≤ ·) →
    b.Pairwise (· ≤ ·) → (iMerge n a b).count x = min (a.count x) (b.count x)
  | 0, a, b, h, _, _ => by
    rw [List.length_eq_zero_iff.mp (by omega : a.length = 0)]
    simp [iMerge]
  | _ + 1, [], _, _, _, _ => by simp [iMerge]
  | _ + 1, _ :: _, [], _, _, _ => by simp [iMerge]
  | n + 1, a :: s, b :: t, h, ha, hb => by
    simp only [List.length_cons] at h
    rw [iMerge]
    split
    case isTrue hab =>
      subst hab
      simp only [List.count_cons, count_iMerge x n s t (by omega) ha.of_cons hb.of_cons, Nat.add_min_add_right]
    case isFalse hab =>
      split
      case isTrue hlt =>
        rw [count_iMerge x n s (b :: t) (by simp only [List.length_cons]; omega) ha.of_cons hb]
        by_cases hx : x = a
        · rw [hx, count_eq_zero_of_lt_head hb hlt, Nat.min_zero, Nat.min_zero]
        · rw [List.count_cons_of_ne (Ne.symm hx)]
      case isFalse hlt =>
        have hgt : b < a := by omega
        rw [count_iMerge x n (a :: s) t (by simp only [List.length_cons]; omega) ha hb.of_cons]
        by_cases hx : x = b
        · rw [hx, count_eq_zero_of_lt_head ha hgt, Nat.zero_min, Nat.zero_min]
        · rw [List.count_cons_of_ne (a := x) (Ne.symm hx)]

/-! ### ISECT at issue (R174, R175) -/

section
variable {s s' s1 : State} {c : CtxRef} {rd rs1 : XReg} {far b : List Byte}

/-- The ISECT that a context puts into the unit's queue. -/
def State.isectOf (s : State) (c : CtxRef) (rd : XReg) (b : List Byte) : Isect :=
  { ctx := c.ctx, rd := rd, priv := (s.ctx c).priv, seq := (s.tile c.tile).seq, desc := b }

theorem exec_isect_wait (h : Issues s c 4 s') (hw : 9 ≤ (s'.tile c.tile).isects.length ∨ s'.allPerformed c = false) :
    exec (.isect c { rs2 := 0, rs1 := rs1, rd := rd } far) s = .next (s'.stallRetry c) := by
  change execIsect _ _ _ _ = _
  simp [execIsect, State.issue_of h, hw]

/-- ISECT with its descriptor read: a fault for one out of form, else a place in the queue. -/
theorem exec_isect_of_read (h : Issues s c 4 s') (hl : (s'.tile c.tile).isects.length < 9) (hp : s'.allPerformed c = true)
    (hd : s'.readDesc c (s'.getX c rs1).toNat 96 32 far = (.ok b, s1)) :
    exec (.isect c { rs2 := 0, rs1 := rs1, rd := rd } far) s = .next (
      if idOk b = false then
        (s1.raiseTile c.tile .gatherDesc { ctx := some c.ctx, addr := (s1.getX c rs1).toNat, engine := some .isect }).retire c
      else (s1.modTile c.tile (fun T => { T with isects := T.isects ++ [s1.isectOf c rd b], seq := T.seq + 1 })).stallResult c) := by
  change execIsect _ _ _ _ = _
  have hw : ¬ (9 ≤ (s'.tile c.tile).isects.length ∨ s'.allPerformed c = false) := by simp [hl, hp]
  rw [execIsect, State.issue_of h, if_neg (by simp), if_neg hw, State.withDesc_of_read hd]
  rfl

end

/-! ### ISECT_COMPLETE (R174, R175) -/

section
variable {t : TileId} {far : List Byte} {q : Isect} {rest : List Isect} {s : State}

/-- For whom the unit reads. -/
def State.isectBy (s : State) (t : TileId) (q : Isect) : FarBy :=
  { ctx := some q.ctx, seq := q.seq, suit := (s.ctx { tile := t, ctx := q.ctx }).suit }

/-- The unit's running ISECT ended: those behind it go on. -/
def State.isectEnds (s : State) (t : TileId) (rest : List Isect) : State :=
  (s.modTile t (fun T => { T with isects := rest })).progress t

/-- The count of the matches in rd, and the context past its instruction (R175). -/
def State.isectResult (s : State) (t : TileId) (q : Isect) (count : Nat) : State :=
  (s.bumpLo (.tile t .gisect)).modCtx { tile := t, ctx := q.ctx } (fun k => ((k.setX q.rd (BitVec.ofNat 64 count)).retire 4).wake)

@[simp] theorem State.tile_isectEnds_isects (s : State) (t : TileId) (rest : List Isect) : ((s.isectEnds t rest).tile t).isects = rest := by
  simp [State.isectEnds]

@[simp] theorem State.isectEnds_pc (s : State) (t : TileId) (rest : List Isect) (c : CtxRef) :
    ((s.isectEnds t rest).ctx c).pc = (s.ctx c).pc := by
  rw [State.isectEnds, State.progress_pc, State.ctx_modTile]
  rfl

@[simp] theorem State.getX_isectEnds (s : State) (t : TileId) (rest : List Isect) (c : CtxRef) (r : XReg) :
    (s.isectEnds t rest).getX c r = s.getX c r := by
  rw [State.isectEnds, State.getX_progress, State.getX, State.ctx_modTile, State.getX]
  rfl

theorem State.ctx_isectResult (s : State) (t : TileId) (q : Isect) (count : Nat) :
    (s.isectResult t q count).ctx { tile := t, ctx := q.ctx }
      = (((s.ctx { tile := t, ctx := q.ctx }).setX q.rd (BitVec.ofNat 64 count)).retire 4).wake := by
  simp [State.isectResult, State.bumpLo]

theorem exec_isectComplete_engineFault (hq : (s.tile t).isects = q :: rest) (hon : s.computeOn = true) (hs : s.stopping t = false)
    {e : EFault} {g : GS} (hf : (iMatches t q (s.isectBy t q)).run { s := s, far := far } = (.error (.eng e), g)) :
    exec (.isectComplete t far) s
      = .next ((g.s.raiseEngine t (some q.ctx) e { engine := some .isect, ctx := some q.ctx }).isectEnds t rest) := by
  change execIsectComplete _ _ _ = _
  rw [State.isectBy] at hf
  simp [execIsectComplete, hq, hon, hs, hf, State.isectEnds]

theorem exec_isectComplete_jobFault (hq : (s.tile t).isects = q :: rest) (hon : s.computeOn = true) (hs : s.stopping t = false)
    {r : Reason} {v o : Option Nat} {g : GS}
    (hf : (iMatches t q (s.isectBy t q)).run { s := s, far := far } = (.error (.job r v o), g)) :
    exec (.isectComplete t far) s = .next ((g.s.raiseTile t r
      { engine := some .isect, ctx := some q.ctx, addr := v.getD 0, vertex := v, ordinal := o }).isectEnds t rest) := by
  change execIsectComplete _ _ _ = _
  rw [State.isectBy] at hf
  simp [execIsectComplete, hq, hon, hs, hf, State.isectEnds]

theorem exec_isectComplete_written (hq : (s.tile t).isects = q :: rest) (hon : s.computeOn = true) (hs : s.stopping t = false)
    {l : List Nat} {g : GS} {d : Unit} {s2 : State} (hf : (iMatches t q (s.isectBy t q)).run { s := s, far := far } = (.ok l, g))
    (hw : g.s.engineWrite t q.priv (s.isectBy t q) (idOut q.desc) ((l.take (idMax q.desc)).flatMap (leBytes 8)) = (.ok d, s2)) :
    exec (.isectComplete t far) s = .next ((s2.isectResult t q l.length).isectEnds t rest) := by
  change execIsectComplete _ _ _ = _
  rw [State.isectBy] at hf hw
  simp [execIsectComplete, hq, hon, hs, hf, hw, State.isectEnds, State.isectResult]

end

end Sys2Proof.Machine

namespace Sys2Proof

open Sys2Proof.Machine

/-- Settles O33: the merge by induction over its fuel, ISECT and its completion by the outcome of each read and write. -/
theorem isectRuns : Obligations.IsectRuns := by
  unfold Obligations.IsectRuns
  refine ⟨fun a b ha hb => ⟨fun x => count_iMerge x _ a b (Nat.le_refl _) ha hb, ha.sublist (iMerge_sublist _ a b)⟩,
    fun c rd rs1 far s s' h => ⟨exec_isect_wait h, fun b s1 hl hp hd => ⟨fun hbad => ?bad, fun hok => ?queued⟩⟩,
    fun t far q rest s hq hon hs => ⟨fun e g hf => exec_isectComplete_engineFault hq hon hs hf,
      fun r v o g hf => exec_isectComplete_jobFault hq hon hs hf, fun l g d s2 hf hw => ?completes⟩⟩
  case bad => rw [exec_isect_of_read h hl hp hd, if_pos hbad]
  case queued =>
    refine ⟨_, s1.isectOf c rd b, exec_isect_of_read h hl hp hd, ?_⟩
    rw [if_neg (by simp [hok])]
    refine ⟨?_, rfl, rfl, rfl, ?_, ?_⟩
    · simp [State.stallResult]
    · simp [State.stallResult]
    · rw [State.stallResult, State.ctx_modCtx_self, State.ctx_modTile]
      rfl
  case completes =>
    refine ⟨_, exec_isectComplete_written hq hon hs hf hw, State.tile_isectEnds_isects .., fun hrd => ?_, ?_⟩
    · rw [State.getX_isectEnds, State.getX, State.ctx_isectResult, Ctx.getX_wake, Ctx.getX_retire, Ctx.getX_setX_self _ _ hrd]
    · simp [State.ctx_isectResult]

end Sys2Proof
end

section
/-! PROOF. GATHER_RETURN (R155, R159, R181): when a stream takes no step, and what follows one. -/

namespace Sys2Proof.Machine

/-- What a step of a stream leaves: the stream as far as it is then, or the fault of a step that failed (R181). -/
def State.gatherOutcome (t : TileId) (n : Nat) (c : CtxId) (i : FaultInfo) : Except GErr Stream × GS → State
  | (.ok y, g) => ((g.s.modTile t (fun T => { T with streams := Tab.set T.streams n y.ends })).gOut t g.total).progress t
  | (.error (.eng e), g) => g.s.raiseEngine t (some c) e i
  | (.error (.job r v o), g) => g.s.raiseTile t r { i with ctx := some c, addr := v.getD 0, vertex := v, ordinal := o }

section
variable {t : TileId} {n : Nat} {far : List Byte} {x : Stream} {c : CtxId} {s : State}

/-- A stream that is closed, suspended, at its end or without room takes no step (R159, R172, R179). -/
theorem exec_gatherReturn_idle (hx : Tab.find? (s.tile t).streams n = some x)
    (h : x.owner = none ∨ s.computeOn = false ∨ s.stopping t = true ∨ x.fin = true ∨ s.gRoom t x = false) :
    exec (.gatherReturn t n far) s = .next s := by
  change execGatherReturn _ _ _ _ = _
  rw [execGatherReturn, hx]
  cases ho : x.owner with
  | none => simp [ho]
  | some c => simp [ho, h.resolve_left (by simp [ho])]

/-- Every other stream takes its next step. -/
theorem exec_gatherReturn_step (hx : Tab.find? (s.tile t).streams n = some x) (ho : x.owner = some c) (hon : s.computeOn = true)
    (hs : s.stopping t = false) (hf : x.fin = false) (hr : s.gRoom t x = true) :
    exec (.gatherReturn t n far) s = .next (State.gatherOutcome t n c
      { engine := some .gather, stream := some n, vertex := some x.vertex, extra := n }
      ((gStep t x { ctx := some c, seq := x.seq, suit := (s.ctx { tile := t, ctx := c }).suit, stream := n }).run
        { s := s, far := far })) := by
  change execGatherReturn _ _ _ _ = _
  rw [execGatherReturn, hx]
  simp only [ho, hon, hs, hf, hr]
  rfl

/-- Past the last vertex of its range a stream comes to its end, and nothing is read (R155, R179). -/
theorem gStep_rangeEnd (fb : FarBy) (g : GS) (hl : x.inList = false) (hv : gdV1 x.desc ≤ x.vertex) :
    (gStep t x fb).run g = (.ok { x with fin := true }, g) := by
  rw [gStep, if_pos hl, if_pos hv]
  rfl

/-- GOUT's maximum lies outside memory (R177). -/
theorem State.byte_gOut (s : State) (t : TileId) (q pa : Nat) : (s.gOut t q).byte pa = s.byte pa :=
  State.byte_modReg s _ (fun _ => by simp) pa

theorem State.find?_gatherOutcome_ok (i : FaultInfo) (y : Stream) (g : GS) :
    Tab.find? ((State.gatherOutcome t n c i (.ok y, g)).tile t).streams n = some y.ends := by
  simp [State.gatherOutcome, State.gOut]

theorem State.byte_gatherOutcome_ok (i : FaultInfo) (y : Stream) (g : GS) (pa : Nat) :
    (State.gatherOutcome t n c i (.ok y, g)).byte pa = g.s.byte pa := by
  rw [State.gatherOutcome, State.byte_progress, State.byte_gOut, State.byte_modTile]
  rfl

end

end Sys2Proof.Machine

namespace Sys2Proof

open Sys2Proof.Machine

/-- Settles O32: an idle stream keeps the state, and any other one leaves what its step does. -/
theorem gatherReturnAdvances : Obligations.GatherReturnAdvances := by
  unfold Obligations.GatherReturnAdvances
  intro t n far x s hx
  refine ⟨exec_gatherReturn_idle hx, fun c ho hon hs hf hr => ?_⟩
  have taken := exec_gatherReturn_step (far := far) hx ho hon hs hf hr
  refine ⟨fun hl hv => ?rangeEnd, fun y g hstep => ?ok, fun e g hstep => ?engineFault, fun r v o g hstep => ?jobFault⟩
  case rangeEnd =>
    rw [gStep_rangeEnd _ _ hl hv] at taken
    exact ⟨_, taken, State.find?_gatherOutcome_ok .., State.byte_gatherOutcome_ok _ _ _⟩
  case ok => rw [taken, hstep]; rfl
  case engineFault => rw [taken, hstep]; rfl
  case jobFault => rw [taken, hstep]; rfl

end Sys2Proof
end

section
/-! PROOF. The instructions of the gather engine (R154, R160 to R164): GOPEN, GNEXT, GSTAT, GCLOSE and GCLOSE.W in each of their forms. -/

namespace Sys2Proof.Machine

/-! ### Streams of a tile -/

@[simp] theorem State.find?_setStream (s : State) (t : TileId) (n : Nat) (x : Stream) :
    Tab.find? ((s.setStream t n x).tile t).streams n = some x := by
  simp [State.setStream]

@[simp] theorem State.ctx_setStream (s : State) (t : TileId) (n : Nat) (x : Stream) (c : CtxRef) :
    (s.setStream t n x).ctx c = s.ctx c := State.ctx_modTile s t _ rfl c

/-- An aborted stream is gone, or drains while requests of it are in flight (R162). -/
theorem State.find?_abortStream (s : State) (t : TileId) (n : Nat) (x : Stream) :
    Tab.find? ((s.abortStream t n x).tile t).streams n
      = if s.streamOut t n = 0 then none else some { x with owner := none, aborted := true, reqs := [] } := by
  by_cases h : s.streamOut t n = 0 <;> simp [State.abortStream, State.bump, h]

theorem State.ctx_abortStream (s : State) (t : TileId) (n : Nat) (x : Stream) (c : CtxRef) :
    (s.abortStream t n x).ctx c = s.ctx c := by
  simp only [State.abortStream, State.bump, State.ctx_modReg]
  exact State.ctx_modTile s t _ rfl c

/-- The record that GNEXT last returned released (R161). -/
def Stream.release (x : Stream) : Stream := { x with released := x.returned }

/-- The next record returned, its requests settled (R161, R166). -/
def Stream.give (x : Stream) : Stream := { x.release with returned := x.returned + 1, reqs := x.reqs.tail }

/-- Where in the tile's SRAM the next record to be returned lies (R159). -/
def Stream.place (x : Stream) : Nat := gdStageoff x.desc + x.returned % gdRing x.desc * gdRecord x.desc

/-! ### GNEXT (R161) -/

section
variable {s s' : State} {c : CtxRef} {rd rs1 : XReg} {n : Nat} {x : Stream}

/-- The state in which GNEXT has returned a record: the stream past it, and its edge and requests counted (R161, R177). -/
def State.gaveRecord (s : State) (t : TileId) (n : Nat) (x : Stream) : State :=
  (((s.setStream t n x.release).setStream t n x.give).bump t .gedges).bump t .grows (x.reqs.headD 0)

@[simp] theorem State.find?_gaveRecord (s : State) (t : TileId) (n : Nat) (x : Stream) :
    Tab.find? ((s.gaveRecord t n x).tile t).streams n = some x.give := by
  simp [State.gaveRecord, State.bump]

theorem exec_gnext_record (h : Issues s c 4 s') (hx : s'.handle c rs1 = some (n, x)) (he : gdEpath x.desc = false)
    (hr : x.returned < x.delivered) :
    exec (.gnext c { rs2 := 0, rs1 := rs1, rd := rd }) s
      = .next ((s'.gaveRecord c.tile n x).retireX c rd (BitVec.ofNat 64 x.place)) := by
  change execGnext _ _ _ = _
  simp [execGnext, State.issue_of h, hx, he, hr, State.gaveRecord, Stream.release, Stream.give, Stream.place]

/-- At the end GNEXT answers -1 (R161). -/
theorem exec_gnext_end (h : Issues s c 4 s') (hx : s'.handle c rs1 = some (n, x)) (hf : x.fin = true)
    (hr : gdEpath x.desc = true ∨ x.delivered ≤ x.returned) :
    exec (.gnext c { rs2 := 0, rs1 := rs1, rd := rd }) s = .next ((s'.setStream c.tile n x.release).retireX c rd Word.ones) := by
  change execGnext _ _ _ = _
  rcases Bool.eq_false_or_eq_true (gdEpath x.desc) with he | he
  · simp [execGnext, State.issue_of h, hx, he, hf, Stream.release]
  · have hle : x.delivered ≤ x.returned := hr.resolve_left (by simp [he])
    simp [execGnext, State.issue_of h, hx, he, hf, Nat.not_lt.mpr hle, Stream.release]

/-- Short of the end, an edge path answers -2, and so does NOWAIT without a record (R161, R178). -/
theorem exec_gnext_notReady (h : Issues s c 4 s') (hx : s'.handle c rs1 = some (n, x)) (hf : x.fin = false)
    (hr : gdEpath x.desc = true ∨ (x.delivered ≤ x.returned ∧ Word.bit (s'.ctx c).gctl 0 = true)) :
    exec (.gnext c { rs2 := 0, rs1 := rs1, rd := rd }) s
      = .next ((s'.setStream c.tile n x.release).retireX c rd (Word.ones - 1)) := by
  change execGnext _ _ _ = _
  rcases Bool.eq_false_or_eq_true (gdEpath x.desc) with he | he
  · simp [execGnext, State.issue_of h, hx, he, hf, Stream.release]
  · obtain ⟨hle, hw⟩ := hr.resolve_left (by simp [he])
    simp [execGnext, State.issue_of h, hx, he, hf, hw, Nat.not_lt.mpr hle, Stream.release]

theorem exec_gnext_wait (h : Issues s c 4 s') (hx : s'.handle c rs1 = some (n, x)) (hf : x.fin = false)
    (he : gdEpath x.desc = false) (hle : x.delivered ≤ x.returned) (hw : Word.bit (s'.ctx c).gctl 0 = false) :
    exec (.gnext c { rs2 := 0, rs1 := rs1, rd := rd }) s = .next ((s'.setStream c.tile n x.release).stallRetry c) := by
  change execGnext _ _ _ = _
  simp [execGnext, State.issue_of h, hx, he, hf, hw, Nat.not_lt.mpr hle, Stream.release]

/-! ### GSTAT, GCLOSE and GCLOSE.W (R162, R164) -/

theorem exec_gstat_of_handle (h : Issues s c 4 s') (hx : s'.handle c rs1 = some (n, x)) :
    exec (.gstat c { rs2 := 0, rs1 := rs1, rd := rd }) s = .next (s'.retireX c rd (gstreamWord x (s'.streamOut c.tile n))) := by
  change execGstat _ _ _ = _
  simp [execGstat, State.issue_of h, hx]

/-- The state in which a context has closed a stream. -/
def State.closes (s : State) (c : CtxRef) (n : Nat) (x : Stream) : State := ((s.abortStream c.tile n x).retire c).progress c.tile

theorem exec_gclose_of_handle (h : Issues s c 4 s') (hx : s'.handle c rs1 = some (n, x)) :
    exec (.gclose c { rs2 := 0, rs1 := rs1, rd := 0 }) s = .next (s'.closes c n x) := by
  change execGclose _ _ _ = _
  simp [execGclose, State.issue_of h, hx, State.closes]

theorem exec_gcloseW_closes (h : Issues s c 4 s') (hx : s'.handle c rs1 = some (n, x)) (hr : gdEpath x.desc = false ∨ x.fin = true) :
    exec (.gcloseW c { rs2 := 0, rs1 := rs1, rd := 0 }) s = .next (s'.closes c n x) := by
  change execGcloseW _ _ _ = _
  rcases hr with he | hf
  · simp [execGcloseW, State.issue_of h, hx, he, State.closes]
  · simp [execGcloseW, State.issue_of h, hx, hf, State.closes]

theorem exec_gcloseW_drains (h : Issues s c 4 s') (hx : s'.handle c rs1 = some (n, x)) (he : gdEpath x.desc = true)
    (hf : x.fin = false) :
    exec (.gcloseW c { rs2 := 0, rs1 := rs1, rd := 0 }) s
      = .next ((s'.setStream c.tile n { x with drain := true }).stallRetry c) := by
  change execGcloseW _ _ _ = _
  simp [execGcloseW, State.issue_of h, hx, he, hf]

@[simp] theorem State.closes_pc (s : State) (c : CtxRef) (n : Nat) (x : Stream) : ((s.closes c n x).ctx c).pc = (s.ctx c).pc + 4 := by
  simp [State.closes, State.retire, State.ctx_abortStream]

@[simp] theorem State.getX_closes (s : State) (c : CtxRef) (n : Nat) (x : Stream) (r : XReg) :
    (s.closes c n x).getX c r = s.getX c r := by
  rw [State.closes, State.getX_progress]
  simp [State.retire, State.getX, State.ctx_abortStream]

theorem State.find?_closes (s : State) (c : CtxRef) (n : Nat) (x : Stream) :
    Tab.find? ((s.closes c n x).tile c.tile).streams n
      = if s.streamOut c.tile n = 0 then none else some { x with owner := none, aborted := true, reqs := [] } := by
  rw [State.closes, State.tile_progress_streams, State.retire, State.tile_modCtx_streams, State.find?_abortStream]

/-! ### A handle that the task does not hold (R163) -/

theorem exec_gnext_noHandle (h : Issues s c 4 s') (hx : s'.handle c rs1 = none) :
    exec (.gnext c { rs2 := 0, rs1 := rs1, rd := rd }) s = .next (s'.illegal c (gWord 0 1 { rs2 := 0, rs1 := rs1, rd := rd })) := by
  change execGnext _ _ _ = _
  simp [execGnext, State.issue_of h, hx]

theorem exec_gclose_noHandle (h : Issues s c 4 s') (hx : s'.handle c rs1 = none) :
    exec (.gclose c { rs2 := 0, rs1 := rs1, rd := 0 }) s = .next (s'.illegal c (gWord 0 2 { rs2 := 0, rs1 := rs1, rd := 0 })) := by
  change execGclose _ _ _ = _
  simp [execGclose, State.issue_of h, hx]

theorem exec_gcloseW_noHandle (h : Issues s c 4 s') (hx : s'.handle c rs1 = none) :
    exec (.gcloseW c { rs2 := 0, rs1 := rs1, rd := 0 }) s = .next (s'.illegal c (gWord 0 3 { rs2 := 0, rs1 := rs1, rd := 0 })) := by
  change execGcloseW _ _ _ = _
  simp [execGcloseW, State.issue_of h, hx]

theorem exec_gstat_noHandle (h : Issues s c 4 s') (hx : s'.handle c rs1 = none) :
    exec (.gstat c { rs2 := 0, rs1 := rs1, rd := rd }) s = .next (s'.illegal c (gWord 0 4 { rs2 := 0, rs1 := rs1, rd := rd })) := by
  change execGstat _ _ _ = _
  simp [execGstat, State.issue_of h, hx]

end

/-! ### GOPEN (R154) -/

section
variable {s s' s1 s2 : State} {c : CtxRef} {rd rs1 : XReg} {n : Nat} {far b xf : List Byte}

/-- How many streams a context holds. -/
def State.streamsHeld (s : State) (c : CtxRef) : Nat := ((s.tile c.tile).streams.filter (fun p => p.2.owner == some c.ctx)).length

/-- GOPEN of a descriptor out of form: its fault raised, and the instruction retired (R154, R181). -/
def State.gopenBad (s : State) (c : CtxRef) (va n : Nat) : State :=
  (s.raiseTile c.tile .gatherDesc
    { ctx := some c.ctx, addr := va, extra := n, engine := some .gather, stream := some n }).retire c

/-- The edge transform of a stream read, where its descriptor has one (R171, R264). -/
def State.readXform (s : State) (c : CtxRef) (b far : List Byte) : DescRead × State :=
  if gdEpath b && gdPot b then s.readDesc c (gdXform b) 64 64 (far.drop 160) else (.ok [], s)

/-- A stream as a context opens it: at the first vertex of its range, with the task's identity (R154). -/
def State.streamOf (s : State) (c : CtxRef) (b xf : List Byte) : Stream :=
  { desc := b, xf := xf, owner := some c.ctx, handler := (s.ctx c).inIrq, seq := (s.tile c.tile).seq, priv := (s.ctx c).priv,
    vertex := gdV0 b, inList := false, cur := 0, stop := 0, idx := 0, first := false,
    fin := decide (gdV1 b ≤ gdV0 b), drain := false, delivered := 0, returned := 0, released := 0, reqs := [] }

/-- The state in which a context has opened stream `n`: the free choice of its number taken, and the handle in rd (R154, log 22). -/
def State.opens (s : State) (c : CtxRef) (rd : XReg) (n : Nat) (x : Stream) : State :=
  (({ s with free := s.free + 1 } : State).setStream c.tile n x).retireX c rd (BitVec.ofNat 64 n)

theorem exec_gopen_wait (h : Issues s c 4 s') (hp : s'.allPerformed c = false) :
    exec (.gopen c { rs2 := 0, rs1 := rs1, rd := rd } far) s = .next (s'.stallRetry c) := by
  change execGopen _ _ _ _ = _
  simp [execGopen, State.issue_of h, hp]

theorem exec_gopen_full (h : Issues s c 4 s') (hp : s'.allPerformed c = true)
    (hn : s'.freeStream c.tile = none ∨ 12 ≤ s'.streamsHeld c) :
    exec (.gopen c { rs2 := 0, rs1 := rs1, rd := rd } far) s = .next (s'.retireX c rd Word.ones) := by
  change execGopen _ _ _ _ = _
  cases hs : s'.freeStream c.tile with
  | none => simp [execGopen, State.issue_of h, hp, hs]
  | some n =>
    have hm : 12 ≤ s'.streamsHeld c := hn.resolve_left (by simp [hs])
    rw [State.streamsHeld] at hm
    simp [execGopen, State.issue_of h, hp, hs, hm]

/-- GOPEN with its stream found and its descriptor read: a fault for one out of form, else the transform is read and judged. -/
theorem exec_gopen_of_read (h : Issues s c 4 s') (hp : s'.allPerformed c = true) (hn : s'.freeStream c.tile = some n)
    (hm : s'.streamsHeld c < 12) (hd : s'.readDesc c (s'.getX c rs1).toNat 160 32 far = (.ok b, s1)) :
    exec (.gopen c { rs2 := 0, rs1 := rs1, rd := rd } far) s = .next (
      if s1.gdOk c.tile b (s1.spadesOk c) = false then s1.gopenBad c (s'.getX c rs1).toNat n
      else s1.withDesc c 4 .gather (gdXform b) (s1.readXform c b far) fun u xf =>
        if (gdEpath b && gdPot b) = true ∧ xfOk xf b = false then u.gopenBad c (s'.getX c rs1).toNat n
        else u.opens c rd n (u.streamOf c b xf)) := by
  change execGopen _ _ _ _ = _
  rw [State.streamsHeld] at hm
  simp only [execGopen, State.issue_of h, hp, hn, if_neg (Nat.not_le.mpr hm), State.withDesc_of_read hd]
  rfl

theorem exec_gopen_badDesc (h : Issues s c 4 s') (hp : s'.allPerformed c = true) (hn : s'.freeStream c.tile = some n)
    (hm : s'.streamsHeld c < 12) (hd : s'.readDesc c (s'.getX c rs1).toNat 160 32 far = (.ok b, s1))
    (hg : s1.gdOk c.tile b (s1.spadesOk c) = false) :
    exec (.gopen c { rs2 := 0, rs1 := rs1, rd := rd } far) s = .next (s1.gopenBad c (s'.getX c rs1).toNat n) := by
  rw [exec_gopen_of_read h hp hn hm hd, if_pos hg]

theorem exec_gopen_badXform (h : Issues s c 4 s') (hp : s'.allPerformed c = true) (hn : s'.freeStream c.tile = some n)
    (hm : s'.streamsHeld c < 12) (hd : s'.readDesc c (s'.getX c rs1).toNat 160 32 far = (.ok b, s1))
    (hg : s1.gdOk c.tile b (s1.spadesOk c) = true) (hx : s1.readXform c b far = (.ok xf, s2))
    (hu : (gdEpath b && gdPot b) = true) (hf : xfOk xf b = false) :
    exec (.gopen c { rs2 := 0, rs1 := rs1, rd := rd } far) s = .next (s2.gopenBad c (s'.getX c rs1).toNat n) := by
  rw [exec_gopen_of_read h hp hn hm hd, if_neg (by simp [hg]), State.withDesc_of_read hx, if_pos ⟨hu, hf⟩]

theorem exec_gopen_opens (h : Issues s c 4 s') (hp : s'.allPerformed c = true) (hn : s'.freeStream c.tile = some n)
    (hm : s'.streamsHeld c < 12) (hd : s'.readDesc c (s'.getX c rs1).toNat 160 32 far = (.ok b, s1))
    (hg : s1.gdOk c.tile b (s1.spadesOk c) = true) (hx : s1.readXform c b far = (.ok xf, s2))
    (hf : (gdEpath b && gdPot b) = true → xfOk xf b = true) :
    exec (.gopen c { rs2 := 0, rs1 := rs1, rd := rd } far) s = .next (s2.opens c rd n (s2.streamOf c b xf)) := by
  have hok : ¬ ((gdEpath b && gdPot b) = true ∧ xfOk xf b = false) := fun ⟨hu, hb⟩ => by simp [hf hu] at hb
  rw [exec_gopen_of_read h hp hn hm hd, if_neg (by simp [hg]), State.withDesc_of_read hx, if_neg hok]

theorem State.find?_opens (s : State) (c : CtxRef) (rd : XReg) (n : Nat) (x : Stream) :
    Tab.find? ((s.opens c rd n x).tile c.tile).streams n = some x := by
  simp [State.opens]

theorem State.byte_opens (s : State) (c : CtxRef) (rd : XReg) (n : Nat) (x : Stream) (pa : Nat) :
    (s.opens c rd n x).byte pa = s.byte pa := by
  rw [State.opens, State.retireX, State.byte_modCtx, State.setStream, State.byte_modTile _ _ _ rfl]
  exact State.byte_congr (s := s) (t := { s with free := s.free + 1 }) rfl rfl (fun _ => rfl) (fun _ => rfl) pa

theorem State.ctx_opens_ne (s : State) {c d : CtxRef} (rd : XReg) (n : Nat) (x : Stream) (h : d ≠ c) :
    (s.opens c rd n x).ctx d = s.ctx d := by
  rw [State.opens, State.retireX, State.ctx_modCtx_ne _ _ h, State.ctx_setStream]
  rfl

end

end Sys2Proof.Machine

namespace Sys2Proof

open Sys2Proof.Machine

/-- Settles O31: each form of each instruction is one of the cases above. GOPEN looks for a free stream before it reads its
descriptor, as the model deduces (log 27). -/
theorem gatherStreams : Obligations.GatherStreams := by
  unfold Obligations.GatherStreams
  intro c rd rs1 s s' h
  refine ⟨fun far hp => exec_gopen_wait h hp, fun far hp hn => exec_gopen_full h hp hn,
    fun far b n s1 hp hn hm hd => ⟨exec_gopen_badDesc h hp hn hm hd, fun xf s2 hg he ho hx hf => ?badXform, fun xf s2 hg hx => ?opens⟩,
    fun hx => ⟨exec_gnext_noHandle h hx, exec_gclose_noHandle h hx, exec_gcloseW_noHandle h hx, exec_gstat_noHandle h hx⟩,
    fun n x hx => ?held⟩
  case badXform =>
    have hu : (gdEpath b && gdPot b) = true := by simp [he, ho]
    exact exec_gopen_badXform h hp hn hm hd hg (by rw [State.readXform, if_pos hu, hx]) hu hf
  case opens =>
    obtain ⟨hread, hok⟩ : s1.readXform c b far = (.ok xf, s2) ∧ ((gdEpath b && gdPot b) = true → xfOk xf b = true) := by
      rcases hx with ⟨he, ho, hx, hf⟩ | ⟨hno, rfl, rfl⟩
      · exact ⟨by simp [State.readXform, he, ho, hx], fun _ => hf⟩
      · have hu : (gdEpath b && gdPot b) = false := Bool.and_eq_false_iff.mpr hno
        simp [State.readXform, hu]
    exact ⟨_, _, exec_gopen_opens h hp hn hm hd hg hread hok, State.find?_opens .., rfl, rfl, rfl, rfl, rfl, rfl, rfl,
      State.getX_retireX_self _ _ _, State.byte_opens _ _ _ _ _, fun d => State.ctx_opens_ne _ _ _ _⟩
  case held =>
    have closed := And.intro (s'.closes_pc c n x) (And.intro (s'.getX_closes c n x) (s'.find?_closes c n x))
    refine ⟨fun he hr => ⟨_, x.give, exec_gnext_record h hx he hr, ?_, rfl, rfl, rfl, State.getX_retireX_self _ _ _⟩,
      fun hf hr => ⟨_, exec_gnext_end h hx hf hr, State.getX_retireX_self _ _ _⟩,
      fun hf hr => ⟨_, exec_gnext_notReady h hx hf hr, State.getX_retireX_self _ _ _⟩,
      fun hf he hr hw => exec_gnext_wait h hx hf he hr hw, exec_gstat_of_handle h hx,
      ⟨_, exec_gclose_of_handle h hx, closed⟩, fun hr => ⟨_, exec_gcloseW_closes h hx hr, closed⟩,
      fun he hf => exec_gcloseW_drains h hx he hf⟩
    rw [State.tile_retireX_streams, State.find?_gaveRecord]

end Sys2Proof
end

section
/-! PROOF. A pass in INT8 (R230, R233): its four groups add, modulo 2^32, the dot product of a row of A and a column of B. -/

namespace Sys2Proof.Machine

/-! ### Two's complement, modulo its range -/

theorem unsigned_cast (n : Nat) (i : Int) : ((unsigned n i : Nat) : Int) = i % (2 ^ n : Nat) :=
  Int.toNat_of_nonneg (Int.emod_nonneg i (Int.natCast_ne_zero.mpr (Nat.ne_of_gt (Nat.two_pow_pos n))))

theorem unsigned_lt (n : Nat) (i : Int) : unsigned n i < 2 ^ n := by
  have hlt : i % (2 ^ n : Nat) < (2 ^ n : Nat) := Int.emod_lt_of_pos i (Int.natCast_pos.mpr (Nat.two_pow_pos n))
  rw [← unsigned_cast] at hlt
  exact Int.ofNat_lt.mp hlt

/-- Reading a field as two's complement changes it by a multiple of its range. -/
theorem signed_emod (n x : Nat) : signed n x % (2 ^ n : Nat) = (x : Int) % (2 ^ n : Nat) := by
  by_cases hn : n = 0
  · rw [hn, Nat.pow_zero, Int.natCast_one, Int.emod_one, Int.emod_one]
  · by_cases hx : x % 2 ^ n < 2 ^ (n - 1)
    · simp only [signed, if_neg hn, if_pos hx, Int.natCast_emod, Int.emod_emod]
    · simp only [signed, if_neg hn, if_neg hx, Int.natCast_emod, Int.sub_emod_right, Int.emod_emod]

/-! ### The groups of a pass -/

/-- The product at depth k of row m of A and column n of B, both dense INT8 images (R218). -/
def int8Product (a b : Img) (m n k : Nat) : Int := signed 8 (a (m * 64 + k)) * signed 8 (b (n * 64 + k))

/-- The products of group g added up: depths 16 g to 16 g + 15 (R230). -/
def int8GroupSum (a b : Img) (m n g : Nat) : Int := ((List.range 16).map fun i => int8Product a b m n (16 * g + i)).sum

/-- Group g of a pass in INT8 promoted into an element (R233): what `intPass` does for each of its groups. -/
def intPromote (cfg : Word) (a b : Img) (m n : Nat) (e : AccElem) (g : Nat) : AccElem :=
  let y := signed 32 e.hi + (groupPairs cfg a b m n g).foldl (fun s p => s + signed 8 p.1 * signed 8 p.2) 0
  { e with hi := unsigned 32 y,
           flags := e.flags ||| (if y < intLo 32 true ∨ intHi 32 true < y then 2 ^ 45 else 0) }

theorem intPass_eq_foldl (cfg : Word) (a b : Img) (m n : Nat) (e : AccElem) :
    intPass cfg a b m n e = (List.range 4).foldl (intPromote cfg a b m n) e := rfl

/-- Left to right from 0, as the model adds products, gives the sum of the list. -/
theorem foldl_add_zero {α : Type} (f : α → Int) (l : List α) : l.foldl (fun z x => z + f x) 0 = (l.map f).sum := by
  rw [List.sum_eq_foldl, List.foldl_map]

theorem sum_flatMap {α : Type} (f : α → List Int) (l : List α) : (l.flatMap f).sum = (l.map fun x => (f x).sum).sum := by
  induction l with
  | nil => rfl
  | cons x l ih => rw [List.flatMap_cons, List.sum_append_int, ih, List.map_cons, List.sum_cons]

/-- The four groups of sixteen hold each of the 64 products once. -/
theorem sum_int8GroupSum (a b : Img) (m n : Nat) :
    ((List.range 4).map (int8GroupSum a b m n)).sum = ((List.range 64).map (int8Product a b m n)).sum := by
  have hdepths : List.range 64 = (List.range 4).flatMap fun g => (List.range 16).map fun i => 16 * g + i := by decide
  rw [hdepths, List.map_flatMap, sum_flatMap]
  simp only [List.map_map]
  rfl

section
variable {cfg : Word} (hA : mxA cfg = 5) (hB : mxB cfg = 5) (hsparse : mxSparse cfg = false) (hsplit : mxSplit cfg = false)
include hA hB hsparse hsplit

theorem groupPairs_int8 (a b : Img) (m n g : Nat) :
    groupPairs cfg a b m n g = (List.range 16).map fun i => (a (m * 64 + (16 * g + i)), b (n * 64 + (16 * g + i))) := by
  have hdense (i : Img) (row k : Nat) : i.dense 5 false row k = i (row * 64 + k) := rfl
  simp only [groupPairs, hA, hB, hsparse, hsplit, hdense, Bool.false_eq_true, if_false]

theorem intPromote_hi (a b : Img) (m n : Nat) (e : AccElem) (g : Nat) :
    ((intPromote cfg a b m n e g).hi : Int) = ((e.hi : Int) + int8GroupSum a b m n g) % (2 ^ 32 : Nat) := by
  have hgroup : (groupPairs cfg a b m n g).foldl (fun s p => s + signed 8 p.1 * signed 8 p.2) 0 = int8GroupSum a b m n g := by
    rw [groupPairs_int8 hA hB hsparse hsplit, List.foldl_map]
    exact foldl_add_zero (fun i => int8Product a b m n (16 * g + i)) _
  rw [intPromote, unsigned_cast, hgroup, Int.add_emod, signed_emod, ← Int.add_emod]

/-- Promoting any list of groups adds their sums to hi, modulo 2^32. -/
theorem foldl_intPromote_hi (a b : Img) (m n : Nat) (gs : List Nat) (e : AccElem) (he : e.hi < 2 ^ 32) :
    ((gs.foldl (intPromote cfg a b m n) e).hi : Int) = ((e.hi : Int) + (gs.map (int8GroupSum a b m n)).sum) % (2 ^ 32 : Nat) := by
  induction gs generalizing e with
  | nil =>
    rw [List.foldl_nil, List.map_nil, List.sum_nil, Int.add_zero]
    exact (Int.emod_eq_of_lt (Int.natCast_nonneg e.hi) (Int.ofNat_lt.mpr he)).symm
  | cons g gs ih =>
    have hlt : (intPromote cfg a b m n e g).hi < 2 ^ 32 := unsigned_lt 32 _
    rw [List.foldl_cons, ih _ hlt, intPromote_hi hA hB hsparse hsplit, Int.emod_add_emod, List.map_cons, List.sum_cons, Int.add_assoc]

end

/-- No group promoted in INT8 touches the compensation word. -/
theorem foldl_intPromote_lo (cfg : Word) (a b : Img) (m n : Nat) (gs : List Nat) (e : AccElem) :
    (gs.foldl (intPromote cfg a b m n) e).lo = e.lo := by
  induction gs generalizing e with
  | nil => rfl
  | cons g gs ih => exact ih (intPromote cfg a b m n e g)

end Sys2Proof.Machine

namespace Sys2Proof

open Sys2Proof.Machine

/-- Settles O38: the four groups of the pass, added one after the other, hold the 64 products of the dot product. -/
theorem integerPassIsExact : Obligations.IntegerPassIsExact := by
  unfold Obligations.IntegerPassIsExact
  intro cfg a b m n e hA hB hsparse hsplit he dot
  have hdot : dot = ((List.range 64).map (int8Product a b m n)).sum := foldl_add_zero (int8Product a b m n) _
  rw [intPass_eq_foldl, hdot, ← sum_int8GroupSum]
  exact ⟨foldl_intPromote_hi hA hB hsparse hsplit a b m n _ e he, foldl_intPromote_lo cfg a b m n _ e⟩

end Sys2Proof
end

section
/-! PROOF. The placement of table rows (R274): a row is found again from its place, and its place lies within its shard. -/

namespace Sys2Proof.Machine

/-! ### Arithmetic of a placement -/

/-- A residue turned forward and back modulo n. -/
theorem mod_turn_back {n a h : Nat} (ha : a < n) (hh : h < n) : ((a + h) % n + n - h) % n = a := by
  by_cases hwrap : a + h < n
  · rw [Nat.mod_eq_of_lt hwrap, show a + h + n - h = a + n by omega, Nat.add_mod_right, Nat.mod_eq_of_lt ha]
  · have hturn : (a + h) % n = a + h - n := by rw [Nat.mod_eq_sub_mod (by omega), Nat.mod_eq_of_lt (by omega)]
    rw [hturn, show a + h - n + n - h = a by omega, Nat.mod_eq_of_lt ha]

theorem div_lt_ceilDiv {i r n : Nat} (hn : 0 < n) (h : i < r) : i / n < ceilDiv r n :=
  calc i / n < i / n + 1 := Nat.lt_succ_self _
    _ = (i + n) / n := (Nat.add_div_right i hn).symm
    _ ≤ (r + n - 1) / n := Nat.div_le_div_right (by omega)

/-! ### The descriptor (R273) -/

theorem tdShards_pos (b : List Byte) : 0 < tdShards b := Nat.succ_pos _

/-- The shards of a table by ranges hold all its rows. -/
theorem tdRows_le_of_ranges {b : List Byte} (h : tdOk b = true) (hr : tdHash b = false) : tdRows b ≤ tdShards b * tdShardRows b := by
  simp only [tdOk, hr, Bool.false_or, Bool.and_eq_true, decide_eq_true_eq] at h
  obtain ⟨⟨⟨⟨⟨⟨⟨⟨_, _, hranges⟩, _⟩, _⟩, _⟩, _⟩, _⟩, _⟩, _⟩ := h
  exact hranges

/-! ### Places (R274) -/

section
variable {b : List Byte} (i : Nat)

theorem tdPlace_of_hash (h : tdHash b = true) :
    tdPlace b i = ((i % tdShards b + tblHash (i / tdShards b) % tdShards b) % tdShards b, i / tdShards b) := if_pos h

theorem tdPlace_of_ranges (h : tdHash b = false) : tdPlace b i = (i / tdShardRows b, i % tdShardRows b) := if_neg (by simp [h])

theorem tdRowOf_of_hash (s l : Nat) (h : tdHash b = true) :
    tdRowOf b s l = l * tdShards b + (s + tdShards b - tblHash l % tdShards b) % tdShards b := if_pos h

theorem tdRowOf_of_ranges (s l : Nat) (h : tdHash b = false) : tdRowOf b s l = s * tdShardRows b + l := if_neg (by simp [h])

end

/-- The row at a row's place is that row, whatever the descriptor: the hash of the local index turns the shard, and is known
again from the place. -/
theorem tdRowOf_tdPlace (b : List Byte) : Function.LeftInverse (fun p => tdRowOf b p.1 p.2) (tdPlace b) := by
  intro i
  cases h : tdHash b with
  | true =>
    have hn := tdShards_pos b
    simp only [tdPlace_of_hash i h, tdRowOf_of_hash _ _ h]
    rw [mod_turn_back (Nat.mod_lt _ hn) (Nat.mod_lt _ hn), Nat.div_add_mod']
  | false => simp only [tdPlace_of_ranges i h, tdRowOf_of_ranges _ _ h, Nat.div_add_mod']

/-- The place of a row of a well-formed table lies in one of its shards, within the shard's local rows. -/
theorem tdPlace_lt {b : List Byte} {i : Nat} (hb : tdOk b = true) (hi : i < tdRows b) :
    (tdPlace b i).1 < tdShards b ∧ (tdPlace b i).2 < tdLocal b := by
  cases h : tdHash b with
  | true =>
    rw [tdPlace_of_hash i h, tdLocal, if_pos h]
    exact ⟨Nat.mod_lt _ (tdShards_pos b), div_lt_ceilDiv (tdShards_pos b) hi⟩
  | false =>
    have hlt : i < tdShards b * tdShardRows b := Nat.lt_of_lt_of_le hi (tdRows_le_of_ranges hb h)
    rw [tdPlace_of_ranges i h, tdLocal, if_neg (by simp [h])]
    exact ⟨Nat.div_lt_of_lt_mul (Nat.mul_comm .. ▸ hlt), Nat.mod_lt _ (Nat.pos_of_lt_mul_left hlt)⟩

end Sys2Proof.Machine

namespace Sys2Proof

open Sys2Proof.Machine

/-- Settles O40: the row of a place inverts the placement, so the placement is injective. -/
theorem tablePlacementInverts : Obligations.TablePlacementInverts := by
  unfold Obligations.TablePlacementInverts
  intro b i hb hi
  obtain ⟨hshard, hlocal⟩ := tdPlace_lt hb hi
  exact ⟨tdRowOf_tdPlace b i, hshard, hlocal, fun k _ hk => (tdRowOf_tdPlace b).injective hk⟩

end Sys2Proof
end

section
/-! PROOF. Work of the table unit as a run: its actions one after the other, and what a state is left as where it ends or stops. -/

namespace Sys2Proof.Machine

/-! ### Runs -/

section
variable {α β : Type} {m : TM α} {f : α → TM β} {g g' : GS}

theorem TM.run_bind_ok {a : α} (h : m.run.run g = (.ok a, g')) : (m >>= f).run.run g = (f a).run.run g' := by
  rw [ExceptT.run_bind, StateT.run_bind, h]
  rfl

theorem TM.run_bind_error {e : TErr} (h : m.run.run g = (.error e, g')) : (m >>= f).run.run g = (.error e, g') := by
  rw [ExceptT.run_bind, StateT.run_bind, h]
  rfl

theorem run_tGet (f : State → α) (g : GS) : (tGet f).run.run g = (.ok (f g.s), g) := rfl

theorem run_tMod (f : State → State) (g : GS) : (tMod f).run.run g = (.ok (), { g with s := f g.s }) := rfl

/-- A job fault that concerns no bag carries the table alone as its further word (R303). -/
theorem run_tFault (x : TC) (r : Reason) (addr : Nat) (g : GS) :
    (tFault x r addr : TM α).run.run g = (.error (.job r addr x.table), g) := by
  rw [tFault, Nat.zero_mul, Nat.add_zero]
  rfl

end

/-! ### What a run leaves -/

section
variable {s : State} {far : List Byte} {m : TM Unit} {stop : State → TErr → State} {g : GS}

theorem State.tRun_of_ok (h : m.run.run { s := s, far := far } = (.ok (), g)) : s.tRun far m stop = g.s := by
  rw [State.tRun, h]

theorem State.tRun_of_error {e : TErr} (h : m.run.run { s := s, far := far } = (.error e, g)) : s.tRun far m stop = stop g.s e := by
  rw [State.tRun, h]

end

/-! ### Registers -/

/-- A register depends on the registers alone. -/
theorem State.reg_congr {s t : State} (h : t.regs = s.regs) (r : Reg) : t.reg r = s.reg r := by
  rw [State.reg, h, State.reg]

end Sys2Proof.Machine
end

section
/-! PROOF. The table instructions (R295, R297, R298): what `State.tblInstr` does at each of its gates, and the commands that end at
once, FLIP and MAPINV (R292). -/

namespace Sys2Proof.Machine

/-! ### The gates of a table instruction -/

/-- Whether an encoding is not reserved and the job's table directory is enabled (R297, R298). -/
def State.tblFormed (s : State) (c : CtxRef) (f : LFields) : Prop :=
  f.rd = 0 ∧ f.rs2 = 0 ∧ f.imm = 0 ∧ Word.bit (s.reg (.emb (etabdir (s.jslot c.tile)))) 63 = true

/-- A table instruction's work once its descriptor is read: the table's descriptor, the check of both, and its own work. -/
def tblWork (x : TC) (good : State → TC → Bool) (work : TC → TM Unit) : TM Unit := do
  let x ← tTable x
  let ok ← tGet (fun s => good s x)
  if ok then work x else tFault x .embDesc x.table

section
variable {x x' : TC} {good : State → TC → Bool} {work : TC → TM Unit} {g0 g g' : GS} {e : TErr}

theorem run_tblWork_of_table_error (h : (tTable x).run.run g0 = (.error e, g)) :
    (tblWork x good work).run.run g0 = (.error e, g) := TM.run_bind_error h

theorem run_tblWork_of_bad (h : (tTable x).run.run g0 = (.ok x', g)) (hbad : good g.s x' = false) :
    (tblWork x good work).run.run g0 = (.error (.job .embDesc x'.table x'.table), g) := by
  rw [tblWork, TM.run_bind_ok h, TM.run_bind_ok (run_tGet _ g), hbad, if_neg Bool.false_ne_true, run_tFault]

theorem run_tblWork_of_good (h : (tTable x).run.run g0 = (.ok x', g)) (hgood : good g.s x' = true) :
    (tblWork x good work).run.run g0 = (work x').run.run g := by
  rw [tblWork, TM.run_bind_ok h, TM.run_bind_ok (run_tGet _ g), hgood, if_pos rfl]

end

/-- For whom the unit works on a context's instruction. -/
def State.tblAsker (s : State) (c : CtxRef) (j : JSlot) (table : Nat) (suit : Suit) : TC :=
  { t := c.tile, j := j, table := table, td := [], suit := suit, asker := some c.ctx, seq := (s.tile c.tile).seq }

section
variable {s s' s1 : State} {c : CtxRef} {f7 : Nat} {f : LFields} {far b : List Byte} {mine : List Byte → Bool}
  {suit : List Byte → Suit} {ok : State → List Byte → List Byte → Bool} {work : TC → List Byte → TM Unit}
  (h : Issues s c 8 s')
include h

theorem State.tblInstr_of_not_formed (hf : ¬ s'.tblFormed c f) :
    s.tblInstr c f7 f far mine suit ok work = s'.exception c 2 (BitVec.ofNat 64 (lWord 3 f7 f)) := by
  have hbad : f.rd ≠ 0 ∨ f.rs2 ≠ 0 ∨ f.imm ≠ 0 ∨ Word.bit (s'.reg (.emb (etabdir (s'.jslot c.tile)))) 63 = false := by
    simpa only [State.tblFormed, Classical.not_and_iff_not_or_not, Bool.not_eq_true] using hf
  rw [State.tblInstr, State.issue_of h]
  exact if_pos hbad

section
variable (hf : s'.tblFormed c f)
include hf

theorem State.tblInstr_of_formed :
    s.tblInstr c f7 f far mine suit ok work = if s'.allPerformed c = false then s'.stallRetry c else
      s'.withDesc c 8 .table (s'.getX c f.rs1).toNat (s'.readDesc c (s'.getX c f.rs1).toNat 64 64 far) fun u b =>
        if mine b = false then s
        else if u.stopping c.tile then u.retire c 8
        else ((u.setTile c.tile (u.tile c.tile).nextSeq.2).tRun (far.drop 64)
          (tblWork (u.tblAsker c (s'.jslot c.tile) (ebTable b) (suit b))
            (fun g x => ok g b x.td && ebDoneOk b (s'.spadesOk c) x.suit) (fun x => work x b))
          (fun s e => s.tblFault c e)).retire c 8 := by
  obtain ⟨hrd, hrs2, himm, hen⟩ := hf
  rw [State.tblInstr, State.issue_of h]
  exact if_neg (by simp [hrd, hrs2, himm, hen])

theorem State.tblInstr_of_waiting (hp : s'.allPerformed c = false) :
    s.tblInstr c f7 f far mine suit ok work = s'.stallRetry c := by
  rw [State.tblInstr_of_formed h hf, if_pos hp]

section
variable (hp : s'.allPerformed c = true) (hd : s'.readDesc c (s'.getX c f.rs1).toNat 64 64 far = (.ok b, s1))
include hp hd

/-- The row of another command does nothing (log 76). -/
theorem State.tblInstr_of_other (hm : mine b = false) : s.tblInstr c f7 f far mine suit ok work = s := by
  rw [State.tblInstr_of_formed h hf, if_neg (by simp [hp]), State.withDesc_of_read hd, if_pos hm]

theorem State.tblInstr_of_stopping (hm : mine b = true) (hs : s1.stopping c.tile = true) :
    s.tblInstr c f7 f far mine suit ok work = s1.retire c 8 := by
  rw [State.tblInstr_of_formed h hf, if_neg (by simp [hp]), State.withDesc_of_read hd, if_neg (by simp [hm]), if_pos hs]

theorem State.tblInstr_of_running (hm : mine b = true) (hs : s1.stopping c.tile = false) :
    s.tblInstr c f7 f far mine suit ok work = ((s1.setTile c.tile (s1.tile c.tile).nextSeq.2).tRun (far.drop 64)
      (tblWork (s1.tblAsker c (s'.jslot c.tile) (ebTable b) (suit b))
        (fun g x => ok g b x.td && ebDoneOk b (s'.spadesOk c) x.suit) (fun x => work x b))
      (fun s e => s.tblFault c e)).retire c 8 := by
  rw [State.tblInstr_of_formed h hf, if_neg (by simp [hp]), State.withDesc_of_read hd, if_neg (by simp [hm]), if_neg (by simp [hs])]

section
variable {x : TC} {g g' : GS} {e : TErr} (hm : mine b = true) (hs : s1.stopping c.tile = false)
include hm hs

theorem State.tblInstr_of_table_error
    (ht : (tTable (s1.tblAsker c (s'.jslot c.tile) (ebTable b) (suit b))).run.run
      { s := s1.setTile c.tile (s1.tile c.tile).nextSeq.2, far := far.drop 64 } = (.error e, g)) :
    s.tblInstr c f7 f far mine suit ok work = (g.s.tblFault c e).retire c 8 := by
  rw [State.tblInstr_of_running h hf hp hd hm hs, State.tRun_of_error (run_tblWork_of_table_error ht)]

section
variable (ht : (tTable (s1.tblAsker c (s'.jslot c.tile) (ebTable b) (suit b))).run.run
    { s := s1.setTile c.tile (s1.tile c.tile).nextSeq.2, far := far.drop 64 } = (.ok x, g))
include ht

theorem State.tblInstr_of_bad_desc (hbad : (ok g.s b x.td && ebDoneOk b (s'.spadesOk c) x.suit) = false) :
    s.tblInstr c f7 f far mine suit ok work = (g.s.tblFault c (.job .embDesc x.table x.table)).retire c 8 := by
  rw [State.tblInstr_of_running h hf hp hd hm hs, State.tRun_of_error (run_tblWork_of_bad ht hbad)]

variable (hgood : (ok g.s b x.td && ebDoneOk b (s'.spadesOk c) x.suit) = true)
include hgood

theorem State.tblInstr_of_work (hw : (work x b).run.run g = (.ok (), g')) :
    s.tblInstr c f7 f far mine suit ok work = g'.s.retire c 8 := by
  rw [State.tblInstr_of_running h hf hp hd hm hs, State.tRun_of_ok ((run_tblWork_of_good ht hgood).trans hw)]

theorem State.tblInstr_of_work_error (hw : (work x b).run.run g = (.error e, g')) :
    s.tblInstr c f7 f far mine suit ok work = (g'.s.tblFault c e).retire c 8 := by
  rw [State.tblInstr_of_running h hf hp hd hm hs, State.tRun_of_error ((run_tblWork_of_good ht hgood).trans hw)]

end
end
end
end
end

/-! ### Commands that are over as they are issued (R292) -/

theorem State.regs_tblDone (s : State) (t : TileId) (en : Bool) (done : Nat) (suit : Suit) :
    (s.tblDone t en done suit).regs = s.regs := by
  unfold State.tblDone; split <;> rfl

theorem State.tbl_tblDone (s : State) (t : TileId) (en : Bool) (done : Nat) (suit : Suit) :
    (s.tblDone t en done suit).tbl = s.tbl := by
  unfold State.tblDone; split <;> rfl

/-- Ending an operation of no messages sends its done token, and keeps the registers and the cached map entries. -/
theorem run_tOver (c : CtxRef) (x : TC) (b : List Byte) (g : GS) :
    ∃ g', (tOver c x b).run.run g = (.ok (), g') ∧ g'.s.regs = g.s.regs ∧ g'.s.tbl.cache = g.s.tbl.cache := by
  refine ⟨_, rfl, ?_, ?_⟩
  · exact State.regs_tblDone ..
  · exact (congrArg TblSt.cache (State.tbl_tblDone _ _ _ _ _)).trans rfl

/-- FLIP's work: the table's epoch on this device advances, and its cached map entries go (R292). -/
def tFlip (c : CtxRef) (b : List Byte) (x : TC) : TM Unit := do
  tMod (fun s => s.modReg (.emb (.epoch x.j (Fin.ofNat 256 x.table))) (fun w => BitVec.ofNat 64 ((w.toNat + 1) % 256)))
  tInvMap x
  tOver c x b

/-- MAPINV's work. -/
def tMapinv (c : CtxRef) (b : List Byte) (x : TC) : TM Unit := do
  tInvMap x
  tOver c x b

theorem run_tMapinv (c : CtxRef) (b : List Byte) (x : TC) (g : GS) :
    ∃ g', (tMapinv c b x).run.run g = (.ok (), g') ∧ g'.s.regs = g.s.regs
      ∧ g'.s.tbl.cache = g.s.tbl.cache.filter (fun q => !(q.1.1 == x.j && q.1.2.1 == x.table)) := by
  obtain ⟨g', hrun, hregs, hcache⟩ := run_tOver c x b _
  exact ⟨g', (TM.run_bind_ok (run_tMod _ g)).trans hrun, hregs, hcache⟩

theorem run_tFlip (c : CtxRef) (b : List Byte) (x : TC) (g : GS) :
    ∃ g', (tFlip c b x).run.run g = (.ok (), g') ∧ g'.s.reg (.emb (.epoch x.j (Fin.ofNat 256 x.table)))
      = BitVec.ofNat 64 (((g.s.reg (.emb (.epoch x.j (Fin.ofNat 256 x.table)))).toNat + 1) % 256) := by
  obtain ⟨g', hrun, hregs, _⟩ := run_tMapinv c b x _
  refine ⟨g', (TM.run_bind_ok (run_tMod _ g)).trans hrun, ?_⟩
  rw [State.reg_congr hregs, State.reg_modReg_self]

/-! ### The rows of the table (R278, R287, R289, R292) -/

/-- What a row says of its instruction: the gates and the work that `State.tblInstr` runs for it, and the work of FLIP and MAPINV. -/
def TableRow (s : State) (c : CtxRef) (f : LFields) (far b : List Byte) :
    Instr × Nat × Suit × (State → List Byte → Bool) × Bool × (TC → TM Unit) → Prop
  | (i, f7, suit, ok, mine, work) =>
    (∃ (mine' : List Byte → Bool) (suit' : List Byte → Suit) (ok' : State → List Byte → List Byte → Bool)
        (work' : TC → List Byte → TM Unit),
      exec i s = .next (s.tblInstr c f7 f far mine' suit' ok' work')
      ∧ suit = suit' b ∧ (ok = fun g td => ok' g b td) ∧ mine = mine' b ∧ work = fun x => work' x b)
    ∧ (i = .flip c f far → work = tFlip c b)
    ∧ (i = .mapinv c f far → work = tMapinv c b)

end Sys2Proof.Machine
end

section
/-! PROOF. The messages of the table unit (R281, R282, R294, R391): when one is taken, dropped or served, and what serving it does. -/

namespace Sys2Proof.Machine

/-! ### A message taken -/

/-- Whether a message is at the unit: its own, or one for this device at a port that is up (R391, R574). -/
def State.tblHere (s : State) (p : PortId) (m : TblMsg) : Prop :=
  s.computeOn = true ∧ (s.tbl.queue.contains m = true ∨ (s.portUp p = true ∧ m.dst = s.devId))

/-- The state with a message taken from the unit's queue or from the ports. -/
def State.tblTake (s : State) (m : TblMsg) : State :=
  if s.tbl.queue.contains m then { s with tbl := { s.tbl with queue := eraseFirst (· == m) s.tbl.queue } } else s.takeTable m

/-- Whether a message is of an earlier rubber, or its job has stopped. -/
def State.tblStale (s : State) (m : TblMsg) : Prop := (s.job m.jslot).epoch ≠ m.epoch ∨ (s.job m.jslot).st = .stopped

/-- The die at which a message is served. -/
def State.tblDie (s : State) (p : PortId) (m : TblMsg) : DieId :=
  if s.tbl.queue.contains m then (match tileOf? m.tile.toNat with | some u => u.die | none => 0) else dieOfPort p

section
variable {s : State} {p : PortId} {m : TblMsg} {pt : BitVec 6} {f : State → Bool → DieId → State}

theorem State.tblRecv_of_absent (h : (tblCode m.body).1 ≠ pt ∨ ¬ s.tblHere p m) : s.tblRecv p m pt f = s := by
  unfold State.tblRecv
  split
  · rfl
  · next hpt =>
    rw [not_or, Classical.not_not, Bool.not_eq_false] at hpt
    obtain ⟨hpt, hon⟩ := hpt
    refine if_pos ?_
    have hno := h.resolve_left (not_not_intro hpt)
    simp only [State.tblHere, hon, true_and, not_or, Bool.not_eq_true, Classical.not_and_iff_not_or_not] at hno
    exact hno

section
variable (hpt : (tblCode m.body).1 = pt) (hh : s.tblHere p m)
include hpt hh

theorem State.tblRecv_of_here :
    s.tblRecv p m pt f =
      if ((s.tblTake m).job m.jslot).epoch ≠ m.epoch ∨ ((s.tblTake m).job m.jslot).st = .stopped then
        if s.tbl.queue.contains m then s.tblTake m
        else (s.tblTake m).modReg (.port p .lkdrop) (fun w => Word.addBits w 32 16 (max (s.tableWaiting m).length 1))
      else if ((s.tblTake m).job m.jslot).stop.isSome then s.tblTake m
      else f (s.tblTake m) (s.tbl.queue.contains m) (s.tblDie p m) := by
  obtain ⟨hon, hat⟩ := hh
  have hgate : ¬ (s.tbl.queue.contains m = false ∧ (s.portUp p = false ∨ m.dst ≠ s.devId)) := by
    rintro ⟨hqueued, hoff⟩
    obtain ⟨hup, hdst⟩ := hat.resolve_left (Bool.eq_false_iff.mp hqueued)
    exact hoff.elim (fun hdown => Bool.eq_false_iff.mp hdown hup) (fun hother => hother hdst)
  rw [State.tblRecv, if_neg (by simp [hpt, hon])]
  exact if_neg hgate

theorem State.tblRecv_of_stale (hs : (s.tblTake m).tblStale m) :
    s.tblRecv p m pt f = if s.tbl.queue.contains m then s.tblTake m
      else (s.tblTake m).modReg (.port p .lkdrop) (fun w => Word.addBits w 32 16 (max (s.tableWaiting m).length 1)) := by
  rw [State.tblRecv_of_here hpt hh]
  exact if_pos hs

section
variable (hs : ¬ (s.tblTake m).tblStale m)
include hs

theorem State.tblRecv_of_stop (hstop : ((s.tblTake m).job m.jslot).stop.isSome = true) : s.tblRecv p m pt f = s.tblTake m := by
  rw [State.tblRecv_of_here hpt hh]
  exact (if_neg hs).trans (if_pos hstop)

theorem State.tblRecv_of_current (hstop : ((s.tblTake m).job m.jslot).stop = none) :
    s.tblRecv p m pt f = f (s.tblTake m) (s.tbl.queue.contains m) (s.tblDie p m) := by
  rw [State.tblRecv_of_here hpt hh]
  exact (if_neg hs).trans (if_neg (by simp [hstop]))

end
end
end

/-! ### Requests and commands served (R294) -/

section
variable {s : State} {p : PortId} {own : Bool} {m : TblMsg} {far : List Byte} {work : TC → TM Unit} {t : TileId}

/-- For whom the unit serves a message. -/
def tblServed (t : TileId) (m : TblMsg) : TC := { t := t, j := m.jslot, table := m.table.toNat, td := [], suit := m.suit }

theorem State.tblServe_of_no_tile (ht : s.jobTile m.jslot = none) :
    s.tblServe p own m far work = s.tblRecvFault p own m (.eng (.xlate 0 .page)) := by
  unfold State.tblServe
  rw [ht]

/-- The epoch checked, then the table's descriptor read, then the work. -/
def tblServeWork (t : TileId) (m : TblMsg) (work : TC → TM Unit) : TM Unit := do
  let e ← tGet (fun s => s.tblEpoch m.jslot m.table.toNat)
  if e ≠ m.tepoch then tFault (tblServed t m) .embEpoch m.table.toNat
  else
    let x ← tTable (tblServed t m)
    work x

theorem State.tblServe_of_tile (ht : s.jobTile m.jslot = some t) :
    s.tblServe p own m far work = s.tRun far (tblServeWork t m work) (fun s e => s.tblRecvFault p own m e) := by
  unfold State.tblServe
  rw [ht]
  rfl

theorem run_tblServeWork_of_epoch {g : GS} (he : g.s.tblEpoch m.jslot m.table.toNat = m.tepoch) :
    (tblServeWork t m work).run.run g = (tTable (tblServed t m) >>= work).run.run g := by
  rw [tblServeWork, TM.run_bind_ok (run_tGet _ g), if_neg (not_not_intro he)]

section
variable (ht : s.jobTile m.jslot = some t)
include ht

theorem State.tblServe_of_other_epoch (he : s.tblEpoch m.jslot m.table.toNat ≠ m.tepoch) :
    s.tblServe p own m far work = s.tblRecvFault p own m (.job .embEpoch m.table.toNat m.table.toNat) := by
  have hrun : (tblServeWork t m work).run.run { s := s, far := far }
      = (.error (.job .embEpoch m.table.toNat (tblServed t m).table), { s := s, far := far }) := by
    rw [tblServeWork, TM.run_bind_ok (run_tGet _ _), if_pos he, run_tFault]
  rw [State.tblServe_of_tile ht, State.tRun_of_error hrun, tblServed]

variable {x : TC} {g g' : GS} {e : TErr} (he : s.tblEpoch m.jslot m.table.toNat = m.tepoch)
include he

theorem State.tblServe_of_table_error (hf : (tTable (tblServed t m)).run.run { s := s, far := far } = (.error e, g)) :
    s.tblServe p own m far work = g.s.tblRecvFault p own m e := by
  rw [State.tblServe_of_tile ht, State.tRun_of_error ((run_tblServeWork_of_epoch he).trans (TM.run_bind_error hf))]

variable (hf : (tTable (tblServed t m)).run.run { s := s, far := far } = (.ok x, g))
include hf

theorem State.tblServe_of_work (hw : (work x).run.run g = (.ok (), g')) : s.tblServe p own m far work = g'.s := by
  rw [State.tblServe_of_tile ht, State.tRun_of_ok ((run_tblServeWork_of_epoch he).trans ((TM.run_bind_ok hf).trans hw))]

theorem State.tblServe_of_work_error (hw : (work x).run.run g = (.error e, g')) :
    s.tblServe p own m far work = g'.s.tblRecvFault p own m e := by
  rw [State.tblServe_of_tile ht, State.tRun_of_error ((run_tblServeWork_of_epoch he).trans ((TM.run_bind_ok hf).trans hw))]

end
end

/-! ### Answers (R282) -/

/-- The operation that an answer belongs to. -/
def State.tblAsked (s : State) (m : TblMsg) : Option TblOp := s.tbl.ops.find? (fun o => o.id == m.rid.toNat && o.slot == m.jslot)

/-- An answer taken by its operation; without one it is dropped. -/
def State.tblAnswered (s : State) (p : PortId) (own : Bool) (m : TblMsg) (far : List Byte) : State :=
  match s.tblAsked m with
  | none => s
  | some o =>
    s.tRun far (tAnswer { t := o.tile, j := o.slot, table := o.table, td := o.tab, suit := o.suit, asker := some o.ctx, seq := o.seq } o m.body)
      (fun s e => s.tblRecvFault p own m e)

theorem State.tblAnswered_of_none {s : State} {m : TblMsg} (h : s.tblAsked m = none) (p : PortId) (own : Bool) (far : List Byte) :
    s.tblAnswered p own m far = s := by
  rw [State.tblAnswered, h]

theorem State.tblAnswered_of_some {s : State} {m : TblMsg} {o : TblOp} (h : s.tblAsked m = some o) (p : PortId) (own : Bool)
    (far : List Byte) : s.tblAnswered p own m far =
      s.tRun far (tAnswer { t := o.tile, j := o.slot, table := o.table, td := o.tab, suit := o.suit, asker := some o.ctx, seq := o.seq } o m.body)
        (fun s e => s.tblRecvFault p own m e) := by
  rw [State.tblAnswered, h]

theorem ptEmbreq_ne_ptEmbrsp : ptEmbreq ≠ ptEmbrsp := by decide
theorem ptEmbcmd_ne_ptEmbrsp : ptEmbcmd ≠ ptEmbrsp := by decide

/-- What a packet type is served by: requests and commands by the shards, answers by their operation. -/
theorem exec_tableMessage {s : State} {p : PortId} {m : TblMsg} {far : List Byte} {q : Instr × BitVec 6}
    (h : q ∈ [(.embreq p m far, ptEmbreq), (.embcmd p m far, ptEmbcmd), (.embrsp p m far, ptEmbrsp)]) :
    ∃ f, exec q.1 s = .next (s.tblRecv p m q.2 f)
      ∧ (q.2 ≠ ptEmbrsp → ∀ u own die, f u own die
        = u.tblServe p own m far (fun x => if q.2 = ptEmbreq then tRequest x die m else tCommand x die m))
      ∧ (q.2 = ptEmbrsp → ∀ u own die, f u own die = u.tblAnswered p own m far) := by
  simp only [List.mem_cons, List.not_mem_nil, or_false] at h
  rcases h with rfl | rfl | rfl
  case inl => exact ⟨_, rfl, fun _ _ _ _ => rfl, fun h => absurd h ptEmbreq_ne_ptEmbrsp⟩
  case inr.inl => exact ⟨_, rfl, fun _ _ _ _ => rfl, fun h => absurd h ptEmbcmd_ne_ptEmbrsp⟩
  case inr.inr => exact ⟨_, rfl, fun h => absurd rfl h, fun _ _ _ _ => rfl⟩

end Sys2Proof.Machine

namespace Sys2Proof

open Sys2Proof.Machine

/-- Settles O39: each instruction passes the gates of `State.tblInstr`, and each message those of `State.tblRecv`; at each gate, and at
the end or failure of the work behind it, one lemma says what the state becomes. -/
theorem tableOperationsRun : Obligations.TableOperationsRun := by
  unfold Obligations.TableOperationsRun
  refine ⟨fun c f far s s' h => ?instructions, fun p m far s => ?messages⟩
  case instructions =>
    intro j cmd rows form b q hq
    have hrow : TableRow s c f far b q := by
      simp only [rows, List.mem_cons, List.not_mem_nil, or_false] at hq
      rcases hq with rfl | rfl | rfl | rfl | rfl | rfl | rfl | rfl | rfl | rfl <;>
        exact ⟨⟨_, _, _, _, rfl, rfl, rfl, rfl, rfl⟩, fun h => by cases h <;> rfl, fun h => by cases h <;> rfl⟩
    obtain ⟨i, f7, suit, ok, mine, work⟩ := q
    obtain ⟨⟨mine, suit, ok, work, hexec, rfl, rfl, rfl, rfl⟩, hflip, hmapinv⟩ := hrow
    dsimp only
    refine ⟨fun hf => ?illegal, fun hf hp => ?waits, fun s1 hf hp hd => ⟨fun hm => ?other, fun hm hs => ?stopping, fun hm hs => ?runs⟩⟩
    case illegal => rw [hexec, State.tblInstr_of_not_formed h hf]
    case waits => rw [hexec, State.tblInstr_of_waiting h hf hp]
    case other => rw [hexec, State.tblInstr_of_other h hf hp hd hm]
    case stopping => rw [hexec, State.tblInstr_of_stopping h hf hp hd hm hs]
    case runs =>
      refine ⟨fun e g ht => ?tableError, fun x g ht => ?table⟩
      case tableError => rw [hexec, State.tblInstr_of_table_error h hf hp hd hm hs ht]
      case table =>
        have worked {g'} (hok) (hw : (work x b).run.run g = (.ok (), g')) : exec i s = .next (g'.s.retire c 8) :=
          hexec.trans (congrArg _ (State.tblInstr_of_work h hf hp hd hm hs ht hok hw))
        simp only [← Bool.and_eq_true, Bool.not_eq_true]
        refine ⟨fun hbad => ?bad, fun e g' hok hw => ?failed, fun g' => worked, fun hok _ hi => ?flip, fun hok _ hi => ?mapinv⟩
        case bad => rw [hexec, State.tblInstr_of_bad_desc h hf hp hd hm hs ht hbad]
        case failed => rw [hexec, State.tblInstr_of_work_error h hf hp hd hm hs ht hok hw]
        case flip =>
          obtain ⟨g', hrun, hepoch⟩ := run_tFlip c b x g
          have hwork : work x b = tFlip c b x := congrFun (hflip hi) x
          exact ⟨_, worked hok (hwork ▸ hrun), hepoch⟩
        case mapinv =>
          obtain ⟨g', hrun, _, hcache⟩ := run_tMapinv c b x g
          have hwork : work x b = tMapinv c b x := congrFun (hmapinv hi) x
          exact ⟨_, worked hok (hwork ▸ hrun), hcache⟩
  case messages =>
    intro own here s1 stale runs die q hq
    obtain ⟨f, hexec, hserve, hanswer⟩ := exec_tableMessage (s := s) hq
    obtain ⟨i, pt⟩ := q
    dsimp only at hserve hanswer ⊢
    refine ⟨fun hno => ?absent, fun hpt hh => ⟨fun hs => ?stale, fun hs hstop => ?stops, fun ⟨hs, hstop⟩ hne => ?served,
      fun ⟨hs, hstop⟩ heq => ?answered⟩⟩
    case absent => rw [hexec, State.tblRecv_of_absent hno]
    case stale => rw [hexec, State.tblRecv_of_stale hpt hh hs]; rfl
    case stops => rw [hexec, State.tblRecv_of_stop hpt hh hs hstop]; rfl
    case served =>
      have hcur : exec i s = .next (s1.tblServe p own m far fun x => if pt = ptEmbreq then tRequest x die m else tCommand x die m) := by
        rw [hexec, State.tblRecv_of_current hpt hh hs hstop, hserve hne]
        rfl
      refine ⟨fun ht => ?noTile, fun t ht => ⟨fun he => ?otherEpoch, fun he => ⟨fun e g hf => ?tableError, fun x g e g' hf hw => ?failed,
        fun x g g' hf hw => ?worked⟩⟩⟩
      case noTile => rw [hcur, State.tblServe_of_no_tile ht]
      case otherEpoch => rw [hcur, State.tblServe_of_other_epoch ht he]
      case tableError => rw [hcur, State.tblServe_of_table_error ht he hf]
      case failed => rw [hcur, State.tblServe_of_work_error ht he hf hw]
      case worked => rw [hcur, State.tblServe_of_work ht he hf hw]
    case answered =>
      have hcur : exec i s = .next (s1.tblAnswered p own m far) := by
        rw [hexec, State.tblRecv_of_current hpt hh hs hstop, hanswer heq]
        rfl
      refine ⟨fun hnone => ?dropped, fun o ho => ⟨fun g' hdone => ?done, fun e g' hdone => ?failed⟩⟩
      case dropped => rw [hcur, State.tblAnswered_of_none hnone]
      case done => rw [hcur, State.tblAnswered_of_some ho, State.tRun_of_ok hdone]
      case failed => rw [hcur, State.tblAnswered_of_some ho, State.tRun_of_error hdone]

end Sys2Proof
end
